-- ==== Sys2Proof/Word.lean ====
section
/-!
DEFINITION. The word types of the control link and the operand records of the two long orders.
-/

namespace Sys2Proof

/-- One byte of a link frame or of the sample memory. -/
abbrev Byte := BitVec 8

/-- Engine time, in time units, modulo 2^32 (00_scope.md 5.2). -/
abbrev Time := BitVec 32

/-- A set of skills, one bit a skill (00_scope.md 5.5). -/
abbrev Mask := BitVec 32

/-- Where an order is sent: this engine's own unit address, or unit address 0 (R182). -/
inductive Dest where
  | unit
  | broadcast
deriving DecidableEq, Repr

/-- The fields of SET QUEUE, indices 1 to 27 in their order and widths (01, section 1.2.3). -/
structure QueueFields where
  queue : BitVec 8
  reseed : BitVec 8
  requiredSkills : BitVec 32
  policy : BitVec 8
  defaultPriority : BitVec 8
  agingStep : BitVec 16
  capacity : BitVec 16
  offerTimeout : BitVec 16
  missAction : BitVec 8
  coolDown : BitVec 16
  missLimit : BitVec 8
  wrapAllowance : BitVec 16
  surgeWrapAllowance : BitVec 16
  extensionLength : BitVec 16
  maxExtensions : BitVec 8
  dispositionRequired : BitVec 8
  surgeTrim : BitVec 8
  defaultProgram : BitVec 8
  firstAnnouncementDelay : BitVec 16
  announcementInterval : BitVec 16
  overflowTarget : BitVec 8
  overflowWaitLimit : BitVec 16
  surgeCount : BitVec 16
  surgeWait : BitVec 16
  serviceThreshold : BitVec 16
  ahtSeed : BitVec 16
  smoothingShift : BitVec 8
deriving DecidableEq, Repr

/-- The fields of SET PROGRAM, indices 1 to 32 (07, section 7.1): eight loop clips and eight bands
(bound, clip) are always sent. -/
structure ProgramFields where
  program : BitVec 8
  options : BitVec 8
  introClip : BitVec 8
  exitClip : BitVec 8
  overClip : BitVec 8
  noEstimateClip : BitVec 8
  loopCount : BitVec 8
  loop : List (BitVec 8)
  bandCount : BitVec 8
  bands : List (BitVec 16 × BitVec 8)
deriving DecidableEq, Repr

end Sys2Proof
end

