-- ==== Sys2Proof/Config.lean ====
section
/-!
DEFINITION. The capacities of the part (00_scope.md, section 3) and the free values: what the spec leaves undefined or
does not state, as constants with no body, so that nothing can be proved of their values.
-/

namespace Sys2Proof.Config

/-- Call slots, 0 to 2047. -/
def callSlots : Nat := 2048
/-- Agents, 0 to 511. -/
def agents : Nat := 512
/-- Queues, 0 to 63. -/
def queues : Nat := 64
/-- Voices, 0 to 127. -/
def voices : Nat := 128
/-- Clips, 0 to 255. -/
def clips : Nat := 256
/-- Hold programs, 0 to 31. -/
def programs : Nat := 32
/-- Bytes of sample memory (R117). -/
def sampleBytes : Nat := 4194304
/-- Bytes of a page (R117). -/
def pageBytes : Nat := 512
/-- Replies the reply queue holds (R186). -/
def replyPlaces : Nat := 4
/-- Notices the notice queue holds (R187). -/
def noticePlaces : Nat := 256
/-- Receive buffers (R180). -/
def receiveBuffers : Nat := 2
/-- Highway frames in a time unit (R161). -/
def framesPerTu : Nat := 800
/-- The wrap length cap in tu (R81). -/
def wrapCap : Nat := 18000

/-- FREE VALUE (log 3): whether the frame being sent ends inside an event, before a notice of it that finds 256 waiting is queued
(R187). `n` counts these moments. -/
opaque frameEndsInside (n : Nat) : Bool

/-- FREE VALUE (log 9): the byte that sample memory address `addr` holds after the `n`-th power-on and before CLIP DATA
writes it. "After power-on the contents of the sample memory are undefined" (R117). -/
opaque undefinedSample (n addr : Nat) : BitVec 8

/-- FREE VALUE (log 10): the loop index of a voice taken for an exit clip by a call that leaves a shared voice. R140 gives
every voice that is not FREE a loop index 0 to 7 and R153 does not state this one. `n` counts the draws. -/
opaque unstatedLoopIndex (n : Nat) : Fin 8

/-- FREE VALUE (log 17): what READ PROGRAM reports at engine time `now` in field `index` of a defined program that has no such
optional clip. R138 states a value only for places beyond the counts and for an undefined program. -/
opaque absentClipField (now : BitVec 32) (program index : Nat) : BitVec 8

end Sys2Proof.Config
end

