-- ==== Sys2Proof/Syntax.lean ====
section
/-!
DEFINITION. The commands of the block: one constructor for each row of spec/opcode_table.json, with the row's operands at
their widths on the link. Orders are named as the spec names them; the four orders that may be broadcast (R182) carry their
destination. The events' operands say what the spec leaves to the outside or leaves open.
-/

namespace Sys2Proof

inductive Instr where
  /-- POWER_ON (R172): power is applied with these levels on the address and rate straps. -/
  | powerOn (addressStraps : BitVec 4) (rateStraps : BitVec 2)
  /-- RESET_PIN_ASSERT (R189): RESETN falls. -/
  | resetPinAssert
  /-- RESET_PIN_RELEASE (R173): RESETN rises with these levels on the straps. -/
  | resetPinRelease (addressStraps : BitVec 4) (rateStraps : BitVec 2)
  /-- REFCLK_STOP (R164). -/
  | refclkStop
  /-- REFCLK_RETURN (R164). -/
  | refclkReturn
  /-- HIGHWAY_FRAME (R146): a frame pulse. `order` is the order in which the voices are handled; voices it does not name
  follow in ascending number. -/
  | highwayFrame (order : List Nat)
  /-- TIME_UNIT_BOUNDARY (R161). -/
  | timeUnitBoundary
  /-- OFFER_EXPIRY (R68) of the call with this handle. -/
  | offerExpiry (handle : BitVec 16)
  /-- WRAP_EXPIRY (R85) of this agent's wrap. -/
  | wrapExpiry (agent : BitVec 16)
  /-- COOL_DOWN_END (R44) of this agent. -/
  | coolDownEnd (agent : BitVec 16)
  /-- SURGE_WHOLE_SECOND_EVALUATION (R109) of every queue. `order` is the order in which they are evaluated; queues it does
  not name follow in ascending number. -/
  | surgeWholeSecondEvaluation (order : List Nat)
  /-- SYNC_LOSS (R164): 8192 REFCLK periods have passed with no frame pulse. -/
  | syncLoss
  /-- CHARACTER_RECEIVED (R176): a character on RXD; `stopHigh` is whether its stop bit was read high. -/
  | characterReceived (data : BitVec 8) (stopHigh : Bool)
  /-- FRAME_RECEIVED (R178): a link frame's characters are received whole. The length byte is the body's length. -/
  | frameReceived (address : BitVec 8) (frameClass : BitVec 8) (kind : BitVec 8) (body : List (BitVec 8)) (crc : BitVec 16)
  /-- GAP_LIMIT (R177). -/
  | gapLimit
  /-- FRAME_SENT (R188): the transmitter finishes the frame it is sending. -/
  | frameSent
  /-- UNKNOWN_KIND (R181): an addressed order of a kind that is no order kind. -/
  | unknownKind (kind : BitVec 8) (body : List (BitVec 8))
  /-- BROADCAST_DROPPED (R182): a broadcast order of a kind or length not allowed for broadcast. -/
  | broadcastDropped (kind : BitVec 8) (body : List (BitVec 8))
  | startService (dest : Dest) (silence : BitVec 8)
  | stopService (dest : Dest)
  | clearService (dest : Dest)
  | readEngine
  | setQueue (fields : QueueFields)
  | setQueueState (dest : Dest) (queue : BitVec 8) (state : BitVec 8)
  | readQueue (queue : BitVec 8)
  | readQueueStatistics (queue : BitVec 8) (clear : BitVec 8)
  | readWaiting (queue : BitVec 8) (firstRank : BitVec 16) (count : BitVec 8)
  | enqueue (tag : BitVec 32) (queue : BitVec 8) (options : BitVec 8) (priority : BitVec 8) (extraSkills : BitVec 32) (program : BitVec 8)
  | remove (handle : BitVec 16) (cause : BitVec 8)
  | answer (handle : BitVec 16) (agent : BitVec 16)
  | refuseOffer (handle : BitVec 16) (agent : BitVec 16) (reasonPresent : BitVec 8) (reason : BitVec 8)
  | release (handle : BitVec 16)
  | divert (handle : BitVec 16)
  | cancelDivert (handle : BitVec 16)
  | readCall (handle : BitVec 16)
  | login (agent : BitVec 16) (skills : BitVec 32) (autoReady : BitVec 8) (initialState : BitVec 8) (reason : BitVec 8)
  | logout (agent : BitVec 16)
  | setReady (agent : BitVec 16)
  | setNotReady (agent : BitVec 16) (reason : BitVec 8)
  | setSkills (agent : BitVec 16) (skills : BitVec 32)
  | wrapDone (agent : BitVec 16) (options : BitVec 8) (code : BitVec 16) (reason : BitVec 8)
  | setDisposition (agent : BitVec 16) (code : BitVec 16)
  | extendWrap (agent : BitVec 16)
  | readAgent (agent : BitVec 16)
  | readAgentStates (firstAgent : BitVec 16) (count : BitVec 8)
  | openClipLoad (clip : BitVec 8) (startPage : BitVec 16) (length : BitVec 32)
  | clipData (clip : BitVec 8) (offset : BitVec 32) (data : List (BitVec 8))
  | closeClipLoad (clip : BitVec 8) (expectedXor : BitVec 8)
  | abortClipLoad (clip : BitVec 8)
  | freeClip (clip : BitVec 8)
  | readClip (clip : BitVec 8) (offset : BitVec 32) (count : BitVec 8)
  | readClipEntry (clip : BitVec 8)
  | setProgram (fields : ProgramFields)
  | deleteProgram (program : BitVec 8)
  | readProgram (program : BitVec 8)
  | readVoice (voice : BitVec 8)
deriving DecidableEq, Repr

end Sys2Proof
end

