-- ==== Sys2Proof/Decode.lean ====
section
/-!
DEFINITION. Reading a link frame's kind and body as an order (09, section 9.5), writing an order as a frame, and the host's
question about words, which this block's table does not give: no row of spec/opcode_table.json has bits.
-/

namespace Sys2Proof

/-- No row of the opcode table gives bits, so no word spells a command. -/
def decodeTableWord (_nbits _w : Nat) : Option Instr := none

/-- What a held frame stands for once its kind and body length are read (R181, R182): an order to hand over, or an addressed
order of a known kind whose body length is wrong. -/
inductive HeldFrame where
  | order (c : Instr)
  | badLength (kind : BitVec 8) (required received : Nat)
deriving DecidableEq, Repr

/-- The number whose bytes, high byte first, are `bs` (00_scope.md 5.6). -/
def beNumber (bs : List Byte) : Nat := bs.foldl (fun n b => n * 256 + b.toNat) 0

/-- The `size`-byte field at `offset` of a body. -/
def bodyField (body : List Byte) (offset size : Nat) : Nat := beNumber ((body.drop offset).take size)

def field8 (body : List Byte) (offset : Nat) : BitVec 8 := BitVec.ofNat 8 (bodyField body offset 1)
def field16 (body : List Byte) (offset : Nat) : BitVec 16 := BitVec.ofNat 16 (bodyField body offset 2)
def field32 (body : List Byte) (offset : Nat) : BitVec 32 := BitVec.ofNat 32 (bodyField body offset 4)

/-- The required body length of each order kind (09, the kind-code table). CLIP DATA, 0x41, takes 6 to 245 and reports 245
(R181). -/
def requiredLength (kind : Nat) : Option Nat :=
  match kind with
  | 0x01 => some 1
  | 0x02 => some 0
  | 0x03 => some 0
  | 0x04 => some 0
  | 0x10 => some 44
  | 0x11 => some 2
  | 0x12 => some 1
  | 0x13 => some 2
  | 0x14 => some 4
  | 0x20 => some 12
  | 0x21 => some 3
  | 0x22 => some 4
  | 0x23 => some 6
  | 0x24 => some 2
  | 0x25 => some 2
  | 0x26 => some 2
  | 0x27 => some 2
  | 0x30 => some 9
  | 0x31 => some 2
  | 0x32 => some 2
  | 0x33 => some 3
  | 0x34 => some 6
  | 0x35 => some 6
  | 0x36 => some 4
  | 0x37 => some 2
  | 0x38 => some 2
  | 0x39 => some 3
  | 0x40 => some 7
  | 0x41 => some 245
  | 0x42 => some 2
  | 0x43 => some 1
  | 0x44 => some 1
  | 0x45 => some 6
  | 0x46 => some 1
  | 0x50 => some 40
  | 0x51 => some 1
  | 0x52 => some 1
  | 0x53 => some 1
  | _ => none

/-- Whether a body length is right for an order kind (R181). -/
def lengthRight (kind received : Nat) : Bool :=
  if kind = 0x41 then decide (6 ≤ received ∧ received ≤ 245) else requiredLength kind == some received

/-- The kinds that may be broadcast (R182). -/
def broadcastKind (kind : Nat) : Bool := kind == 0x01 || kind == 0x02 || kind == 0x03 || kind == 0x11

/-- SET QUEUE's body, 44 bytes. -/
def queueFieldsOf (b : List Byte) : QueueFields :=
  { queue := field8 b 0, reseed := field8 b 1, requiredSkills := field32 b 2, policy := field8 b 6,
    defaultPriority := field8 b 7, agingStep := field16 b 8, capacity := field16 b 10, offerTimeout := field16 b 12,
    missAction := field8 b 14, coolDown := field16 b 15, missLimit := field8 b 17, wrapAllowance := field16 b 18,
    surgeWrapAllowance := field16 b 20, extensionLength := field16 b 22, maxExtensions := field8 b 24,
    dispositionRequired := field8 b 25, surgeTrim := field8 b 26, defaultProgram := field8 b 27,
    firstAnnouncementDelay := field16 b 28, announcementInterval := field16 b 30, overflowTarget := field8 b 32,
    overflowWaitLimit := field16 b 33, surgeCount := field16 b 35, surgeWait := field16 b 37,
    serviceThreshold := field16 b 39, ahtSeed := field16 b 41, smoothingShift := field8 b 43 }

/-- SET PROGRAM's body, 40 bytes. -/
def programFieldsOf (b : List Byte) : ProgramFields :=
  { program := field8 b 0, options := field8 b 1, introClip := field8 b 2, exitClip := field8 b 3, overClip := field8 b 4,
    noEstimateClip := field8 b 5, loopCount := field8 b 6, loop := (List.range 8).map fun i => field8 b (7 + i),
    bandCount := field8 b 15, bands := (List.range 8).map fun j => (field16 b (16 + 3 * j), field8 b (18 + 3 * j)) }

/-- The order of a kind whose body has the right length. A kind that is no order kind gives UNKNOWN_KIND. -/
def decodedOrder (dest : Dest) (kind : BitVec 8) (b : List Byte) : Instr :=
  match kind.toNat with
  | 0x01 => .startService dest (field8 b 0)
  | 0x02 => .stopService dest
  | 0x03 => .clearService dest
  | 0x04 => .readEngine
  | 0x10 => .setQueue (queueFieldsOf b)
  | 0x11 => .setQueueState dest (field8 b 0) (field8 b 1)
  | 0x12 => .readQueue (field8 b 0)
  | 0x13 => .readQueueStatistics (field8 b 0) (field8 b 1)
  | 0x14 => .readWaiting (field8 b 0) (field16 b 1) (field8 b 3)
  | 0x20 => .enqueue (field32 b 0) (field8 b 4) (field8 b 5) (field8 b 6) (field32 b 7) (field8 b 11)
  | 0x21 => .remove (field16 b 0) (field8 b 2)
  | 0x22 => .answer (field16 b 0) (field16 b 2)
  | 0x23 => .refuseOffer (field16 b 0) (field16 b 2) (field8 b 4) (field8 b 5)
  | 0x24 => .release (field16 b 0)
  | 0x25 => .divert (field16 b 0)
  | 0x26 => .cancelDivert (field16 b 0)
  | 0x27 => .readCall (field16 b 0)
  | 0x30 => .login (field16 b 0) (field32 b 2) (field8 b 6) (field8 b 7) (field8 b 8)
  | 0x31 => .logout (field16 b 0)
  | 0x32 => .setReady (field16 b 0)
  | 0x33 => .setNotReady (field16 b 0) (field8 b 2)
  | 0x34 => .setSkills (field16 b 0) (field32 b 2)
  | 0x35 => .wrapDone (field16 b 0) (field8 b 2) (field16 b 3) (field8 b 5)
  | 0x36 => .setDisposition (field16 b 0) (field16 b 2)
  | 0x37 => .extendWrap (field16 b 0)
  | 0x38 => .readAgent (field16 b 0)
  | 0x39 => .readAgentStates (field16 b 0) (field8 b 2)
  | 0x40 => .openClipLoad (field8 b 0) (field16 b 1) (field32 b 3)
  | 0x41 => .clipData (field8 b 0) (field32 b 1) (b.drop 5)
  | 0x42 => .closeClipLoad (field8 b 0) (field8 b 1)
  | 0x43 => .abortClipLoad (field8 b 0)
  | 0x44 => .freeClip (field8 b 0)
  | 0x45 => .readClip (field8 b 0) (field32 b 1) (field8 b 5)
  | 0x46 => .readClipEntry (field8 b 0)
  | 0x50 => .setProgram (programFieldsOf b)
  | 0x51 => .deleteProgram (field8 b 0)
  | 0x52 => .readProgram (field8 b 0)
  | 0x53 => .readVoice (field8 b 0)
  | _ => .unknownKind kind b

/-- A frame that is to be held (R178, case 4), read as R181 and R182 read it at hand-over. -/
def readFrame (dest : Dest) (kind : BitVec 8) (body : List Byte) : HeldFrame :=
  match dest with
  | .broadcast =>
    if broadcastKind kind.toNat && lengthRight kind.toNat body.length then .order (decodedOrder .broadcast kind body)
    else .order (.broadcastDropped kind body)
  | .unit =>
    match requiredLength kind.toNat with
    | none => .order (.unknownKind kind body)
    | some n =>
      if lengthRight kind.toNat body.length then .order (decodedOrder .unit kind body)
      else .badLength kind n body.length

/-! ### Writing an order as a frame (09, section 9.5) -/

/-- The `size` bytes of a number, high byte first (00_scope.md 5.6). -/
def beBytes : Nat → Nat → List Byte
  | 0, _ => []
  | n + 1, v => beBytes n (v / 256) ++ [BitVec.ofNat 8 v]

/-- SET QUEUE's body (01, section 1.2.3): its fields in index order with their sizes. -/
def queueBody (f : QueueFields) : List Byte :=
  [(1, f.queue.toNat), (1, f.reseed.toNat), (4, f.requiredSkills.toNat), (1, f.policy.toNat), (1, f.defaultPriority.toNat),
   (2, f.agingStep.toNat), (2, f.capacity.toNat), (2, f.offerTimeout.toNat), (1, f.missAction.toNat), (2, f.coolDown.toNat),
   (1, f.missLimit.toNat), (2, f.wrapAllowance.toNat), (2, f.surgeWrapAllowance.toNat), (2, f.extensionLength.toNat),
   (1, f.maxExtensions.toNat), (1, f.dispositionRequired.toNat), (1, f.surgeTrim.toNat), (1, f.defaultProgram.toNat),
   (2, f.firstAnnouncementDelay.toNat), (2, f.announcementInterval.toNat), (1, f.overflowTarget.toNat),
   (2, f.overflowWaitLimit.toNat), (2, f.surgeCount.toNat), (2, f.surgeWait.toNat), (2, f.serviceThreshold.toNat),
   (2, f.ahtSeed.toNat), (1, f.smoothingShift.toNat)].flatMap fun p => beBytes p.1 p.2

/-- SET PROGRAM's body (07, section 7.1). -/
def programBody (f : ProgramFields) : List Byte :=
  [f.program, f.options, f.introClip, f.exitClip, f.overClip, f.noEstimateClip, f.loopCount] ++ f.loop ++ [f.bandCount] ++
    f.bands.flatMap fun b => beBytes 2 b.1.toNat ++ [b.2]

/-- The destination, kind and body of an order's frame. The events are no orders. -/
def orderFrame (c : Instr) : Option (Dest × BitVec 8 × List Byte) :=
  match c with
  | .startService dest silence => some (dest, 0x01, [silence])
  | .stopService dest => some (dest, 0x02, [])
  | .clearService dest => some (dest, 0x03, [])
  | .readEngine => some (.unit, 0x04, [])
  | .setQueue f => some (.unit, 0x10, queueBody f)
  | .setQueueState dest q st => some (dest, 0x11, [q, st])
  | .readQueue q => some (.unit, 0x12, [q])
  | .readQueueStatistics q clear => some (.unit, 0x13, [q, clear])
  | .readWaiting q first n => some (.unit, 0x14, [q] ++ beBytes 2 first.toNat ++ [n])
  | .enqueue tag q options priority skills program =>
    some (.unit, 0x20, beBytes 4 tag.toNat ++ [q, options, priority] ++ beBytes 4 skills.toNat ++ [program])
  | .remove h cause => some (.unit, 0x21, beBytes 2 h.toNat ++ [cause])
  | .answer h a => some (.unit, 0x22, beBytes 2 h.toNat ++ beBytes 2 a.toNat)
  | .refuseOffer h a present reason => some (.unit, 0x23, beBytes 2 h.toNat ++ beBytes 2 a.toNat ++ [present, reason])
  | .release h => some (.unit, 0x24, beBytes 2 h.toNat)
  | .divert h => some (.unit, 0x25, beBytes 2 h.toNat)
  | .cancelDivert h => some (.unit, 0x26, beBytes 2 h.toNat)
  | .readCall h => some (.unit, 0x27, beBytes 2 h.toNat)
  | .login a skills auto initial reason =>
    some (.unit, 0x30, beBytes 2 a.toNat ++ beBytes 4 skills.toNat ++ [auto, initial, reason])
  | .logout a => some (.unit, 0x31, beBytes 2 a.toNat)
  | .setReady a => some (.unit, 0x32, beBytes 2 a.toNat)
  | .setNotReady a reason => some (.unit, 0x33, beBytes 2 a.toNat ++ [reason])
  | .setSkills a skills => some (.unit, 0x34, beBytes 2 a.toNat ++ beBytes 4 skills.toNat)
  | .wrapDone a options code reason => some (.unit, 0x35, beBytes 2 a.toNat ++ [options] ++ beBytes 2 code.toNat ++ [reason])
  | .setDisposition a code => some (.unit, 0x36, beBytes 2 a.toNat ++ beBytes 2 code.toNat)
  | .extendWrap a => some (.unit, 0x37, beBytes 2 a.toNat)
  | .readAgent a => some (.unit, 0x38, beBytes 2 a.toNat)
  | .readAgentStates first n => some (.unit, 0x39, beBytes 2 first.toNat ++ [n])
  | .openClipLoad k page len => some (.unit, 0x40, [k] ++ beBytes 2 page.toNat ++ beBytes 4 len.toNat)
  | .clipData k offset data => some (.unit, 0x41, [k] ++ beBytes 4 offset.toNat ++ data)
  | .closeClipLoad k expected => some (.unit, 0x42, [k, expected])
  | .abortClipLoad k => some (.unit, 0x43, [k])
  | .freeClip k => some (.unit, 0x44, [k])
  | .readClip k offset n => some (.unit, 0x45, [k] ++ beBytes 4 offset.toNat ++ [n])
  | .readClipEntry k => some (.unit, 0x46, [k])
  | .setProgram f => some (.unit, 0x50, programBody f)
  | .deleteProgram p => some (.unit, 0x51, [p])
  | .readProgram p => some (.unit, 0x52, [p])
  | .readVoice v => some (.unit, 0x53, [v])
  | .unknownKind kind body => some (.unit, kind, body)
  | .broadcastDropped kind body => some (.broadcast, kind, body)
  | .powerOn _ _ => none
  | .resetPinAssert => none
  | .resetPinRelease _ _ => none
  | .refclkStop => none
  | .refclkReturn => none
  | .highwayFrame _ => none
  | .timeUnitBoundary => none
  | .offerExpiry _ => none
  | .wrapExpiry _ => none
  | .coolDownEnd _ => none
  | .surgeWholeSecondEvaluation _ => none
  | .syncLoss => none
  | .characterReceived _ _ => none
  | .frameReceived _ _ _ _ _ => none
  | .gapLimit => none
  | .frameSent => none

end Sys2Proof
end

