-- ==== Sys2Proof/Machine/Table.lean ====
section
/-!
DEFINITION. Sparse tables: a list of (index, value) pairs with the indices strictly rising. An index that is not listed has
no value. The record tables of State and the sample memory are held in this form.
-/

namespace Sys2Proof.Machine

/-- A table by index. An unlisted index has no value. -/
abbrev Table (α : Type) := List (Nat × α)

/-- The value at an index. -/
def tableFind {α : Type} : Table α → Nat → Option α
  | [], _ => none
  | (i, v) :: t, k => if i = k then some v else tableFind t k

/-- The table with this value at this index. -/
def tableInsert {α : Type} : Table α → Nat → α → Table α
  | [], k, v => [(k, v)]
  | (i, w) :: t, k, v =>
    if k < i then (k, v) :: (i, w) :: t
    else if k = i then (k, v) :: t
    else (i, w) :: tableInsert t k v

/-- The table without this index. -/
def tableErase {α : Type} (t : Table α) (k : Nat) : Table α := t.filter fun e => e.1 ≠ k

/-- For a table whose unlisted indices read as `d`: the table with `v` at `k`, which lists nothing equal to `d`. -/
def tablePut {α : Type} [DecidableEq α] (d : α) (t : Table α) (k : Nat) (v : α) : Table α :=
  if v = d then tableErase t k else tableInsert t k v

/-- The canonical form: indices strictly rising. -/
def tableRising {α : Type} : Table α → Bool
  | [] => true
  | (i, _) :: t => t.all (fun e => decide (i < e.1)) && tableRising t

end Sys2Proof.Machine
end

