-- ==== Sys2Proof/Machine/State.lean ====
section
/-!
DEFINITION. Everything the spec gives the engine, as plain data, and the state right after power-on.
A record field that holds only under a condition is held by the constructor or the option that says the condition.
-/

namespace Sys2Proof.Machine

/-! ### Queues (R6, R10) -/

/-- The selection policies (R55). -/
inductive SelectionPolicy where
  | longestIdle | mostRecent | rotate | fewestCalls
deriving DecidableEq, Repr

/-- What becomes of an agent that misses an offer (R47). -/
inductive MissAction where
  | returnReady | park
deriving DecidableEq, Repr

/-- The queue states (R7). -/
inductive QueueState where
  | opened | paused | draining | closed
deriving DecidableEq, Repr

/-- The settings SET QUEUE writes (R10), as stored after clamping. -/
structure QueueSettings where
  requiredSkills : Mask
  policy : SelectionPolicy
  defaultPriority : Nat
  agingStep : Nat
  capacity : Nat
  offerTimeout : Nat
  missAction : MissAction
  coolDown : Nat
  missLimit : Nat
  wrapAllowance : Nat
  surgeWrapAllowance : Nat
  extensionLength : Nat
  maxExtensions : Nat
  dispositionRequired : Bool
  surgeTrim : Bool
  defaultProgram : Option Nat
  firstAnnouncementDelay : Nat
  announcementInterval : Nat
  overflowTarget : Option Nat
  overflowWaitLimit : Nat
  surgeCount : Nat
  surgeWait : Nat
  serviceThreshold : Nat
  ahtSeed : Nat
  smoothingShift : Nat
deriving DecidableEq, Repr

/-- The defaults of R10. -/
def defaultSettings : QueueSettings :=
  { requiredSkills := 0, policy := .longestIdle, defaultPriority := 0, agingStep := 0, capacity := 2048,
    offerTimeout := 150, missAction := .returnReady, coolDown := 50, missLimit := 3, wrapAllowance := 300,
    surgeWrapAllowance := 100, extensionLength := 300, maxExtensions := 1, dispositionRequired := false,
    surgeTrim := false, defaultProgram := none, firstAnnouncementDelay := 300, announcementInterval := 600,
    overflowTarget := none, overflowWaitLimit := 0, surgeCount := 0, surgeWait := 0, serviceThreshold := 200,
    ahtSeed := 1800, smoothingShift := 4 }

/-- The interval counters (R105), each 0 to 65,535. -/
structure Counters where
  arrived : Nat
  overflowedIn : Nat
  overflowedOut : Nat
  answered : Nat
  answeredWithin : Nat
  abandoned : Nat
  withdrawn : Nat
  missedOffers : Nat
  refusedOffers : Nat
  completed : Nat
  longestAnsweredWait : Nat
deriving DecidableEq, Repr

def zeroCounters : Counters :=
  { arrived := 0, overflowedIn := 0, overflowedOut := 0, answered := 0, answeredWithin := 0, abandoned := 0,
    withdrawn := 0, missedOffers := 0, refusedOffers := 0, completed := 0, longestAnsweredWait := 0 }

/-- A queue record (R6, R97). `waiting` holds the handles of its WAITING and DIVERTING calls in arrival order (R14). -/
structure Queue where
  state : QueueState
  settings : QueueSettings
  waiting : List Nat
  cursor : Nat
  surge : Bool
  aht16 : Nat
  counters : Counters
  intervalStart : Time
deriving DecidableEq, Repr

/-- Every queue after power-on and after the reset pin (R28, R116). -/
def queueAtReset : Queue :=
  { state := .closed, settings := defaultSettings, waiting := [], cursor := 511, surge := false, aht16 := 28800,
    counters := zeroCounters, intervalStart := 0 }

/-! ### Calls (R1) -/

/-- The state of a call in use, with the fields that hold in that state only. -/
inductive CallStatus where
  | waiting
  | diverting (done : Bool)
  | offered (agent : Nat) (deadline : Option Time)
  | connected (answerTime : Time)
deriving DecidableEq, Repr

/-- The record of a call in use. A FREE slot holds none. The handle is the slot's generation and the slot.
`arrivalSeq` is the count of arrival sequences given out before this one; the 32-bit arrival sequence is its value
modulo 2^32, and comparing counts is comparing by age (00_scope.md 5.3; log 8). -/
structure Call where
  tag : BitVec 32
  status : CallStatus
  queue : Nat
  originQueue : Option Nat
  basePriority : Nat
  extraSkills : Option Mask
  arrivalSeq : Nat
  arrivalTime : Time
  program : Option Nat
  voice : Option Nat
  awaitingVoice : Bool
  exclusion : List Nat
  announceDue : Option Time
  offerCount : Nat
deriving DecidableEq, Repr

/-! ### Agents (R29) and wraps (R78) -/

/-- A wrap record (R78). -/
structure WrapRecord where
  queue : Nat
  talkTime : Time
  start : Time
  deadline : Time
  extensions : Nat
  disposition : Option (BitVec 16)
deriving DecidableEq, Repr

/-- The state of an agent that is logged in, with the fields that hold in that state only. Ready sequences are held as
counts, like arrival sequences. -/
inductive AgentStatus where
  | notReady (reason : Nat)
  | ready (seq : Nat) (coolDownEnd : Option Time)
  | offered (call : Nat) (seq : Nat)
  | talking (call : Nat) (pendingReason : Option Nat)
  | wrap (record : WrapRecord) (pendingReason : Option Nat)
deriving DecidableEq, Repr

/-- The record of an agent that is logged in. A LOGGED_OUT agent holds none. -/
structure Agent where
  status : AgentStatus
  skills : Mask
  autoReady : Bool
  misses : Nat
  answered : Nat
deriving DecidableEq, Repr

/-! ### Clips (R118) -/

inductive FaultCause where
  | short | check
deriving DecidableEq, Repr

/-- The state of a clip that is not FREE, with the fields that hold in that state only. -/
inductive ClipStatus where
  | loading (cursor : Nat) (xor : Byte) (excess : Nat)
  | ready
  | faulty (cause : FaultCause)
deriving DecidableEq, Repr

/-- The entry of a clip that is not FREE. A FREE clip holds none, and has use count 0. -/
structure Clip where
  status : ClipStatus
  startPage : Nat
  length : Nat
  useCount : Nat
deriving DecidableEq, Repr

/-! ### Programs (R134) and voices (R140) -/

/-- A defined program. An undefined program holds none. `bands` are (upper bound, clip) in ascending bounds. -/
structure Program where
  introClip : Option Nat
  exitClip : Option Nat
  overClip : Option Nat
  noEstimateClip : Option Nat
  loop : List Nat
  bands : List (Nat × Nat)
deriving DecidableEq, Repr

inductive VoiceMode where
  | private_ (call : Nat)
  | shared (listeners : Nat)
deriving DecidableEq, Repr

inductive Segment where
  | intro
  | loop
  | announce (returnIndex : Nat)
  | exit
deriving DecidableEq, Repr

/-- The record of a voice that is not FREE. A FREE voice holds none. -/
structure Voice where
  program : Nat
  mode : VoiceMode
  segment : Segment
  loopIndex : Nat
  clip : Nat
  offset : Nat
deriving DecidableEq, Repr

/-- What the highway data output carried in the last frame (R157). -/
inductive Highway where
  | undriven
  | driven (slots : List Byte)
deriving DecidableEq, Repr

/-! ### Link (09) -/

/-- One field of a frame body: its size in bytes and its value (00_scope.md 5.6). -/
structure LinkField where
  size : Nat
  value : Nat
deriving DecidableEq, Repr

/-- A frame the engine sends: class 2 ACCEPT, 3 REFUSE or 4 notice (R175). -/
structure OutFrame where
  frameClass : Nat
  kind : Nat
  body : List LinkField
deriving DecidableEq, Repr

/-- The receiver (R176): hunting, or in a frame with the characters taken after the start byte. -/
inductive Receiver where
  | hunting
  | inFrame (taken : List Byte)
deriving DecidableEq, Repr

/-! ### Time Base (R161, R162) -/

/-- Which parts of the present boundary pulse have been taken (log 5): both or neither, the frame event alone, or the count
alone. The spec leaves their order open (R161). -/
inductive PulseMark where
  | whole
  | played
  | counted
deriving DecidableEq, Repr

/-- The work the last time-unit boundary signalled that is not done yet (R162): offers by handle, wraps and cool-downs by
agent, and the whole-second evaluation. -/
structure DueWork where
  offers : List Nat
  wraps : List Nat
  coolDowns : List Nat
  surge : Bool
deriving DecidableEq, Repr

def noWork : DueWork := { offers := [], wraps := [], coolDowns := [], surge := false }

/-! ### The machine -/

/-- The faults of the model: none. The spec gives every command an effect. -/
inductive Fault where
deriving DecidableEq, Repr

/-- The refusals of the model. -/
inductive Refusal where
  /-- Raised by exec's arm of a command that has no meaning yet: by none. Safe. -/
  | notModelled (mnemonic : String)
deriving DecidableEq, Repr

structure State where
  /-- Commands waiting, first in first out. -/
  pending : List Instr
  clockRunning : Bool
  resetHeld : Bool
  unitAddress : Nat
  rateStraps : BitVec 2
  powerOns : Nat
  freeDraws : Nat
  highway : Highway
  framePhase : Nat
  now : Time
  syncPresent : Bool
  pulse : PulseMark
  due : DueWork
  inService : Bool
  receiver : Receiver
  held : List HeldFrame
  replies : List OutFrame
  notices : List OutFrame
  noticesLost : Bool
  badCheck : BitVec 16
  lengthErrors : BitVec 16
  gapErrors : BitVec 16
  overruns : BitVec 16
  sending : Option OutFrame
  /-- The MODEL's own count of the moments left open by R187 (log 3). -/
  frameEnds : Nat
  generations : Table Nat
  arrivals : Nat
  calls : Table Call
  queues : Table Queue
  agents : Table Agent
  readyList : List Nat
  readies : Nat
  samples : Table Byte
  clips : Table Clip
  programs : Table Program
  voices : Table Voice
  silence : Byte
deriving DecidableEq, Repr

/-- The engine right after power-on with the straps low (R172; the straps, the clock and RESETN: log 11). -/
def State.reset : State :=
  { pending := [], clockRunning := true, resetHeld := false, unitAddress := 1, rateStraps := 0, powerOns := 0,
    freeDraws := 0, highway := .undriven, framePhase := 0, now := 0, syncPresent := false, pulse := .whole, due := noWork,
    inService := false, receiver := .hunting, held := [], replies := [], notices := [], noticesLost := false,
    badCheck := 0, lengthErrors := 0, gapErrors := 0, overruns := 0, sending := none, frameEnds := 0, generations := [],
    arrivals := 0, calls := [], queues := [], agents := [], readyList := [], readies := 0, samples := [], clips := [], programs := [],
    voices := [], silence := 0xFF }

end Sys2Proof.Machine
end

