-- ==== Sys2Proof/Machine/Operands.lean ====
section
/-!
DEFINITION. Operand forms: link fields and frames out, option bytes in, the clamping of R10, and the codes that replies,
notices and refusals carry.
-/

namespace Sys2Proof.Machine

/-! ### Fields and frames -/

def f1 (v : Nat) : LinkField := { size := 1, value := v }
def f2 (v : Nat) : LinkField := { size := 2, value := v }
def f4 (v : Nat) : LinkField := { size := 4, value := v }

/-- A truth value in a one-byte field: 0 no, 1 yes. -/
def bit (b : Bool) : Nat := if b then 1 else 0

def fieldBytes (f : LinkField) : List Byte := beBytes f.size f.value

/-- The body of a frame the engine sends: its fields, packed with no padding (09, section 9.11). -/
def bodyBytes (fs : List LinkField) : List Byte := fs.flatMap fieldBytes

/-- The bits of a character on the line, in the order they are sent, low as `false`: a low start bit, the 8 data bits with the least
significant first, no parity bit, a high stop bit (R174). -/
def characterBits (b : Byte) : List Bool := [false] ++ (List.range 8).map (fun i => b.getLsbD i) ++ [true]

/-- The data byte of the ten bits of a character, as the receiver takes it (R174). -/
def characterByte (bits : List Bool) : Byte :=
  (List.range 8).foldl (fun b i => b ||| (if bits.getD (i + 1) false then 1#8 <<< i else 0#8)) 0#8

/-- Whether a character's stop bit is read high; low is a framing error (R174). -/
def stopBit (bits : List Bool) : Bool := bits.getD 9 false

/-- The bit rate of a rate strap value, RATE1 its higher bit, in Mbit/s (R174). -/
def bitRateMbit (rate : BitVec 2) : Nat :=
  match rate with
  | 0#2 => 1
  | 1#2 => 2
  | 2#2 => 4
  | 3#2 => 8

/-- The time of a character, ten bits, in nanoseconds (R174). -/
def characterTimeNs (rate : BitVec 2) : Nat := 10 * (1000 / bitRateMbit rate)

/-- One bit of the CRC register with generator x^16 + x^12 + x^5 + 1 (R175). -/
def crcShift (r : BitVec 16) : BitVec 16 := if r.msb then (r <<< 1) ^^^ 0x1021#16 else r <<< 1

/-- A byte enters the CRC register most significant bit first. -/
def crcByte (r : BitVec 16) (b : Byte) : BitVec 16 :=
  Nat.repeat crcShift 8 (r ^^^ (b.setWidth 16 <<< 8))

/-- The CRC of R175: preset to 0xFFFF, no reflection, no inversion. -/
def crcOf (bs : List Byte) : BitVec 16 := bs.foldl crcByte 0xFFFF#16

/-- The bytes a CRC covers: from the unit address to the last body byte (R175). -/
def crcCovered (address frameClass kind : Byte) (body : List Byte) : List Byte :=
  [address, frameClass, kind, BitVec.ofNat 8 body.length] ++ body

/-- A frame whole, from start byte to CRC (R175). -/
def frameBytes (address frameClass kind : Byte) (body : List Byte) (crc : BitVec 16) : List Byte :=
  [0x7E#8] ++ crcCovered address frameClass kind body ++ [(crc >>> 8).setWidth 8, crc.setWidth 8]

/-- The bytes on TXD of a frame the engine sends from this unit address (R175). -/
def outBytes (unit : Nat) (f : OutFrame) : List Byte :=
  let a := BitVec.ofNat 8 unit
  let c := BitVec.ofNat 8 f.frameClass
  let k := BitVec.ofNat 8 f.kind
  let body := bodyBytes f.body
  frameBytes a c k body (crcOf (crcCovered a c k body))

/-- What TXD carries: the characters of the frame being sent, back to back, or the resting high level (R174). -/
def txdBits (s : State) : List Bool :=
  match s.sending with
  | some f => (outBytes s.unitAddress f).flatMap characterBits
  | none => [true]

/-- The bits of a timeslot on the highway, in the order they are clocked: most significant bit first (R157). -/
def slotBits (b : Byte) : List Bool := (List.range 8).map fun i => b.getLsbD (7 - i)

/-- The bits HWDO carries in a frame, from timeslot 0 on; none while it is left undriven (R157). -/
def hwdoBits (s : State) : Option (List Bool) :=
  match s.highway with
  | .driven slots => some (slots.flatMap slotBits)
  | .undriven => none

/-! ### Codes -/

def queueStateCode : QueueState → Nat
  | .opened => 0
  | .paused => 1
  | .draining => 2
  | .closed => 3

def queueStateOf (n : Nat) : QueueState :=
  if n = 0 then .opened else if n = 1 then .paused else if n = 2 then .draining else .closed

def policyCode : SelectionPolicy → Nat
  | .longestIdle => 0
  | .mostRecent => 1
  | .rotate => 2
  | .fewestCalls => 3

def policyOf (n : Nat) : SelectionPolicy :=
  if n = 0 then .longestIdle else if n = 1 then .mostRecent else if n = 2 then .rotate else .fewestCalls

def missActionCode : MissAction → Nat
  | .returnReady => 0
  | .park => 1

def missActionOf (n : Nat) : MissAction := if n = 0 then .returnReady else .park

/-- The call state codes (READ CALL's reply). -/
def callStateCode : CallStatus → Nat
  | .waiting => 1
  | .diverting _ => 2
  | .offered _ _ => 3
  | .connected _ => 4

/-- The agent state codes (02, section 2.2); LOGGED_OUT is 0. -/
def agentStateCode : Option Agent → Nat
  | none => 0
  | some a =>
    match a.status with
    | .notReady _ => 1
    | .ready _ _ => 2
    | .offered _ _ => 3
    | .talking _ _ => 4
    | .wrap _ _ => 5

/-- The clip state codes (R118); FREE is 0. -/
def clipStateCode : Option Clip → Nat
  | none => 0
  | some c =>
    match c.status with
    | .loading _ _ _ => 1
    | .ready => 2
    | .faulty _ => 3

def faultCauseCode : FaultCause → Nat
  | .short => 1
  | .check => 2

/-- The voice state codes (R140); FREE is 0. -/
def voiceStateCode : Option Voice → Nat
  | none => 0
  | some v =>
    match v.mode with
    | .private_ _ => 1
    | .shared _ => 2

/-- The segment codes (R140). -/
def segmentCode : Segment → Nat
  | .intro => 1
  | .loop => 2
  | .announce _ => 3
  | .exit => 4

/-- The refusal codes (R183). -/
inductive RefusalCode where
  | unknownKind | badLength | badField | noSuch | wrongState | noRoom | inUse | limit | tooLate | codeMissing | sequence
  | surge | closed
deriving DecidableEq, Repr

def refusalNumber : RefusalCode → Nat
  | .unknownKind => 1
  | .badLength => 2
  | .badField => 3
  | .noSuch => 4
  | .wrongState => 5
  | .noRoom => 6
  | .inUse => 7
  | .limit => 8
  | .tooLate => 9
  | .codeMissing => 10
  | .sequence => 11
  | .surge => 12
  | .closed => 13

/-- What an owner answers to an order (R183): ACCEPT with the adjusted mark and the reply fields, or REFUSE with a code, a
field index and a detail. -/
inductive Answer where
  | accept (adjusted : Bool) (fields : List LinkField)
  | refuse (code : RefusalCode) (index detail : Nat)
deriving DecidableEq, Repr

/-! ### Option bytes -/

/-- Bit `i` of an options byte. -/
def optionBit (b : BitVec 8) (i : Nat) : Bool := b.getLsbD i

/-- A one-byte number where 255 means none. -/
def orNone (b : BitVec 8) : Option Nat := if b.toNat = 255 then none else some b.toNat

/-- An optional number's field value, with the value it reads as when absent. -/
def orElse (o : Option Nat) (absent : Nat) : Nat := o.getD absent

/-! ### Clamping (R10) -/

/-- A value with only an upper limit. -/
def clampHigh (high v : Nat) : Nat := min v high

/-- A value with both limits. -/
def clampBoth (low high v : Nat) : Nat := max low (min v high)

/-- A value with both limits for which 0 means off. -/
def clampOrOff (low high v : Nat) : Nat := if v = 0 then 0 else clampBoth low high v

/-- The settings SET QUEUE stores (R10). -/
def storedSettings (f : QueueFields) : QueueSettings :=
  { requiredSkills := f.requiredSkills
    policy := policyOf f.policy.toNat
    defaultPriority := clampHigh 127 f.defaultPriority.toNat
    agingStep := f.agingStep.toNat
    capacity := clampHigh 2048 f.capacity.toNat
    offerTimeout := clampOrOff 50 600 f.offerTimeout.toNat
    missAction := missActionOf f.missAction.toNat
    coolDown := clampHigh 600 f.coolDown.toNat
    missLimit := clampBoth 1 15 f.missLimit.toNat
    wrapAllowance := clampHigh 6000 f.wrapAllowance.toNat
    surgeWrapAllowance := clampHigh 6000 f.surgeWrapAllowance.toNat
    extensionLength := clampBoth 10 1200 f.extensionLength.toNat
    maxExtensions := clampHigh 7 f.maxExtensions.toNat
    dispositionRequired := f.dispositionRequired.toNat == 1
    surgeTrim := f.surgeTrim.toNat == 1
    defaultProgram := orNone f.defaultProgram
    firstAnnouncementDelay := clampHigh 36000 f.firstAnnouncementDelay.toNat
    announcementInterval := clampOrOff 150 36000 f.announcementInterval.toNat
    overflowTarget := orNone f.overflowTarget
    overflowWaitLimit := clampHigh 65534 f.overflowWaitLimit.toNat
    surgeCount := clampHigh 2048 f.surgeCount.toNat
    surgeWait := f.surgeWait.toNat
    serviceThreshold := f.serviceThreshold.toNat
    ahtSeed := max 1 f.ahtSeed.toNat
    smoothingShift := clampHigh 7 f.smoothingShift.toNat }

/-- How many settings are stored as clamped: those whose stored value is not the value sent (R10, R11). -/
def clampedCount (f : QueueFields) : Nat :=
  let q := storedSettings f
  [(f.defaultPriority.toNat, q.defaultPriority), (f.capacity.toNat, q.capacity), (f.offerTimeout.toNat, q.offerTimeout),
   (f.coolDown.toNat, q.coolDown), (f.missLimit.toNat, q.missLimit), (f.wrapAllowance.toNat, q.wrapAllowance),
   (f.surgeWrapAllowance.toNat, q.surgeWrapAllowance), (f.extensionLength.toNat, q.extensionLength),
   (f.maxExtensions.toNat, q.maxExtensions), (f.firstAnnouncementDelay.toNat, q.firstAnnouncementDelay),
   (f.announcementInterval.toNat, q.announcementInterval), (f.overflowWaitLimit.toNat, q.overflowWaitLimit),
   (f.surgeCount.toNat, q.surgeCount), (f.ahtSeed.toNat, q.ahtSeed), (f.smoothingShift.toNat, q.smoothingShift)].countP
    fun p => p.1 != p.2

/-- The settings as fields, SET QUEUE indices 3 to 27 in their order and sizes (R13). -/
def settingsFields (q : QueueSettings) : List LinkField :=
  [f4 q.requiredSkills.toNat, f1 (policyCode q.policy), f1 q.defaultPriority, f2 q.agingStep, f2 q.capacity,
   f2 q.offerTimeout, f1 (missActionCode q.missAction), f2 q.coolDown, f1 q.missLimit, f2 q.wrapAllowance,
   f2 q.surgeWrapAllowance, f2 q.extensionLength, f1 q.maxExtensions, f1 (bit q.dispositionRequired), f1 (bit q.surgeTrim),
   f1 (orElse q.defaultProgram 255), f2 q.firstAnnouncementDelay, f2 q.announcementInterval,
   f1 (orElse q.overflowTarget 255), f2 q.overflowWaitLimit, f2 q.surgeCount, f2 q.surgeWait, f2 q.serviceThreshold,
   f2 q.ahtSeed, f1 q.smoothingShift]

end Sys2Proof.Machine
end

