-- ==== Sys2Proof/Machine/Ops.lean ====
section
/-!
DEFINITION. The named operations over the records: access to each table, time, notices, ranks and wait estimates, the surge
monitor, the ready list, matching and offers. Every meaning is written over these.
-/

namespace Sys2Proof.Machine

/-! ### Records -/

/-- The record of a queue (R6). -/
def queueOf (s : State) (q : Nat) : Queue := (tableFind s.queues q).getD queueAtReset

def setQueueRec (s : State) (q : Nat) (v : Queue) : State := { s with queues := tablePut queueAtReset s.queues q v }

/-- The record of an agent, none when LOGGED_OUT (R29). -/
def agentOf (s : State) (a : Nat) : Option Agent := tableFind s.agents a

def setAgentRec (s : State) (a : Nat) (v : Agent) : State := { s with agents := tableInsert s.agents a v }

/-- The agent becomes LOGGED_OUT: every logged-in field is removed (R29). -/
def dropAgent (s : State) (a : Nat) : State := { s with agents := tableErase s.agents a }

def setAgentStatus (s : State) (a : Nat) (st : AgentStatus) : State :=
  match agentOf s a with
  | some v => setAgentRec s a { v with status := st }
  | none => s

/-- A slot's generation (00_scope.md 5.4). -/
def generationOf (s : State) (slot : Nat) : Nat := (tableFind s.generations slot).getD 0

/-- The handle of the call in a slot (R1). -/
def handleOf (s : State) (slot : Nat) : Nat := generationOf s slot * Config.callSlots + slot

def slotOf (handle : Nat) : Nat := handle % Config.callSlots

/-- The call a handle names, none when the handle is stale (R2). -/
def callOf (s : State) (handle : Nat) : Option Call :=
  if generationOf s (slotOf handle) = handle / Config.callSlots then tableFind s.calls (slotOf handle) else none

def setCallRec (s : State) (handle : Nat) (c : Call) : State := { s with calls := tableInsert s.calls (slotOf handle) c }

/-- Frees a call: the slot is FREE and its generation advances by one, modulo 32 (R4). -/
def freeCall (s : State) (handle : Nat) : State :=
  { s with
    calls := tableErase s.calls (slotOf handle)
    generations := tablePut 0 s.generations (slotOf handle) ((generationOf s (slotOf handle) + 1) % 32) }

def clipOf (s : State) (k : Nat) : Option Clip := tableFind s.clips k
def setClipRec (s : State) (k : Nat) (c : Clip) : State := { s with clips := tableInsert s.clips k c }
def dropClip (s : State) (k : Nat) : State := { s with clips := tableErase s.clips k }

def programOf (s : State) (p : Nat) : Option Program := tableFind s.programs p

def voiceOf (s : State) (v : Nat) : Option Voice := tableFind s.voices v
def setVoiceRec (s : State) (v : Nat) (r : Voice) : State := { s with voices := tableInsert s.voices v r }
def dropVoice (s : State) (v : Nat) : State := { s with voices := tableErase s.voices v }

/-! ### Time (00_scope.md 5.2, R163) -/

/-- Engine time has reached a deadline: the difference modulo 2^32, read as a signed number, is 0 or more (R163). -/
def reached (now deadline : Time) : Bool := !(now - deadline).msb

/-- One time is later than another. -/
def later (a b : Time) : Bool := a != b && !(a - b).msb

/-- The time `d` tu after `t`. -/
def timeAfter (t : Time) (d : Nat) : Time := t + BitVec.ofNat 32 d

/-- Tu from `t` to now, modulo 2^32. -/
def since (s : State) (t : Time) : Nat := (s.now - t).toNat

/-- A counter that stops at 65,535 (R105). -/
def sat16 (n : Nat) : Nat := min n 65535

/-! ### Notices (R187) -/

/-- An event raises a notice, whose body begins with the engine time. It joins at the tail; one that finds 256 waiting is discarded
and the notices-lost flag is set, unless the frame being sent has ended inside the event, so that with no reply waiting the
notice at the head has left the queue: the spec leaves that moment open, a free value (R187; log 3). -/
def notify (kind : Nat) (body : List LinkField) (s : State) : State :=
  let raised : OutFrame := { frameClass := 4, kind := kind, body := f4 s.now.toNat :: body }
  if s.notices.length < Config.noticePlaces then { s with notices := s.notices ++ [raised] }
  else if s.sending.isSome && s.replies.isEmpty && Config.frameEndsInside s.frameEnds then
    { s with sending := s.notices.head?, notices := s.notices.tail ++ [raised], frameEnds := s.frameEnds + 1 }
  else { s with noticesLost := true, frameEnds := s.frameEnds + 1 }

/-! ### Queues: counts, priorities and ranks -/

def admitting : QueueState → Bool
  | .opened => true
  | .paused => true
  | .draining => false
  | .closed => false

def offering : QueueState → Bool
  | .opened => true
  | .draining => true
  | .paused => false
  | .closed => false

def isWaiting (c : Call) : Bool := c.status == .waiting

def isDiverting (c : Call) : Bool :=
  match c.status with
  | .diverting _ => true
  | .waiting => false
  | .offered _ _ => false
  | .connected _ => false

def isOffered (c : Call) : Bool :=
  match c.status with
  | .offered _ _ => true
  | .waiting => false
  | .diverting _ => false
  | .connected _ => false

/-- The calls of a queue's waiting list with their handles, in arrival order. -/
def listedCalls (s : State) (q : Nat) : List (Nat × Call) :=
  (queueOf s q).waiting.filterMap fun h => (callOf s h).map fun c => (h, c)

/-- The WAITING calls of a queue, in arrival order. -/
def waitingCalls (s : State) (q : Nat) : List (Nat × Call) := (listedCalls s q).filter fun e => isWaiting e.2

def offeredCount (s : State) (q : Nat) : Nat := s.calls.countP fun e => e.2.queue == q && isOffered e.2

/-- A queue's occupancy (R15). -/
def occupancy (s : State) (q : Nat) : Nat := (queueOf s q).waiting.length + offeredCount s q

/-- A queue is full when its occupancy is at least its capacity (R15). -/
def full (s : State) (q : Nat) : Bool := decide ((queueOf s q).settings.capacity ≤ occupancy s q)

/-- A call's wait (R16). -/
def waitOf (s : State) (c : Call) : Nat := since s c.arrivalTime

/-- A call's effective priority (R16). -/
def effPriority (s : State) (c : Call) : Nat :=
  let step := (queueOf s c.queue).settings.agingStep
  if step = 0 then c.basePriority else min 255 (c.basePriority + waitOf s c / step)

/-- Call `a` stands ahead of call `b`: higher effective priority, or equal and earlier arrival (R17, R58). -/
def ahead (s : State) (a b : Call) : Bool :=
  decide (effPriority s b < effPriority s a) || (effPriority s a == effPriority s b && decide (a.arrivalSeq < b.arrivalSeq))

/-- A call put into its place among calls in rank order. -/
def rankInsert (s : State) (e : Nat × Call) : List (Nat × Call) → List (Nat × Call)
  | [] => [e]
  | x :: xs => if ahead s e.2 x.2 then e :: x :: xs else x :: rankInsert s e xs

/-- The rank order of a queue's WAITING calls (R17). -/
def rankOrder (s : State) (q : Nat) : List (Nat × Call) := (waitingCalls s q).foldl (fun l e => rankInsert s e l) []

/-- The rank of a WAITING call (R17). -/
def rankOf (s : State) (c : Call) : Nat := 1 + (waitingCalls s c.queue).countP fun e => ahead s e.2 c

/-- The rank a new call of this base priority would take in a queue (R20, R103). -/
def newRank (s : State) (q base : Nat) : Nat :=
  1 + (waitingCalls s q).countP fun e => decide (base ≤ effPriority s e.2)

/-- The skill-eligibility test (00_scope.md 5.5). -/
def covers (skills required : Mask) : Bool := ~~~skills &&& required == 0

/-- A call's required skills (R5). -/
def requiredOf (s : State) (c : Call) : Mask := (queueOf s c.queue).settings.requiredSkills ||| c.extraSkills.getD 0

/-- The working states (R30). -/
def working (a : Agent) : Bool :=
  match a.status with
  | .notReady _ => false
  | .ready _ _ => true
  | .offered _ _ => true
  | .talking _ _ => true
  | .wrap _ _ => true

/-- A queue's staffed count N (R101). -/
def staffed (s : State) (q : Nat) : Nat :=
  s.agents.countP fun e => working e.2 && covers e.2.skills (queueOf s q).settings.requiredSkills

/-- The EWT for rank `p` (R102). -/
def ewt (s : State) (q p : Nat) : Nat :=
  let n := staffed s q
  if n = 0 then 65535 else min 65534 ((p * (queueOf s q).aht16 + 16 * n - 1) / (16 * n))

/-- A counter of a queue is changed (R105). -/
def count (s : State) (q : Nat) (f : Counters → Counters) : State :=
  let r := queueOf s q
  setQueueRec s q { r with counters := f r.counters }

/-! ### The surge monitor (R109 to R114) -/

/-- The oldest wait of a queue: that of the head of its waiting list, 0 when it is empty (R110). -/
def oldestWait (s : State) (q : Nat) : Nat :=
  match (queueOf s q).waiting with
  | [] => 0
  | h :: _ => ((callOf s h).map (waitOf s)).getD 0

/-- The wrap of this agent is one that a surge entry of queue `q` trims to `limit` (R93). -/
def trims (q : Nat) (limit : Time) (a : Agent) : Bool :=
  match a.status with
  | .wrap r _ => r.queue == q && later r.deadline limit
  | .notReady _ => false
  | .ready _ _ => false
  | .offered _ _ => false
  | .talking _ _ => false

def trimmed (q : Nat) (limit : Time) (a : Agent) : Agent :=
  match a.status with
  | .wrap r p => if r.queue == q && later r.deadline limit then { a with status := .wrap { r with deadline := limit } p } else a
  | .notReady _ => a
  | .ready _ _ => a
  | .offered _ _ => a
  | .talking _ _ => a

/-- The wrap trim of a surge entry (R93). A wrap whose deadline it moves is not taken by the scan of the present boundary
(R83). -/
def trimWraps (s : State) (q : Nat) : State :=
  let limit := timeAfter s.now (queueOf s q).settings.surgeWrapAllowance
  let moved := (s.agents.filter fun e => trims q limit e.2).map (·.1)
  { s with
    agents := s.agents.map fun e => (e.1, trimmed q limit e.2)
    due := { s.due with wraps := s.due.wraps.filter fun a => !moved.contains a } }

/-- How many deadlines the trim of a surge entry shortens (R114). -/
def trimCount (s : State) (q : Nat) : Nat :=
  s.agents.countP fun e => trims q (timeAfter s.now (queueOf s q).settings.surgeWrapAllowance) e.2

/-- The length meets the surge count (R111). -/
def countMet (s : State) (q : Nat) : Bool :=
  let r := queueOf s q
  r.settings.surgeCount != 0 && decide (r.settings.surgeCount ≤ r.waiting.length)

/-- The oldest wait meets the surge wait (R111). -/
def waitMet (s : State) (q : Nat) : Bool :=
  let r := queueOf s q
  r.settings.surgeWait != 0 && decide (r.settings.surgeWait ≤ oldestWait s q)

/-- Every enabled threshold is met on its exit level (R112). -/
def exitMet (s : State) (q : Nat) : Bool :=
  let r := queueOf s q
  (r.settings.surgeCount == 0 || decide (r.waiting.length ≤ 3 * r.settings.surgeCount / 4)) &&
    (r.settings.surgeWait == 0 || decide (oldestWait s q ≤ 3 * r.settings.surgeWait / 4))

/-- The SURGE CHANGED notice (R114). -/
def surgeNotice (q : Nat) (entered : Bool) (met trimmed : Nat) (s : State) : State :=
  notify 0x85 [f1 q, f1 (bit entered), f1 met, f2 (queueOf s q).waiting.length, f4 (oldestWait s q), f2 trimmed] s

/-- Surge entry (R111, R113): the flag, the trim, the notice. -/
def enterSurge (q : Nat) (s : State) : State :=
  let r := queueOf s q
  let met := bit (countMet s q) + 2 * bit (waitMet s q)
  let s1 := setQueueRec s q { r with surge := true }
  if r.settings.surgeTrim then surgeNotice q true met (trimCount s1 q) (trimWraps s1 q)
  else surgeNotice q true met 0 s1

/-- Surge exit (R112, R113). -/
def leaveSurge (q : Nat) (s : State) : State :=
  surgeNotice q false 0 0 (setQueueRec s q { queueOf s q with surge := false })

/-- One evaluation of a queue by the surge monitor (R109). -/
def evalSurge (q : Nat) (s : State) : State :=
  if (queueOf s q).surge then if exitMet s q then leaveSurge q s else s
  else if countMet s q || waitMet s q then enterSurge q s else s

/-! ### The waiting list (R14) -/

/-- The place a handle takes in a waiting list by its arrival sequence. -/
def arrivalInsert (s : State) (h seq : Nat) : List Nat → List Nat
  | [] => [h]
  | x :: xs =>
    if ((callOf s x).map fun c => decide (seq < c.arrivalSeq)).getD false then h :: x :: xs else x :: arrivalInsert s h seq xs

/-- A call joins its queue's waiting list at its arrival-sequence place. -/
def joinList (s : State) (h : Nat) (c : Call) : State :=
  let r := queueOf s c.queue
  setQueueRec s c.queue { r with waiting := arrivalInsert s h c.arrivalSeq r.waiting }

/-- A call leaves its queue's waiting list. -/
def leaveList (s : State) (h q : Nat) : State :=
  let r := queueOf s q
  setQueueRec s q { r with waiting := r.waiting.erase h }

/-! ### The ready list (R41) -/

/-- The ready sequence an agent holds, while READY or OFFERED. -/
def readySeqOf (s : State) (a : Nat) : Nat :=
  match agentOf s a with
  | none => 0
  | some v =>
    match v.status with
    | .ready n _ => n
    | .offered _ n => n
    | .notReady _ => 0
    | .talking _ _ => 0
    | .wrap _ _ => 0

/-- The agent enters READY at the back of the ready list with a new ready sequence (R41, append). -/
def enterReady (s : State) (a : Nat) (v : Agent) (coolDownEnd : Option Time) : State :=
  { s with
    agents := tableInsert s.agents a { v with status := .ready s.readies coolDownEnd }
    readyList := s.readyList ++ [a]
    readies := s.readies + 1 }

/-- The place an agent takes in the ready list by its ready sequence. -/
def readyInsert (s : State) (a seq : Nat) : List Nat → List Nat
  | [] => [a]
  | x :: xs => if seq < readySeqOf s x then a :: x :: xs else x :: readyInsert s a seq xs

/-- The agent re-enters READY with the ready sequence it kept while OFFERED (R41, return to a former place; R70). -/
def returnToPlace (s : State) (a : Nat) (v : Agent) (seq : Nat) : State :=
  { s with
    agents := tableInsert s.agents a { v with status := .ready seq none }
    readyList := readyInsert s a seq s.readyList }

/-- The agent leaves the ready list (R41, leave). -/
def leaveReady (s : State) (a : Nat) : State := { s with readyList := s.readyList.erase a }

/-! ### Matching (R54 to R59) and making an offer (R60 to R62) -/

/-- READY and outside cool-down. -/
def available (a : Agent) : Bool :=
  match a.status with
  | .ready _ none => true
  | .ready _ (some _) => false
  | .notReady _ => false
  | .offered _ _ => false
  | .talking _ _ => false
  | .wrap _ _ => false

/-- The agent meets the four conditions of R54 (and, seen from the agent, the last two of R58) for this call. -/
def pairable (s : State) (a : Nat) (v : Agent) (c : Call) : Bool :=
  available v && covers v.skills (requiredOf s c) && !c.exclusion.contains a

/-- The candidates of a call, in ready-list order (R54). -/
def candidates (s : State) (c : Call) : List Nat :=
  s.readyList.filter fun a => ((agentOf s a).map fun v => pairable s a v c).getD false

def answeredOf (s : State) (a : Nat) : Nat := ((agentOf s a).map (·.answered)).getD 0

/-- The smallest number of a list. -/
def smallest : List Nat → Option Nat
  | [] => none
  | x :: xs =>
    match smallest xs with
    | none => some x
    | some y => some (min x y)

/-- The choice by the rotation cursor (R56). -/
def rotateChoice (cursor : Nat) (l : List Nat) : Option Nat :=
  match smallest (l.filter fun a => decide (cursor < a)) with
  | some a => some a
  | none => smallest l

/-- The first of a list with the smallest calls-answered count (R55). -/
def fewestChoice (s : State) : List Nat → Option Nat
  | [] => none
  | x :: xs =>
    match fewestChoice s xs with
    | none => some x
    | some y => if answeredOf s y < answeredOf s x then some y else some x

/-- The agent the queue's policy picks among the candidates (R55). -/
def chooseAgent (s : State) (c : Call) : Option Nat :=
  let r := queueOf s c.queue
  let l := candidates s c
  match r.settings.policy with
  | .longestIdle => l.head?
  | .mostRecent => l.getLast?
  | .rotate => rotateChoice r.cursor l
  | .fewestCalls => fewestChoice s l

/-- The offer deadline (R61). -/
def offerDeadline (s : State) (q : Nat) : Option Time :=
  let t := (queueOf s q).settings.offerTimeout
  if t = 0 then none else some (timeAfter s.now t)

/-- The flags byte of an OFFER notice (R191). -/
def offerFlags (c : Call) (deadline : Option Time) : Nat := bit deadline.isSome + 2 * bit c.originQueue.isSome

/-- The OFFER notice (R62). -/
def offerNotice (h a : Nat) (c : Call) (deadline : Option Time) (s : State) : State :=
  notify 0x80 [f2 h, f4 c.tag.toNat, f2 a, f1 c.queue, f1 (offerFlags c deadline), f4 ((deadline.map (·.toNat)).getD 0),
    f1 (effPriority s c), f1 c.offerCount, f1 (orElse c.voice 255)] s

/-- The distributor makes the offer of call `h` to agent `a` (R60). `rotate` is whether call-side matching chose it under
ROTATE, which moves the cursor (R56). -/
def makeOffer (h a : Nat) (rotate : Bool) (s : State) : State :=
  match callOf s h, agentOf s a with
  | some c, some v =>
    let deadline := offerDeadline s c.queue
    let c' := { c with status := .offered a deadline, offerCount := min 255 (c.offerCount + 1) }
    let s1 := setCallRec (leaveList s h c.queue) h c'
    let s2 := setAgentRec (leaveReady s1 a) a { v with status := .offered h (readySeqOf s a) }
    let s3 := if rotate then setQueueRec s2 c.queue { queueOf s2 c.queue with cursor := a } else s2
    offerNotice h a c' deadline (evalSurge c.queue s3)
  | _, _ => s

/-- Call-side matching of one call (R54, R55, R57). -/
def matchCall (h : Nat) (s : State) : State :=
  match callOf s h with
  | none => s
  | some c =>
    if isWaiting c && offering (queueOf s c.queue).state then
      match chooseAgent s c with
      | none => s
      | some a => makeOffer h a ((queueOf s c.queue).settings.policy == .rotate) s
    else s

/-- A call agent `a` could take (R58). -/
def takeable (s : State) (a : Nat) (v : Agent) (c : Call) : Bool :=
  isWaiting c && offering (queueOf s c.queue).state && pairable s a v c

/-- Of the calls agent `a` could take, the one that stands ahead of the others, with its slot (R58). -/
def bestCall (s : State) (a : Nat) (v : Agent) : Table Call → Option (Nat × Call)
  | [] => none
  | (slot, c) :: t =>
    match bestCall s a v t with
    | none => if takeable s a v c then some (slot, c) else none
    | some (k, d) => if takeable s a v c && ahead s c d then some (slot, c) else some (k, d)

/-- Agent-side arbitration for one agent (R58). -/
def matchAgent (a : Nat) (s : State) : State :=
  match agentOf s a with
  | none => s
  | some v =>
    match bestCall s a v s.calls with
    | none => s
    | some (slot, _) => makeOffer (handleOf s slot) a false s

/-- The reopening pass (R59): the rank order is computed once, at its start. -/
def reopeningPass (q : Nat) (s : State) : State := ((rankOrder s q).map (·.1)).foldl (fun t h => matchCall h t) s

/-! ### Ending an offer -/

/-- The agent added to an exclusion list, oldest leaving a list of four (R73). -/
def excludeAgent (a : Nat) (l : List Nat) : List Nat := l.drop (l.length - 3) ++ [a]

/-- The call side of an offer that ends without an answer (R67, R68, R71, steps 1 to 3): the offer's fields go, the agent is
excluded, the call is WAITING at its arrival-sequence place, and the surge monitor evaluates the queue. -/
def returnCall (h a : Nat) (c : Call) (s : State) : State :=
  let c' := { c with status := .waiting, exclusion := excludeAgent a c.exclusion }
  evalSurge c.queue (joinList (setCallRec s h c') h c')

/-- The OFFER WITHDRAWN notice (R72). -/
def withdrawnNotice (h a : Nat) (c : Call) (cause : Nat) (s : State) : State :=
  notify 0x82 [f2 h, f4 c.tag.toNat, f2 a, f1 c.queue, f1 cause, f1 (agentStateCode (agentOf s a))] s

/-- The cool-down end an agent takes when it re-enters READY after refusing or missing an offer of queue `q` (R44). -/
def coolDownEndFor (s : State) (q : Nat) : Option Time :=
  let d := (queueOf s q).settings.coolDown
  if d = 0 then none else some (timeAfter s.now d)

/-- The agent whose current call a call is: OFFERED or TALKING with it (R52). -/
def agentHolding (s : State) (h : Nat) : Option Nat :=
  (s.agents.find? fun e =>
    match e.2.status with
    | .offered k _ => k == h
    | .talking k _ => k == h
    | .notReady _ => false
    | .ready _ _ => false
    | .wrap _ _ => false).map (·.1)

end Sys2Proof.Machine
end

