-- ==== Sys2Proof/Machine/Flags.lean ====
section
/-!
DEFINITION. The bytes of flags that replies carry: the status byte of every reply (R184), and the flags bytes of READ CALL
(R25) and READ AGENT (R48). The OFFER notice's flags (R191) stand with the notice in Ops.
-/

namespace Sys2Proof.Machine

/-- Some queue is in surge. -/
def anySurge (s : State) : Bool := s.queues.any fun e => e.2.surge

/-- The status byte of a reply built now (R184); bits 5 to 7 are 0. -/
def statusByte (s : State) (adjusted : Bool) : Nat :=
  bit s.inService + 2 * bit s.syncPresent + 4 * bit s.noticesLost + 8 * bit (anySurge s) + 16 * bit adjusted

/-- The flags byte of READ CALL (R25). -/
def callFlags (c : Call) : Nat :=
  let done := match c.status with
    | .diverting d => d
    | .waiting => false
    | .offered _ _ => false
    | .connected _ => false
  let deadline := match c.status with
    | .offered _ d => d.isSome
    | .waiting => false
    | .diverting _ => false
    | .connected _ => false
  let answered := match c.status with
    | .connected _ => true
    | .waiting => false
    | .diverting _ => false
    | .offered _ _ => false
  bit c.awaitingVoice + 2 * bit done + 4 * bit deadline + 8 * bit answered + 16 * bit c.announceDue.isSome

/-- The not-ready reason of an agent, when it has one (R29). -/
def reasonOf (a : Agent) : Option Nat :=
  match a.status with
  | .notReady r => some r
  | .ready _ _ => none
  | .offered _ _ => none
  | .talking _ _ => none
  | .wrap _ _ => none

/-- The pending not-ready reason of an agent, when it has one (R38). -/
def pendingReasonOf (a : Agent) : Option Nat :=
  match a.status with
  | .talking _ p => p
  | .wrap _ p => p
  | .notReady _ => none
  | .ready _ _ => none
  | .offered _ _ => none

/-- The current call of an agent, when it has one (R29). -/
def currentCallOf (a : Agent) : Option Nat :=
  match a.status with
  | .offered h _ => some h
  | .talking h _ => some h
  | .notReady _ => none
  | .ready _ _ => none
  | .wrap _ _ => none

/-- The ready sequence of an agent, when it has one (R29). -/
def heldSeqOf (a : Agent) : Option Nat :=
  match a.status with
  | .ready n _ => some n
  | .offered _ n => some n
  | .notReady _ => none
  | .talking _ _ => none
  | .wrap _ _ => none

/-- The cool-down end of an agent, when it has one (R29). -/
def coolDownOf (a : Agent) : Option Time :=
  match a.status with
  | .ready _ d => d
  | .notReady _ => none
  | .offered _ _ => none
  | .talking _ _ => none
  | .wrap _ _ => none

/-- The wrap record of an agent, when it has one (R78). -/
def wrapOf (a : Agent) : Option WrapRecord :=
  match a.status with
  | .wrap r _ => some r
  | .notReady _ => none
  | .ready _ _ => none
  | .offered _ _ => none
  | .talking _ _ => none

/-- The flags byte of READ AGENT (R48). -/
def agentFlags (a : Agent) : Nat :=
  bit (reasonOf a).isSome + 2 * bit (pendingReasonOf a).isSome + 4 * bit (currentCallOf a).isSome +
    8 * bit (heldSeqOf a).isSome + 16 * bit (coolDownOf a).isSome + 32 * bit (wrapOf a).isSome +
    64 * bit ((wrapOf a).bind (·.disposition)).isSome

end Sys2Proof.Machine
end

