-- ==== Sys2Proof/Machine/Playout.lean ====
section
/-!
DEFINITION. The audio side (07): use counts, attaching and detaching calls, playing a frame, announcements and diverts.
-/

namespace Sys2Proof.Machine

/-! ### Clips in use (R121) and sample memory (R117) -/

def changeUse (s : State) (k : Nat) (f : Nat → Nat) : State :=
  match clipOf s k with
  | some c => setClipRec s k { c with useCount := f c.useCount }
  | none => s

def takeUse (s : State) (k : Nat) : State := changeUse s k (· + 1)
def giveUse (s : State) (k : Nat) : State := changeUse s k (· - 1)

/-- A voice moves from one current clip to the next; nothing changes when they are the same clip (R121). -/
def moveUse (s : State) (old new : Nat) : State := if old = new then s else takeUse (giveUse s old) new

/-- The byte at a sample memory address; one not written since power-on is undefined (R117; log 9). -/
def sampleAt (s : State) (addr : Nat) : Byte := (tableFind s.samples addr).getD (Config.undefinedSample s.powerOns addr)

/-- The address of sample `i` of a clip (R117). -/
def sampleAddress (c : Clip) (i : Nat) : Nat := c.startPage * Config.pageBytes + i

/-- The distinct clips a program refers to (R134). -/
def programClips (p : Program) : List Nat :=
  (p.introClip.toList ++ p.exitClip.toList ++ p.overClip.toList ++ p.noEstimateClip.toList ++ p.loop ++
    p.bands.map (·.2)).dedup

/-- The program references of a clip (R121). -/
def programRefs (s : State) (k : Nat) : Nat := s.programs.countP fun e => (programClips e.2).contains k

/-- The voice references of a clip (R121). -/
def voiceRefs (s : State) (k : Nat) : Nat := s.voices.countP fun e => e.2.clip == k

/-- A loop clip of a program. -/
def loopClip (p : Program) (i : Nat) : Nat := p.loop.getD i 0

/-! ### Attaching (R141 to R144) -/

def lowestFreeVoice (s : State) : Option Nat := (List.range Config.voices).find? fun v => (voiceOf s v).isNone

def isShared (r : Voice) : Bool :=
  match r.mode with
  | .shared _ => true
  | .private_ _ => false

/-- The SHARED voice of a program (R140). -/
def sharedVoiceOf (s : State) (p : Nat) : Option Nat :=
  (s.voices.find? fun e => e.2.program == p && isShared e.2).map (·.1)

/-- A FREE voice takes a program from a clip's start; the clip's use count rises (R141). -/
def startVoice (s : State) (v p : Nat) (mode : VoiceMode) (segment : Segment) (loopIndex clip : Nat) : State :=
  takeUse (setVoiceRec s v { program := p, mode := mode, segment := segment, loopIndex := loopIndex, clip := clip, offset := 0 })
    clip

/-- Where a private voice starts a program: its intro, or its first loop clip (R141). -/
def startSegment (p : Program) : Segment × Nat :=
  match p.introClip with
  | some k => (.intro, k)
  | none => (.loop, loopClip p 0)

/-- The first announcement due of a call put on a PRIVATE voice now (R151). -/
def firstDue (s : State) (q : Nat) : Time := timeAfter s.now (queueOf s q).settings.firstAnnouncementDelay

/-- A call with a program and no voice is attached (R141). -/
def attach (h : Nat) (s : State) : State :=
  match callOf s h with
  | none => s
  | some c =>
    match c.program.bind fun p => (programOf s p).map fun r => (p, r) with
    | none => s
    | some (p, prog) =>
      match (queueOf s c.queue).surge, lowestFreeVoice s, sharedVoiceOf s p with
      | false, some v, _ =>
        let start := startSegment prog
        startVoice (setCallRec s h { c with voice := some v, awaitingVoice := false, announceDue := some (firstDue s c.queue) })
          v p (.private_ h) start.1 0 start.2
      | _, _, some v =>
        match voiceOf s v with
        | some r =>
          match r.mode with
          | .shared n =>
            setVoiceRec (setCallRec s h { c with voice := some v, awaitingVoice := false }) v { r with mode := .shared (n + 1) }
          | .private_ _ => s
        | none => s
      | _, some v, none =>
        startVoice (setCallRec s h { c with voice := some v, awaitingVoice := false }) v p (.shared 1) .loop 0 (loopClip prog 0)
      | _, none, none => setCallRec s h { c with voice := none, awaitingVoice := true }

/-- The silent call with the lowest arrival sequence (R143). -/
def oldestSilent : Table Call → Option Call
  | [] => none
  | (_, c) :: t =>
    match oldestSilent t with
    | none => if c.awaitingVoice then some c else none
    | some d => if c.awaitingVoice && decide (c.arrivalSeq < d.arrivalSeq) then some c else some d

/-- A silent call whose program is `p`. -/
def silentFor (p : Nat) (c : Call) : Bool := c.awaitingVoice && c.program == some p

/-- A voice that has become FREE is handed to the silent calls of the oldest one's program (R143), with a VOICE STARTED
notice (R144). -/
def handVoice (v : Nat) (s : State) : State :=
  match (oldestSilent s.calls).bind (·.program) with
  | none => s
  | some p =>
    let n := s.calls.countP fun e => silentFor p e.2
    let calls := s.calls.map fun e => if silentFor p e.2 then (e.1, { e.2 with voice := some v, awaitingVoice := false }) else e
    let first := ((programOf s p).map fun r => loopClip r 0).getD 0
    notify 0x86 [f1 v, f1 p, f2 n] (startVoice { s with calls := calls } v p (.shared n) .loop 0 first)

/-- A voice becomes FREE (R145): it gives up its current clip, and is handed to silent calls if there are any. -/
def freeVoice (v : Nat) (s : State) : State :=
  match voiceOf s v with
  | none => s
  | some r => handVoice v (giveUse (dropVoice s v) r.clip)

/-- A call is detached from its voice, if it has one (R145). -/
def detach (h : Nat) (s : State) : State :=
  match callOf s h with
  | none => s
  | some c =>
    match c.voice with
    | none => s
    | some v =>
      let s1 := setCallRec s h { c with voice := none, announceDue := none }
      match voiceOf s1 v with
      | none => s1
      | some r =>
        match r.mode with
        | .private_ _ => freeVoice v s1
        | .shared n => if n ≤ 1 then freeVoice v s1 else setVoiceRec s1 v { r with mode := .shared (n - 1) }

/-- The awaiting-voice flag of a call is cleared (R142). -/
def clearAwaiting (h : Nat) (s : State) : State :=
  match callOf s h with
  | none => s
  | some c => setCallRec s h { c with awaitingVoice := false }

/-! ### Diverts (R154) -/

/-- The divert of a DIVERTING call is done: the notice, the detachment, the flag (R154). An exit plays for DIVERTING calls alone
(R153), so no other call is reached (log 15). -/
def divertDone (h : Nat) (exitPlayed : Bool) (s : State) : State :=
  match callOf s h with
  | none => s
  | some c =>
    if isDiverting c then
      let s1 := detach h (notify 0x87 [f2 h, f4 c.tag.toNat, f1 c.queue, f1 (bit exitPlayed)] s)
      match callOf s1 h with
      | none => s1
      | some d => setCallRec s1 h { d with status := .diverting true }
    else s

/-! ### Playing (R146 to R150) -/

/-- The clip a program announces for an estimated wait (R139). -/
def announcementClip (p : Program) (e : Nat) : Option Nat :=
  if e = 65535 then p.noEstimateClip
  else
    match p.bands.find? fun b => decide (e ≤ b.1) with
    | some b => some b.2
    | none => p.overClip

/-- The estimate announced to a call: at its rank when WAITING, at rank 1 when OFFERED (R103). -/
def callEstimate (s : State) (c : Call) : Nat := ewt s c.queue (if isWaiting c then rankOf s c else 1)

/-- The announcement due of a call becomes now plus its queue's announcement interval (R148, R150). -/
def renewDue (h : Nat) (s : State) : State :=
  match callOf s h with
  | none => s
  | some c =>
    setCallRec s h { c with announceDue := some (timeAfter s.now (queueOf s c.queue).settings.announcementInterval) }

/-- An announcement is due for a call on a PRIVATE voice at the end of a loop clip (R148). -/
def announcementIsDue (s : State) (c : Call) : Bool :=
  (queueOf s c.queue).settings.announcementInterval != 0 && (c.announceDue.map (reached s.now)).getD false

/-- A voice takes its next segment and clip from sample 0; the use counts follow (R147). -/
def nextClip (v : Nat) (r : Voice) (segment : Segment) (loopIndex clip : Nat) (s : State) : State :=
  setVoiceRec (moveUse s r.clip clip) v { r with segment := segment, loopIndex := loopIndex, clip := clip, offset := 0 }

/-- The voice goes on to the next loop clip (R149). -/
def nextLoop (v : Nat) (r : Voice) (p : Program) (s : State) : State :=
  let i := (r.loopIndex + 1) % p.loop.length
  nextClip v r .loop i (loopClip p i) s

/-- The end of a loop clip on a PRIVATE voice of call `h`: the announcement test (R148). -/
def privateLoopEnd (v : Nat) (r : Voice) (p : Program) (h : Nat) (s : State) : State :=
  match callOf s h with
  | none => nextLoop v r p s
  | some c =>
    if announcementIsDue s c then
      match announcementClip p (callEstimate s c) with
      | some k => nextClip v r (.announce ((r.loopIndex + 1) % p.loop.length)) r.loopIndex k s
      | none => nextLoop v r p (renewDue h s)
    else nextLoop v r p s

/-- A voice's current clip has ended: its next step, from its program as it stands now (R147). -/
def clipEnd (v : Nat) (r : Voice) (s : State) : State :=
  match programOf s r.program with
  | none => s
  | some p =>
    match r.segment with
    | .intro => nextClip v r .loop 0 (loopClip p 0) s
    | .loop =>
      match r.mode with
      | .private_ h => privateLoopEnd v r p h s
      | .shared _ => nextLoop v r p s
    | .announce i =>
      let s1 := match r.mode with
        | .private_ h => renewDue h s
        | .shared _ => s
      nextClip v r .loop (i % p.loop.length) (loopClip p (i % p.loop.length)) s1
    | .exit =>
      match r.mode with
      | .private_ h => divertDone h true s
      | .shared _ => s

/-- One voice's part of a frame: its offset rises by one, and at the clip's length the clip has ended (R146). -/
def playVoice (s : State) (v : Nat) : State :=
  match voiceOf s v with
  | none => s
  | some r =>
    if r.offset + 1 < ((clipOf s r.clip).map (·.length)).getD 0 then setVoiceRec s v { r with offset := r.offset + 1 }
    else clipEnd v r s

/-- The byte a voice drives in its timeslot (R157). -/
def slotByte (s : State) (v : Nat) : Byte :=
  match (voiceOf s v).bind fun r => (clipOf s r.clip).map fun c => sampleAt s (sampleAddress c r.offset) with
  | some b => b
  | none => s.silence

/-- The members of `all` in the order `order` names them, the others following as they stand. -/
def inOrder (all order : List Nat) : List Nat :=
  (order.filter all.contains).dedup ++ all.filter fun v => !order.contains v

/-- The Playout Unit's part of a highway frame (R146, R157): the 128 timeslots, and every voice that is not FREE handled
whole, in the given order. -/
def playFrame (order : List Nat) (s : State) : State :=
  let slots := (List.range Config.voices).map (slotByte s)
  (inOrder (s.voices.map (·.1)) order).foldl playVoice { s with highway := .driven slots }

end Sys2Proof.Machine
end

