-- ==== Sys2Proof/Machine/ServiceOrders.lean ====
section
/-!
DEFINITION. The service orders (08, section 8.3): START SERVICE, STOP SERVICE, CLEAR SERVICE and READ ENGINE.
A handler answers the state after the order's effect and the order's answer; the Link Interface builds the reply.
-/

namespace Sys2Proof.Machine

def badField (s : State) (index : Nat) : State × Answer := (s, .refuse .badField index 0)
def wrongState (s : State) (index detail : Nat) : State × Answer := (s, .refuse .wrongState index detail)

/-- The engine-state check of the orders that only SERVICE takes (R167). -/
def serviceOnly (handle : State → State × Answer) (s : State) : State × Answer :=
  if s.inService then handle s else wrongState s 0 0

/-- START SERVICE (R168). -/
def handleStartService (silence : BitVec 8) (s : State) : State × Answer :=
  if s.inService then wrongState s 0 1
  else ({ s with inService := true, silence := silence }, .accept false [f1 silence.toNat, f4 s.now.toNat])

/-- STOP SERVICE (R169). -/
def handleStopService (s : State) : State × Answer :=
  if !s.inService then wrongState s 0 0
  else if s.calls.length + s.agents.length ≠ 0 then
    (s, .refuse .inUse 0 (s.calls.length * 65536 + s.agents.length))
  else ({ s with inService := false }, .accept false [f4 s.now.toNat])

/-- A queue after CLEAR SERVICE (R28, R116): its state and settings are kept. -/
def clearedQueue (now : Time) (q : Queue) : Queue :=
  { q with
    waiting := [], cursor := 511, surge := false, aht16 := q.settings.ahtSeed * 16, counters := zeroCounters,
    intervalStart := now }

/-- Every queue is cleared. -/
def clearQueues (s : State) : State :=
  (List.range Config.queues).foldl (fun t q => setQueueRec t q (clearedQueue t.now (queueOf t q))) s

/-- Every call in use is freed (R27). -/
def freeAllCalls (s : State) : State := (s.calls.map (·.1)).foldl (fun t slot => freeCall t slot) s

/-- Every use count is the clip's program references (R132, R133). -/
def programUseOnly (s : State) : State :=
  { s with clips := s.clips.map fun e => (e.1, { e.2 with useCount := programRefs s e.1 }) }

/-- The clearing of CLEAR SERVICE (R170), owner by owner, with no notices. -/
def clearAll (s : State) : State :=
  let s1 := programUseOnly (clearQueues (freeAllCalls s))
  { s1 with
    agents := [], readyList := [], voices := [], notices := [], noticesLost := false, inService := false,
    due := { s1.due with offers := [], wraps := [], coolDowns := [] } }

/-- CLEAR SERVICE (R170). -/
def handleClearService (s : State) : State × Answer :=
  (clearAll s, .accept false [f1 (bit s.inService), f2 s.calls.length, f2 s.agents.length, f2 s.notices.length])

/-- The number of silent calls (R142). -/
def silentCount (s : State) : Nat := s.calls.countP fun e => e.2.awaitingVoice

/-- READ ENGINE (R171). The notices-lost flag is cleared after the reply is built, by the Link Interface. -/
def handleReadEngine (s : State) : State × Answer :=
  (s, .accept false [f1 (bit s.inService), f1 (bit s.syncPresent), f4 s.now.toNat, f2 s.framePhase, f2 s.calls.length,
    f2 s.agents.length, f1 s.voices.length, f2 (silentCount s), f2 s.badCheck.toNat, f2 s.lengthErrors.toNat,
    f2 s.gapErrors.toNat, f2 s.overruns.toNat, f2 s.notices.length])

end Sys2Proof.Machine
end

