-- ==== Sys2Proof/Machine/QueueOrders.lean ====
section
/-!
DEFINITION. The queue orders (01, sections 1.2 and 1.6; 05, section 5.5): SET QUEUE, SET QUEUE STATE, READ QUEUE,
READ QUEUE STATISTICS and READ WAITING.
-/

namespace Sys2Proof.Machine

/-- The first field of SET QUEUE that refuses it, in field-index order (R9). -/
def setQueueRefusal (s : State) (f : QueueFields) : Option Answer :=
  if f.queue.toNat > 63 then some (.refuse .badField 1 0)
  else if f.reseed.toNat > 1 then some (.refuse .badField 2 0)
  else if f.policy.toNat > 3 then some (.refuse .badField 4 0)
  else if f.missAction.toNat > 1 then some (.refuse .badField 9 0)
  else if f.dispositionRequired.toNat > 1 then some (.refuse .badField 16 0)
  else if f.surgeTrim.toNat > 1 then some (.refuse .badField 17 0)
  else if 32 ≤ f.defaultProgram.toNat ∧ f.defaultProgram.toNat ≤ 254 then some (.refuse .badField 18 0)
  else if f.defaultProgram.toNat < 32 ∧ (programOf s f.defaultProgram.toNat).isNone then
    some (.refuse .noSuch 18 f.defaultProgram.toNat)
  else if f.overflowTarget = f.queue ∨ (64 ≤ f.overflowTarget.toNat ∧ f.overflowTarget.toNat ≤ 254) then
    some (.refuse .badField 21 0)
  else none

/-- An offering queue stops offering (R10). -/
def pausedState : QueueState → QueueState
  | .opened => .paused
  | .draining => .closed
  | .paused => .paused
  | .closed => .closed

/-- SET QUEUE (R9, R10, R11). -/
def handleSetQueue (f : QueueFields) (s : State) : State × Answer :=
  match setQueueRefusal s f with
  | some r => (s, r)
  | none =>
    let q := f.queue.toNat
    let before := queueOf s q
    let stored := storedSettings f
    let after := pausedState before.state
    let n := clampedCount f
    (setQueueRec s q { before with
        state := after, settings := stored, aht16 := if f.reseed.toNat = 1 then stored.ahtSeed * 16 else before.aht16 },
      .accept (n != 0) [f1 (queueStateCode before.state), f1 (queueStateCode after), f1 n])

/-- SET QUEUE STATE (R8), with the reopening pass when the queue starts to offer (R59). -/
def handleSetQueueState (queue state : BitVec 8) (s : State) : State × Answer :=
  if queue.toNat > 63 then badField s 1
  else if state.toNat > 3 then badField s 2
  else
    let q := queue.toNat
    let before := queueOf s q
    let after := queueStateOf state.toNat
    let s1 := setQueueRec s q { before with state := after }
    let s2 := if !offering before.state && offering after then reopeningPass q s1 else s1
    (s2, .accept false [f1 (queueStateCode before.state), f1 (queueStateCode after)])

/-- READ QUEUE (R13). -/
def handleReadQueue (queue : BitVec 8) (s : State) : State × Answer :=
  if queue.toNat > 63 then badField s 1
  else
    let q := queue.toNat
    let r := queueOf s q
    let waiting := (waitingCalls s q).length
    let diverting := ((listedCalls s q).filter fun e => isDiverting e.2).length
    (s, .accept false ([f1 q, f1 (queueStateCode r.state)] ++ settingsFields r.settings ++
      [f2 r.cursor, f1 (bit r.surge), f2 (occupancy s q), f2 r.waiting.length, f2 waiting, f2 diverting,
        f2 (offeredCount s q)]))

/-- The interval counters as fields, in the order of READ QUEUE STATISTICS. -/
def counterFields (c : Counters) : List LinkField :=
  [f2 c.arrived, f2 c.overflowedIn, f2 c.overflowedOut, f2 c.answered, f2 c.answeredWithin, f2 c.abandoned, f2 c.withdrawn,
   f2 c.missedOffers, f2 c.refusedOffers, f2 c.completed, f2 c.longestAnsweredWait]

/-- READ QUEUE STATISTICS (R108). -/
def handleReadQueueStatistics (queue clear : BitVec 8) (s : State) : State × Answer :=
  if queue.toNat > 63 then badField s 1
  else if clear.toNat > 1 then badField s 2
  else
    let q := queue.toNat
    let r := queueOf s q
    let s1 := if clear.toNat = 1 then setQueueRec s q { r with counters := zeroCounters, intervalStart := s.now } else s
    (s1, .accept false ([f1 q, f4 r.intervalStart.toNat, f4 (since s r.intervalStart), f4 r.aht16, f2 (staffed s q),
      f2 (occupancy s q), f2 r.waiting.length, f1 (bit r.surge), f4 (oldestWait s q)] ++ counterFields r.counters))

/-- One entry of READ WAITING: the call at a rank. -/
def waitingEntry (s : State) (rank : Nat) (e : Nat × Call) : List LinkField :=
  [f2 rank, f2 e.1, f4 e.2.tag.toNat, f1 (effPriority s e.2), f4 (waitOf s e.2), f1 e.2.offerCount]

/-- The entries of READ WAITING from this rank on. -/
def waitingEntries (s : State) : Nat → List (Nat × Call) → List LinkField
  | _, [] => []
  | rank, e :: es => waitingEntry s rank e ++ waitingEntries s (rank + 1) es

/-- READ WAITING (R26). -/
def handleReadWaiting (queue : BitVec 8) (firstRank : BitVec 16) (count : BitVec 8) (s : State) : State × Answer :=
  if queue.toNat > 63 then badField s 1
  else if firstRank.toNat = 0 ∨ firstRank.toNat > 2048 then badField s 2
  else if count.toNat = 0 then badField s 3
  else
    let q := queue.toNat
    let order := rankOrder s q
    let page := (order.drop (firstRank.toNat - 1)).take (min count.toNat 16)
    (s, .accept (decide (16 < count.toNat)) ([f1 q, f2 order.length, f1 page.length] ++
      waitingEntries s firstRank.toNat page))

end Sys2Proof.Machine
end

