-- ==== Sys2Proof/Machine/Wraps.lean ====
section
/-!
DEFINITION. The Wrap Timer Unit's shared steps (04) and the average handle time (05, R98).
-/

namespace Sys2Proof.Machine

/-- The average handle time folded with one sample (R98): d divided by 2^k is rounded toward minus infinity. -/
def foldSample (aht16 k sample : Nat) : Nat :=
  let d : Int := (sample * 16 : Nat) - (aht16 : Nat)
  ((aht16 : Int) + d / (2 ^ k : Nat)).toNat

/-- The Statistics Unit takes a handle-time sample for a queue (R98). -/
def takeSample (s : State) (q sample : Nat) : State :=
  let r := queueOf s q
  setQueueRec s q { r with aht16 := foldSample r.aht16 r.settings.smoothingShift sample }

/-- The wrap time so far (R78). -/
def wrapTime (s : State) (w : WrapRecord) : Nat := since s w.start

/-- The handle-time sample of a wrap that ends now (R94). -/
def wrapSample (s : State) (w : WrapRecord) : Nat := sat16 (w.talkTime.toNat + wrapTime s w)

/-- Where a wrap end takes its agent (R84). -/
inductive WrapOutcome where
  | ready
  | notReady (reason : Nat)
  | loggedOut
deriving DecidableEq, Repr

/-- The outcome of a wrap that falls due (R85). -/
def expiryOutcome (s : State) (a : Agent) (w : WrapRecord) (pendingReason : Option Nat) : WrapOutcome :=
  if (queueOf s w.queue).settings.dispositionRequired && w.disposition.isNone then .notReady 241
  else
    match pendingReason with
    | some r => .notReady r
    | none => if a.autoReady then .ready else .notReady 242

/-- The agent enters its outcome state (R84, steps 2 and 3). -/
def enterOutcome (s : State) (a : Nat) (v : Agent) (o : WrapOutcome) : State :=
  match o with
  | .ready => enterReady s a v none
  | .notReady r => setAgentRec s a { v with status := .notReady r }
  | .loggedOut => dropAgent s a

/-- The WRAP EXPIRED notice (R86). -/
def wrapExpiredNotice (a : Nat) (w : WrapRecord) (o : WrapOutcome) (s : State) : State :=
  let r := match o with
    | .ready => (0, 255)
    | .notReady n => (1, n)
    | .loggedOut => (1, 255)
  notify 0x84 [f2 a, f1 w.queue, f1 r.1, f1 r.2, f2 ((w.disposition.map (·.toNat)).getD 0), f4 w.talkTime.toNat,
    f4 (wrapTime s w), f1 w.extensions] s

/-- The common steps of every wrap end (R84): the sample, the record, the agent, the notice of an expiry, the arbitration. -/
def endWrap (a : Nat) (v : Agent) (w : WrapRecord) (o : WrapOutcome) (expired : Bool) (s : State) : State :=
  let s1 := enterOutcome (takeSample s w.queue (wrapSample s w)) a v o
  let s2 := if expired then wrapExpiredNotice a w o s1 else s1
  match o with
  | .ready => matchAgent a s2
  | .notReady _ => s2
  | .loggedOut => s2

/-- A wrap ends as an expiry (R85, R86). -/
def expireWrap (a : Nat) (v : Agent) (w : WrapRecord) (pendingReason : Option Nat) (s : State) : State :=
  endWrap a v w (expiryOutcome s v w pendingReason) true s

end Sys2Proof.Machine
end

