-- ==== Sys2Proof/Machine/CallOrders.lean ====
section
/-!
DEFINITION. The call orders: ENQUEUE, REMOVE and READ CALL (01), ANSWER and REFUSE OFFER (03), RELEASE (04), DIVERT and
CANCEL DIVERT (07).
-/

namespace Sys2Proof.Machine

/-- A stale handle is refused NO_SUCH with the handle as received (R2). -/
def noSuchCall (s : State) (handle : BitVec 16) : State × Answer := (s, .refuse .noSuch 1 handle.toNat)

/-- An order that names a call: the handle check, then the rest (R2). -/
def withCall (handle : BitVec 16) (k : Call → State → State × Answer) (s : State) : State × Answer :=
  match callOf s handle.toNat with
  | some c => k c s
  | none => noSuchCall s handle

/-- The call is offered when an order's handling ends. -/
def offeredNow (s : State) (h : Nat) : Bool := ((callOf s h).map isOffered).getD false

/-! ### ENQUEUE (R18 to R22) -/

/-- The lowest-numbered FREE slot (R3). -/
def lowestFreeSlot (s : State) : Option Nat :=
  (List.range Config.callSlots).find? fun k => (tableFind s.calls k).isNone

/-- The base priority of a new call (R19). -/
def enqueuePriority (s : State) (q : Nat) (options priority : BitVec 8) : Nat :=
  if optionBit options 0 then min 127 priority.toNat else (queueOf s q).settings.defaultPriority

/-- The program of a new call (R19). -/
def enqueueProgram (s : State) (q : Nat) (options program : BitVec 8) : Option Nat :=
  if optionBit options 3 then none
  else if optionBit options 2 then orNone program
  else (queueOf s q).settings.defaultProgram

/-- The queue can take a call: it admits and is not full (R20). -/
def canTake (s : State) (q : Nat) : Bool := admitting (queueOf s q).state && !full s q

/-- The call goes to the overflow target (R20). -/
def overflows (s : State) (q t base : Nat) : Bool :=
  let limit := (queueOf s q).settings.overflowWaitLimit
  let inQ := ewt s q (newRank s q base)
  let inT := ewt s t (newRank s t base)
  canTake s t && (!canTake s q || (limit != 0 && decide (limit < inQ) && decide (inT < inQ)))

/-- The overflow decision (R20): the queue that admits the call, with whether it is the target; or the refusal. -/
def overflowDecision (s : State) (q base : Nat) : (Nat × Bool) ⊕ Answer :=
  let plain : (Nat × Bool) ⊕ Answer :=
    if canTake s q then .inl (q, false)
    else if admitting (queueOf s q).state then .inr (.refuse .noRoom 2 (occupancy s q))
    else .inr (.refuse .closed 2 (queueStateCode (queueOf s q).state))
  match (queueOf s q).settings.overflowTarget with
  | some t => if overflows s q t base then .inl (t, true) else plain
  | none => plain

/-- The record of a call at admission (R1, R3). -/
def newCall (s : State) (tag : BitVec 32) (q chosen : Nat) (overflowed : Bool) (base : Nat) (skills : Option Mask)
    (program : Option Nat) : Call :=
  { tag := tag, status := .waiting, queue := chosen, originQueue := if overflowed then some q else none, basePriority := base,
    extraSkills := skills, arrivalSeq := s.arrivals, arrivalTime := s.now, program := program, voice := none,
    awaitingVoice := false, exclusion := [], announceDue := none, offerCount := 0 }

/-- Steps 1 to 3 of an admission (R21): the record, the waiting list's tail, the counters. -/
def admitCall (slot : Nat) (c : Call) (s : State) : State :=
  let h := handleOf s slot
  let s1 := { s with calls := tableInsert s.calls slot c, arrivals := s.arrivals + 1 }
  let r := queueOf s1 c.queue
  let s2 := setQueueRec s1 c.queue { r with waiting := r.waiting ++ [h] }
  let s3 := count s2 c.queue fun k => { k with arrived := sat16 (k.arrived + 1) }
  match c.originQueue with
  | none => s3
  | some q =>
    count (count s3 q fun k => { k with overflowedOut := sat16 (k.overflowedOut + 1) }) c.queue fun k =>
      { k with overflowedIn := sat16 (k.overflowedIn + 1) }

/-- ENQUEUE (R18 to R22). -/
def handleEnqueue (tag : BitVec 32) (queue options priority : BitVec 8) (extraSkills : BitVec 32) (program : BitVec 8)
    (s : State) : State × Answer :=
  let q := queue.toNat
  let named := optionBit options 2
  if q > 63 then badField s 2
  else if named && decide (32 ≤ program.toNat) && decide (program.toNat ≤ 254) then badField s 6
  else if named && decide (program.toNat < 32) && (programOf s program.toNat).isNone then
    (s, .refuse .noSuch 6 program.toNat)
  else
    match lowestFreeSlot s with
    | none => (s, .refuse .noRoom 0 2048)
    | some slot =>
      let base := enqueuePriority s q options priority
      match overflowDecision s q base with
      | .inr r => (s, r)
      | .inl (chosen, overflowed) =>
        let c := newCall s tag q chosen overflowed base (if optionBit options 1 then some extraSkills else none)
          (enqueueProgram s q options program)
        let h := handleOf s slot
        let s1 := admitCall slot c s
        let rank := rankOf s1 c
        let wait := ewt s1 chosen rank
        let s2 := attach h (evalSurge chosen s1)
        let voice := (callOf s2 h).bind (·.voice)
        let s3 := matchCall h s2
        (s3, .accept (optionBit options 0 && decide (127 < priority.toNat))
          [f2 h, f1 chosen, f1 (bit overflowed), f2 rank, f2 wait, f1 (orElse voice 255), f1 (bit (offeredNow s3 h))])

/-! ### REMOVE (R23, R24) -/

/-- The withdrawal of the offer of a call that is removed (R70): the agent returns to its former place. -/
def withdrawRemoved (h a : Nat) (c : Call) (s : State) : State :=
  let s1 := setCallRec s h { c with status := .waiting }
  let s2 := match agentOf s1 a with
    | some v => returnToPlace s1 a v (readySeqOf s1 a)
    | none => s1
  withdrawnNotice h a c 1 s2

/-- Step 1 of REMOVE: the call leaves its place (R24). -/
def leavePlace (h : Nat) (c : Call) (s : State) : State :=
  match c.status with
  | .offered a _ => withdrawRemoved h a c s
  | .waiting => leaveList s h c.queue
  | .diverting _ => leaveList s h c.queue
  | .connected _ => s

/-- The counter of REMOVE (R105). -/
def countRemoved (cause : BitVec 8) (k : Counters) : Counters :=
  if cause.toNat = 1 then { k with abandoned := sat16 (k.abandoned + 1) } else { k with withdrawn := sat16 (k.withdrawn + 1) }

/-- The steps of an accepted REMOVE (R24). -/
def removeCall (h : Nat) (cause : BitVec 8) (c : Call) (s : State) : State :=
  let s1 := detach h (leavePlace h c s)
  let s2 := evalSurge c.queue (freeCall (count s1 c.queue (countRemoved cause)) h)
  match c.status with
  | .offered a _ => matchAgent a s2
  | .waiting => s2
  | .diverting _ => s2
  | .connected _ => s2

/-- REMOVE (R23, R24). -/
def handleRemove (handle : BitVec 16) (cause : BitVec 8) : State → State × Answer :=
  withCall handle fun c s =>
    if cause.toNat ≠ 1 ∧ cause.toNat ≠ 2 then badField s 2
    else
      match c.status with
      | .connected _ => wrongState s 1 (callStateCode c.status)
      | .waiting | .diverting _ | .offered _ _ =>
        (removeCall handle.toNat cause c s, .accept false [f2 handle.toNat, f1 (callStateCode c.status)])

/-! ### ANSWER (R64, R65) and REFUSE OFFER (R66, R67) -/

/-- The agent a refusal of ANSWER names: the one the call is OFFERED to or CONNECTED with, or 65,535 (R64). -/
def pairedAgent (s : State) (h : Nat) (c : Call) : Nat :=
  match c.status with
  | .offered a _ => a
  | .connected _ => (agentHolding s h).getD 65535
  | .waiting => 65535
  | .diverting _ => 65535

/-- The pairing check of R64: the order is taken when the call is OFFERED to the named agent. -/
def withOffer (h a : Nat) (c : Call) (k : State → State × Answer) (s : State) : State × Answer :=
  let detail := callStateCode c.status * 65536 + pairedAgent s h c
  match c.status with
  | .offered b _ => if b = a then k s else (s, .refuse .tooLate 1 detail)
  | .waiting => (s, .refuse .tooLate 1 detail)
  | .diverting _ => (s, .refuse .tooLate 1 detail)
  | .connected _ => (s, .refuse .wrongState 1 detail)

/-- The answer counters of a queue (R65, R106). -/
def countAnswer (wait threshold : Nat) (k : Counters) : Counters :=
  { k with
    answered := sat16 (k.answered + 1)
    answeredWithin := if wait ≤ threshold then sat16 (k.answeredWithin + 1) else k.answeredWithin
    longestAnsweredWait := max k.longestAnsweredWait (sat16 wait) }

/-- The agent side of ANSWER (R65): TALKING, misses 0, answered one more. -/
def talkTo (h : Nat) (v : Agent) : Agent :=
  { v with status := .talking h none, misses := 0, answered := sat16 (v.answered + 1) }

/-- The steps of an accepted ANSWER (R65). -/
def connectCall (h a : Nat) (c : Call) (s : State) : State :=
  let s1 := setCallRec s h { c with status := .connected s.now }
  let s2 := match agentOf s1 a with
    | some v => setAgentRec s1 a (talkTo h v)
    | none => s1
  let s3 := count s2 c.queue (countAnswer (waitOf s c) (queueOf s c.queue).settings.serviceThreshold)
  detach h (clearAwaiting h s3)

/-- ANSWER (R64, R65). -/
def handleAnswer (handle agent : BitVec 16) : State → State × Answer :=
  withCall handle fun c s =>
    if agent.toNat > 511 then badField s 2
    else
      withOffer handle.toNat agent.toNat c (fun s =>
        (connectCall handle.toNat agent.toNat c s,
          .accept false [f2 handle.toNat, f2 agent.toNat, f4 (waitOf s c),
            f1 (bit (decide (waitOf s c ≤ (queueOf s c.queue).settings.serviceThreshold)))])) s

/-- The agent side of REFUSE OFFER (R67, step 5). -/
def refusingAgent (a q : Nat) (reason : Option Nat) (s : State) : State :=
  match agentOf s a with
  | none => s
  | some v =>
    match reason with
    | some r => setAgentRec s a { v with status := .notReady r }
    | none => enterReady s a v (coolDownEndFor s q)

/-- An agent that may have become available is handed over, when it is READY with no cool-down end (R42). -/
def offerAgent (a : Nat) (s : State) : State :=
  if ((agentOf s a).map available).getD false then matchAgent a s else s

/-- The steps of an accepted REFUSE OFFER (R67). -/
def refuseCall (h a : Nat) (reason : Option Nat) (c : Call) (s : State) : State :=
  let s1 := returnCall h a c s
  let s2 := count s1 c.queue fun k => { k with refusedOffers := sat16 (k.refusedOffers + 1) }
  offerAgent a (matchCall h (refusingAgent a c.queue reason s2))

/-- REFUSE OFFER (R66, R67). -/
def handleRefuseOffer (handle agent : BitVec 16) (reasonPresent reason : BitVec 8) : State → State × Answer :=
  withCall handle fun c s =>
    if agent.toNat > 511 then badField s 2
    else if reasonPresent.toNat > 1 then badField s 3
    else if reasonPresent.toNat = 1 ∧ reason.toNat > 199 then badField s 4
    else
      withOffer handle.toNat agent.toNat c (fun s =>
        let h := handle.toNat
        let a := agent.toNat
        let t := refuseCall h a (if reasonPresent.toNat = 1 then some reason.toNat else none) c s
        (t, .accept false [f2 h, f2 a, f1 (((callOf t h).map fun d => callStateCode d.status).getD 0),
          f1 (agentStateCode (agentOf t a))])) s

/-! ### RELEASE (R79 to R82) -/

/-- The allowance of a new wrap (R81). -/
def wrapAllowanceOf (q : Queue) : Nat :=
  if q.surge then min q.settings.wrapAllowance q.settings.surgeWrapAllowance else q.settings.wrapAllowance

/-- The wrap record of a wrap that starts now (R80). -/
def newWrap (s : State) (q : Nat) (talk : Time) : WrapRecord :=
  { queue := q, talkTime := talk, start := s.now, deadline := timeAfter s.now (wrapAllowanceOf (queueOf s q)),
    extensions := 0, disposition := none }

/-- The steps of an accepted RELEASE (R80, R82). -/
def releaseCall (h a : Nat) (v : Agent) (c : Call) (talk : Time) (s : State) : State :=
  let s1 := freeCall (count s c.queue fun k => { k with completed := sat16 (k.completed + 1) }) h
  let w := newWrap s c.queue talk
  let v' := { v with status := .wrap w (pendingReasonOf v) }
  let s2 := setAgentRec s1 a v'
  if wrapAllowanceOf (queueOf s c.queue) = 0 then expireWrap a v' w (pendingReasonOf v) s2 else s2

/-- RELEASE (R79, R80). A CONNECTED call has its agent (R52); the last case is not reached (log 15). -/
def handleRelease (handle : BitVec 16) : State → State × Answer :=
  withCall handle fun c s =>
    match c.status with
    | .waiting | .diverting _ | .offered _ _ => wrongState s 1 (callStateCode c.status)
    | .connected answered =>
      let h := handle.toNat
      let talk := s.now - answered
      let w := newWrap s c.queue talk
      match (agentHolding s h).bind fun a => (agentOf s a).map fun v => (a, v) with
      | some (a, v) =>
        let t := releaseCall h a v c talk s
        (t, .accept false [f2 h, f2 a, f4 talk.toNat, f2 (wrapAllowanceOf (queueOf s c.queue)), f4 w.deadline.toNat,
          f1 (agentStateCode (agentOf t a)), f1 (bit (agentStateCode (agentOf t a) == 3))])
      | none => wrongState s 1 (callStateCode c.status)

/-! ### DIVERT and CANCEL DIVERT (R153 to R155) -/

/-- The exit clip of a call's program as it stands now, with the program's number. -/
def exitOf (s : State) (c : Call) : Option (Nat × Nat) :=
  c.program.bind fun p => (programOf s p).bind fun r => r.exitClip.map fun k => (p, k)

/-- The divert from a SHARED voice (R153, case 2). The loop index of the exit voice is not stated: a free value (log 10). -/
def divertFromShared (h p k : Nat) (s : State) : State :=
  let s1 := detach h s
  match callOf s1 h, lowestFreeVoice s1 with
  | some c, some v =>
    let s2 := setCallRec s1 h { c with voice := some v, announceDue := some (firstDue s1 c.queue) }
    startVoice { s2 with freeDraws := s2.freeDraws + 1 } v p (.private_ h) .exit (Config.unstatedLoopIndex s2.freeDraws).val k
  | _, _ => divertDone h false s1

/-- The exit of a diverting call (R153): its voice jumps to the exit clip, or it takes a voice for it, or the divert is done
at once. -/
def divertExit (h : Nat) (c : Call) (s : State) : State :=
  match exitOf s c, c.voice.bind fun v => (voiceOf s v).map fun r => (v, r) with
  | some (p, k), some (v, r) =>
    match r.mode with
    | .private_ _ => nextClip v r .exit r.loopIndex k s
    | .shared _ => divertFromShared h p k s
  | _, _ => divertDone h false s

/-- DIVERT (R153). -/
def handleDivert (handle : BitVec 16) : State → State × Answer :=
  withCall handle fun c s =>
    match c.status with
    | .diverting _ | .offered _ _ | .connected _ => wrongState s 1 (callStateCode c.status)
    | .waiting =>
      let h := handle.toNat
      let c' := { c with status := .diverting false, awaitingVoice := false }
      let t := divertExit h c' (setCallRec s h c')
      let voice := (callOf t h).bind (·.voice)
      (t, .accept false [f2 h, f1 (bit voice.isSome), f1 (orElse voice 255)])

/-- The voice side of CANCEL DIVERT (R155, step 2): an exit still playing stops and the voice resumes at LOOP 0; a call whose
divert was done is attached again. -/
def cancelVoice (h : Nat) (c : Call) (s : State) : State :=
  match c.voice with
  | some v =>
    match (voiceOf s v).bind fun r => (programOf s r.program).map fun p => (r, p) with
    | some (r, p) => nextClip v r .loop 0 (loopClip p 0) s
    | none => s
  | none => attach h s

/-- CANCEL DIVERT (R155). -/
def handleCancelDivert (handle : BitVec 16) : State → State × Answer :=
  withCall handle fun c s =>
    match c.status with
    | .waiting | .offered _ _ | .connected _ => wrongState s 1 (callStateCode c.status)
    | .diverting _ =>
      let h := handle.toNat
      let c' := { c with status := .waiting }
      let s1 := cancelVoice h c' (setCallRec s h c')
      let voice := (callOf s1 h).bind (·.voice)
      let awaiting := ((callOf s1 h).map (·.awaitingVoice)).getD false
      let s2 := matchCall h s1
      (s2, .accept false [f2 h, f1 (orElse voice 255), f1 (bit awaiting), f1 (bit (offeredNow s2 h))])

/-! ### READ CALL (R25) -/

/-- The exclusion list's four places, 65,535 in unused ones. -/
def exclusionFields (l : List Nat) : List LinkField := (List.range 4).map fun i => f2 (l.getD i 65535)

/-- READ CALL (R25). -/
def handleReadCall (handle : BitVec 16) : State → State × Answer :=
  withCall handle fun c s =>
    let offeredAgent := match c.status with
      | .offered a _ => a
      | .waiting => 65535
      | .diverting _ => 65535
      | .connected _ => 65535
    let deadline := match c.status with
      | .offered _ (some d) => d.toNat
      | .offered _ none => 0
      | .waiting => 0
      | .diverting _ => 0
      | .connected _ => 0
    let answerTime := match c.status with
      | .connected t => t.toNat
      | .waiting => 0
      | .diverting _ => 0
      | .offered _ _ => 0
    (s, .accept false ([f2 handle.toNat, f4 c.tag.toNat, f1 (callStateCode c.status), f1 c.queue, f1 (orElse c.originQueue 255),
      f1 c.basePriority, f1 (effPriority s c), f4 ((c.extraSkills.map (·.toNat)).getD 0), f4 (c.arrivalSeq % 4294967296),
      f4 c.arrivalTime.toNat, f4 (waitOf s c), f1 (orElse c.program 255), f1 (orElse c.voice 255), f1 (callFlags c),
      f1 c.exclusion.length] ++ exclusionFields c.exclusion ++
      [f2 offeredAgent, f4 deadline, f4 answerTime, f4 ((c.announceDue.map (·.toNat)).getD 0), f1 c.offerCount,
        f2 (if isWaiting c then rankOf s c else 0)]))

end Sys2Proof.Machine
end

