-- ==== Sys2Proof/Machine/AgentOrders.lean ====
section
/-!
DEFINITION. The agent orders: LOGIN, LOGOUT, SET READY, SET NOT READY, SET SKILLS, READ AGENT and READ AGENT STATES (02);
WRAP DONE, SET DISPOSITION and EXTEND WRAP (04).
-/

namespace Sys2Proof.Machine

/-- The agent-state refusal of R32: field index 1, the agent's state code in the detail. -/
def wrongAgentState (s : State) (a : Nat) : State × Answer := wrongState s 1 (agentStateCode (agentOf s a))

/-- The agent is OFFERED when an order's handling ends. -/
def agentOffered (s : State) (a : Nat) : Bool := agentStateCode (agentOf s a) == 3

/-- The reply of LOGIN, SET READY and SET SKILLS: agent, state after, and the offer-made mark, which is 1 only when the order's
own matching step made an offer (R33): `matched` is whether the order matched the agent. -/
def agentReply (s : State) (a : Nat) (matched : Bool) : Answer :=
  .accept false [f2 a, f1 (agentStateCode (agentOf s a)), f1 (bit (matched && agentOffered s a))]

/-- A newly logged-in agent's record (R33). -/
def loggedIn (skills : Mask) (autoReady : Bool) (st : AgentStatus) : Agent :=
  { status := st, skills := skills, autoReady := autoReady, misses := 0, answered := 0 }

/-- LOGIN (R33). -/
def handleLogin (agent : BitVec 16) (skills : BitVec 32) (autoReady initialState reason : BitVec 8) (s : State) : State × Answer :=
  let a := agent.toNat
  if a > 511 then badField s 1
  else if autoReady.toNat > 1 then badField s 3
  else if initialState.toNat > 1 then badField s 4
  else if initialState.toNat = 1 ∧ reason.toNat > 199 then badField s 5
  else
    match agentOf s a with
    | some _ => wrongAgentState s a
    | none =>
      let v := loggedIn skills (autoReady.toNat == 1) (.notReady reason.toNat)
      let t := if initialState.toNat = 1 then setAgentRec s a v else matchAgent a (enterReady s a v none)
      (t, agentReply t a (initialState.toNat != 1))

/-- The withdrawal of the offer of an agent that leaves it (R71), and what the agent becomes: LOGGED_OUT, or NOT_READY with
a reason. -/
def withdrawAgent (a h : Nat) (v : Agent) (reason : Option Nat) (s : State) : State :=
  let after (t : State) : State := match reason with
    | none => dropAgent t a
    | some r => setAgentRec t a { v with status := .notReady r }
  match callOf s h with
  | none => after s
  | some c => matchCall h (withdrawnNotice h a c 2 (after (returnCall h a c s)))

/-- The steps of an accepted LOGOUT (R35, R71, R92). -/
def logoutAgent (a : Nat) (v : Agent) (s : State) : State :=
  match v.status with
  | .notReady _ => dropAgent s a
  | .ready _ _ => dropAgent (leaveReady s a) a
  | .offered h _ => withdrawAgent a h v none s
  | .wrap w _ => endWrap a v w .loggedOut false s
  | .talking _ _ => s

/-- LOGOUT (R34, R35). -/
def handleLogout (agent : BitVec 16) (s : State) : State × Answer :=
  let a := agent.toNat
  if a > 511 then badField s 1
  else
    match agentOf s a with
    | none => wrongAgentState s a
    | some v =>
      match v.status with
      | .talking _ _ => wrongAgentState s a
      | .notReady _ | .ready _ _ | .offered _ _ | .wrap _ _ =>
        (logoutAgent a v s, .accept false [f2 a, f1 (agentStateCode (some v))])

/-- SET READY (R36). -/
def handleSetReady (agent : BitVec 16) (s : State) : State × Answer :=
  let a := agent.toNat
  if a > 511 then badField s 1
  else
    match agentOf s a with
    | none => wrongAgentState s a
    | some v =>
      match v.status with
      | .notReady _ =>
        let t := matchAgent a (enterReady s a v none)
        (t, agentReply t a true)
      | .ready _ _ | .offered _ _ | .talking _ _ | .wrap _ _ => wrongAgentState s a

/-- The steps of an accepted SET NOT READY (R37). -/
def notReadyAgent (a : Nat) (v : Agent) (reason : Nat) (s : State) : State :=
  match v.status with
  | .notReady _ => setAgentRec s a { v with status := .notReady reason }
  | .ready _ _ => setAgentRec (leaveReady s a) a { v with status := .notReady reason }
  | .offered h _ => withdrawAgent a h v (some reason) s
  | .talking h _ => setAgentRec s a { v with status := .talking h (some reason) }
  | .wrap w _ => setAgentRec s a { v with status := .wrap w (some reason) }

/-- SET NOT READY (R37). -/
def handleSetNotReady (agent : BitVec 16) (reason : BitVec 8) (s : State) : State × Answer :=
  let a := agent.toNat
  if a > 511 then badField s 1
  else if reason.toNat > 199 then badField s 2
  else
    match agentOf s a with
    | none => wrongAgentState s a
    | some v =>
      let t := notReadyAgent a v reason.toNat s
      (t, .accept false [f2 a, f1 (agentStateCode (some v)), f1 (agentStateCode (agentOf t a)),
        f1 (((agentOf t a).bind pendingReasonOf).getD 255)])

/-- SET SKILLS (R39): an available agent is matched. The offer of an OFFERED agent continues, and is no offer made by the order. -/
def handleSetSkills (agent : BitVec 16) (skills : BitVec 32) (s : State) : State × Answer :=
  let a := agent.toNat
  if a > 511 then badField s 1
  else
    match agentOf s a with
    | none => wrongAgentState s a
    | some v =>
      let t := offerAgent a (setAgentRec s a { v with skills := skills })
      (t, agentReply t a (available v))

/-- An agent order that needs the agent in WRAP (R87, R89, R90). -/
def withWrap (a : Nat) (k : Agent → WrapRecord → Option Nat → State → State × Answer) (s : State) : State × Answer :=
  match agentOf s a with
  | none => wrongAgentState s a
  | some v =>
    match v.status with
    | .wrap w p => k v w p s
    | .notReady _ | .ready _ _ | .offered _ _ | .talking _ _ => wrongAgentState s a

/-- The wrap record with a code carried by WRAP DONE stored (R91). -/
def withCode (w : WrapRecord) (options : BitVec 8) (code : BitVec 16) : WrapRecord :=
  if optionBit options 0 then { w with disposition := some code } else w

/-- The outcome of WRAP DONE (R91). -/
def doneOutcome (options reason : BitVec 8) (pendingReason : Option Nat) : WrapOutcome :=
  if optionBit options 1 then .notReady reason.toNat
  else
    match pendingReason with
    | some r => .notReady r
    | none => .ready

/-- The reason of an outcome, 255 for READY (R91). -/
def outcomeReason : WrapOutcome → Nat
  | .notReady r => r
  | .ready => 255
  | .loggedOut => 255

/-- WRAP DONE (R90, R91). -/
def handleWrapDone (agent : BitVec 16) (options : BitVec 8) (code : BitVec 16) (reason : BitVec 8) (s : State) : State × Answer :=
  let a := agent.toNat
  if a > 511 then badField s 1
  else if options.toNat > 7 then badField s 2
  else if optionBit options 0 ∧ code.toNat = 0 then badField s 3
  else if optionBit options 1 ∧ reason.toNat > 199 then badField s 4
  else
    withWrap a (fun v w p s =>
      if (queueOf s w.queue).settings.dispositionRequired && !optionBit options 0 && w.disposition.isNone &&
          !optionBit options 2 then
        (s, .refuse .codeMissing 3 w.queue)
      else
        let w' := withCode w options code
        let o := doneOutcome options reason p
        let t := endWrap a v w' o false s
        (t, .accept false [f2 a, f1 (agentStateCode (agentOf t a)), f1 (outcomeReason o),
          f2 ((w'.disposition.map (·.toNat)).getD 0), f4 w'.talkTime.toNat, f4 (wrapTime s w'), f2 (wrapSample s w'),
          f1 (bit (agentOffered t a))])) s

/-- SET DISPOSITION (R89). -/
def handleSetDisposition (agent code : BitVec 16) (s : State) : State × Answer :=
  let a := agent.toNat
  if a > 511 then badField s 1
  else if code.toNat = 0 then badField s 2
  else
    withWrap a (fun v w p s =>
      (setAgentRec s a { v with status := .wrap { w with disposition := some code } p },
        .accept false [f2 a, f2 ((w.disposition.map (·.toNat)).getD 0)])) s

/-- The distance from a wrap's start to a deadline (R81). -/
def wrapDistance (w : WrapRecord) (deadline : Time) : Nat := (deadline - w.start).toNat

/-- EXTEND WRAP (R87, R88). A wrap whose deadline moves is not taken by the scan of the present boundary. -/
def handleExtendWrap (agent : BitVec 16) (s : State) : State × Answer :=
  let a := agent.toNat
  if a > 511 then badField s 1
  else
    withWrap a (fun v w p s =>
      let q := queueOf s w.queue
      if q.surge then (s, .refuse .surge 0 w.queue)
      else if q.settings.maxExtensions ≤ w.extensions then (s, .refuse .limit 0 1)
      else if Config.wrapCap ≤ wrapDistance w w.deadline then (s, .refuse .limit 0 2)
      else
        let full := timeAfter w.deadline q.settings.extensionLength
        let capped := decide (Config.wrapCap < wrapDistance w full)
        let deadline := if capped then timeAfter w.start Config.wrapCap else full
        let w' := { w with deadline := deadline, extensions := w.extensions + 1 }
        let s1 := setAgentRec s a { v with status := .wrap w' p }
        ({ s1 with due := { s1.due with wraps := s1.due.wraps.filter fun b => b != a } },
          .accept capped [f2 a, f4 deadline.toNat, f1 w'.extensions, f4 (wrapTime s w)])) s

/-- READ AGENT (R48). -/
def handleReadAgent (agent : BitVec 16) (s : State) : State × Answer :=
  let a := agent.toNat
  if a > 511 then badField s 1
  else
    match agentOf s a with
    | none =>
      (s, .accept false [f2 a, f1 0, f1 0, f4 0, f1 0, f1 0, f1 0, f2 0, f4 0, f4 0, f1 0, f2 0, f1 0, f4 0, f4 0, f4 0,
        f1 0, f2 0])
    | some v =>
      let w := wrapOf v
      (s, .accept false [f2 a, f1 (agentStateCode (some v)), f1 (agentFlags v), f4 v.skills.toNat, f1 (bit v.autoReady),
        f1 (orElse (reasonOf v) 0), f1 (orElse (pendingReasonOf v) 0), f2 (orElse (currentCallOf v) 0),
        f4 (orElse (heldSeqOf v) 0 % 4294967296), f4 (((coolDownOf v).map (·.toNat)).getD 0), f1 v.misses, f2 v.answered,
        f1 ((w.map (·.queue)).getD 0), f4 ((w.map (·.talkTime.toNat)).getD 0), f4 ((w.map (·.start.toNat)).getD 0),
        f4 ((w.map (·.deadline.toNat)).getD 0), f1 ((w.map (·.extensions)).getD 0),
        f2 (((w.bind (·.disposition)).map (·.toNat)).getD 0)])

/-- The byte of READ AGENT STATES for one agent: its state code, or 6 for READY in cool-down (R49). -/
def agentStateByte (s : State) (a : Nat) : Nat :=
  if ((agentOf s a).bind coolDownOf).isSome then 6 else agentStateCode (agentOf s a)

/-- READ AGENT STATES (R49). -/
def handleReadAgentStates (firstAgent : BitVec 16) (count : BitVec 8) (s : State) : State × Answer :=
  let first := firstAgent.toNat
  if first > 511 then badField s 1
  else if count.toNat = 0 then badField s 2
  else
    let n := min (min count.toNat 64) (Config.agents - first)
    (s, .accept (n != count.toNat) ([f2 first, f1 n] ++ (List.range n).map fun i => f1 (agentStateByte s (first + i))))

end Sys2Proof.Machine
end

