-- ==== Sys2Proof/Machine/ClipOrders.lean ====
section
/-!
DEFINITION. The clip orders (06): OPEN CLIP LOAD, CLIP DATA, CLOSE CLIP LOAD, ABORT CLIP LOAD, FREE CLIP, READ CLIP and
READ CLIP ENTRY.
-/

namespace Sys2Proof.Machine

/-- The page count of a length (R118). -/
def pagesOf (length : Nat) : Nat := (length + (Config.pageBytes - 1)) / Config.pageBytes

/-- Two page ranges share a page (R120). -/
def pagesMeet (start1 n1 start2 n2 : Nat) : Bool := decide (start1 < start2 + n2) && decide (start2 < start1 + n1)

/-- The lowest-numbered clip other than `k` that holds a page of the range (R122, check 5). -/
def pageHolder (s : State) (k start n : Nat) : Option Nat :=
  (s.clips.find? fun e => e.1 != k && pagesMeet start n e.2.startPage (pagesOf e.2.length)).map (·.1)

/-- The clip is LOADING (R118). -/
def isLoading (c : Clip) : Bool :=
  match c.status with
  | .loading _ _ _ => true
  | .ready => false
  | .faulty _ => false

/-- OPEN CLIP LOAD (R122, R123). -/
def handleOpenClipLoad (clip : BitVec 8) (startPage : BitVec 16) (length : BitVec 32) (s : State) : State × Answer :=
  let k := clip.toNat
  let start := startPage.toNat
  let len := length.toNat
  let old := clipOf s k
  if start > 8191 then badField s 2
  else if len = 0 ∨ len > Config.sampleBytes then badField s 3
  else if start * Config.pageBytes + len > Config.sampleBytes then
    (s, .refuse .badField 3 (Config.sampleBytes - start * Config.pageBytes))
  else if (old.map fun c => isLoading c || c.useCount != 0).getD false then
    (s, .refuse .inUse 1 (clipStateCode old * 65536 + (old.map (·.useCount)).getD 0))
  else
    match pageHolder s k start (pagesOf len) with
    | some j => (s, .refuse .inUse 2 j)
    | none =>
      (setClipRec s k { status := .loading 0 0 0, startPage := start, length := len, useCount := 0 },
        .accept false [f1 k, f1 (clipStateCode old), f2 start, f2 (pagesOf len)])

/-- An order that needs the clip LOADING (R124, R126, R127). -/
def withLoading (k : Nat) (go : Clip → Nat → Byte → Nat → State → State × Answer) (s : State) : State × Answer :=
  match clipOf s k with
  | none => wrongState s 1 0
  | some c =>
    match c.status with
    | .loading cursor xor excess => go c cursor xor excess s
    | .ready | .faulty _ => wrongState s 1 (clipStateCode (some c))

/-- Bytes written to the sample memory from an address on (R125). -/
def writeBytes : Table Byte → Nat → List Byte → Table Byte
  | t, _, [] => t
  | t, addr, b :: bs => writeBytes (tableInsert t addr b) (addr + 1) bs

/-- The XOR of bytes folded into an accumulator (R125). -/
def xorBytes (acc : Byte) (bs : List Byte) : Byte := bs.foldl (· ^^^ ·) acc

/-- CLIP DATA (R124, R125): the bytes up to the clip's length are written, the others counted as excess. -/
def handleClipData (clip : BitVec 8) (offset : BitVec 32) (data : List (BitVec 8)) (s : State) : State × Answer :=
  let k := clip.toNat
  if data.length < 1 ∨ data.length > 240 then (s, .refuse .badLength 0 (245 * 65536 + (data.length + 5)))
  else
    withLoading k (fun c cursor xor excess s =>
      if offset.toNat ≠ cursor then (s, .refuse .sequence 2 cursor)
      else
        let written := data.take (c.length - cursor)
        let ignored := data.length - written.length
        let c' := { c with
          status := .loading (cursor + written.length) (xorBytes xor written) (min 4294967295 (excess + ignored)) }
        ({ setClipRec s k c' with samples := writeBytes s.samples (sampleAddress c cursor) written },
          .accept (ignored != 0) [f1 k, f4 (cursor + written.length), f1 written.length, f1 ignored])) s

/-- The outcome of a close (R126): the short test comes first. -/
def closeStatus (c : Clip) (cursor : Nat) (xor expected : Byte) : ClipStatus :=
  if cursor < c.length then .faulty .short else if xor ≠ expected then .faulty .check else .ready

/-- The fault cause code of a clip, 0 for none (R118). -/
def causeCode (c : Clip) : Nat :=
  match c.status with
  | .faulty f => faultCauseCode f
  | .ready => 0
  | .loading _ _ _ => 0

/-- CLOSE CLIP LOAD (R126). -/
def handleCloseClipLoad (clip expectedXor : BitVec 8) : State → State × Answer :=
  withLoading clip.toNat fun c cursor xor excess s =>
    let c' := { c with status := closeStatus c cursor xor expectedXor }
    (setClipRec s clip.toNat c',
      .accept (excess != 0) [f1 clip.toNat, f1 (clipStateCode (some c')), f1 (causeCode c'), f4 cursor, f1 xor.toNat, f4 excess])

/-- ABORT CLIP LOAD (R127). -/
def handleAbortClipLoad (clip : BitVec 8) : State → State × Answer :=
  withLoading clip.toNat fun _ cursor _ excess s =>
    (dropClip s clip.toNat, .accept false [f1 clip.toNat, f4 cursor, f4 excess])

/-- FREE CLIP (R128). -/
def handleFreeClip (clip : BitVec 8) (s : State) : State × Answer :=
  let k := clip.toNat
  match clipOf s k with
  | none => wrongState s 1 0
  | some c =>
    let free : State × Answer := (dropClip s k, .accept false [f1 k, f1 (clipStateCode (some c)), f2 (pagesOf c.length)])
    match c.status with
    | .loading _ _ _ => wrongState s 1 (clipStateCode (some c))
    | .ready => if c.useCount ≠ 0 then (s, .refuse .inUse 1 c.useCount) else free
    | .faulty _ => free

/-- Bytes of the sample memory as one-byte fields (R129). -/
def sampleFields (s : State) (c : Clip) (offset n : Nat) : List LinkField :=
  (List.range n).map fun i => f1 (sampleAt s (sampleAddress c (offset + i))).toNat

/-- READ CLIP (R129). -/
def handleReadClip (clip : BitVec 8) (offset : BitVec 32) (count : BitVec 8) (s : State) : State × Answer :=
  let k := clip.toNat
  match clipOf s k with
  | none => wrongState s 1 0
  | some c =>
    match c.status with
    | .loading _ _ _ => wrongState s 1 (clipStateCode (some c))
    | .ready | .faulty _ =>
      if c.length ≤ offset.toNat then (s, .refuse .badField 2 c.length)
      else if count.toNat = 0 ∨ count.toNat > 240 then badField s 3
      else
        let n := min count.toNat (c.length - offset.toNat)
        (s, .accept (n != count.toNat) ([f1 k, f4 offset.toNat, f1 n] ++ sampleFields s c offset.toNat n))

/-- READ CLIP ENTRY (R130). -/
def handleReadClipEntry (clip : BitVec 8) (s : State) : State × Answer :=
  let k := clip.toNat
  match clipOf s k with
  | none =>
    (s, .accept false [f1 k, f1 0, f2 0, f4 0, f2 0, f1 0, f1 (programRefs s k), f1 (voiceRefs s k), f4 0, f1 0, f4 0, f1 0])
  | some c =>
    let session := match c.status with
      | .loading cursor xor excess => (cursor, xor.toNat, excess)
      | .ready => (0, 0, 0)
      | .faulty _ => (0, 0, 0)
    (s, .accept false [f1 k, f1 (clipStateCode (some c)), f2 c.startPage, f4 c.length, f2 (pagesOf c.length), f1 c.useCount,
      f1 (programRefs s k), f1 (voiceRefs s k), f4 session.1, f1 session.2.1, f4 session.2.2, f1 (causeCode c)])

end Sys2Proof.Machine
end

