-- ==== Sys2Proof/Machine/ProgramOrders.lean ====
section
/-!
DEFINITION. The program and voice orders (07): SET PROGRAM, DELETE PROGRAM, READ PROGRAM and READ VOICE.
-/

namespace Sys2Proof.Machine

/-- A clip field that must name a READY clip (R135): the refusal carries the clip and its state. -/
def clipRefusal (s : State) (index : Nat) (clip : Nat) : Option Answer :=
  if ((clipOf s clip).map fun c => c.status == .ready).getD false then none
  else some (.refuse .wrongState index (clip * 65536 + clipStateCode (clipOf s clip)))

/-- An optional clip of SET PROGRAM, present when its option bit is set. -/
def optionClip (f : ProgramFields) (i : Nat) (clip : BitVec 8) : Option Nat :=
  if optionBit f.options i then some clip.toNat else none

/-- The loop clips within the loop count. -/
def loopClips (f : ProgramFields) : List Nat := (f.loop.take f.loopCount.toNat).map (·.toNat)

/-- The bands within the band count. -/
def bandList (f : ProgramFields) : List (Nat × Nat) := (f.bands.take f.bandCount.toNat).map fun b => (b.1.toNat, b.2.toNat)

/-- The first refusal of the loop clips, from field index `index` on. -/
def loopRefusal (s : State) : Nat → List Nat → Option Answer
  | _, [] => none
  | index, k :: ks => (clipRefusal s index k).or (loopRefusal s (index + 1) ks)

/-- The first refusal of the bands, from the bound at field index `index` on; `below` is the bound of the band before (R135). -/
def bandRefusal (s : State) : Nat → Nat → List (Nat × Nat) → Option Answer
  | _, _, [] => none
  | index, below, (bound, k) :: bs =>
    if bound = 0 ∨ bound = 65535 ∨ bound ≤ below then some (.refuse .badField index bound)
    else (clipRefusal s (index + 1) k).or (bandRefusal s (index + 2) bound bs)

/-- The first field of SET PROGRAM that refuses it, in field-index order (R135). -/
def setProgramRefusal (s : State) (f : ProgramFields) : Option Answer :=
  if f.program.toNat > 31 then some (.refuse .badField 1 0)
  else if f.options.toNat > 15 then some (.refuse .badField 2 0)
  else
    ((optionClip f 0 f.introClip).bind (clipRefusal s 3)).or <|
    ((optionClip f 1 f.exitClip).bind (clipRefusal s 4)).or <|
    ((optionClip f 2 f.overClip).bind (clipRefusal s 5)).or <|
    ((optionClip f 3 f.noEstimateClip).bind (clipRefusal s 6)).or <|
    (if f.loopCount.toNat = 0 ∨ f.loopCount.toNat > 8 then some (.refuse .badField 7 0) else none).or <|
    (loopRefusal s 8 (loopClips f)).or <|
    (if f.bandCount.toNat > 8 then some (.refuse .badField 16 0) else none).or <|
    bandRefusal s 17 0 (bandList f)

/-- The content an accepted SET PROGRAM stores (R136). -/
def programContent (f : ProgramFields) : Program :=
  { introClip := optionClip f 0 f.introClip, exitClip := optionClip f 1 f.exitClip, overClip := optionClip f 2 f.overClip,
    noEstimateClip := optionClip f 3 f.noEstimateClip, loop := loopClips f, bands := bandList f }

/-- The clips a program refers to, none when it is undefined. -/
def referredBy (o : Option Program) : List Nat := (o.map programClips).getD []

/-- The use counts after a program's references pass from `old` to `new`: a clip in both is unchanged (R121). -/
def moveReferences (s : State) (old new : List Nat) : State :=
  let s1 := (old.filter fun k => !new.contains k).foldl giveUse s
  (new.filter fun k => !old.contains k).foldl takeUse s1

/-- SET PROGRAM (R135, R136). A body of another length than 40 bytes is refused BAD_LENGTH (R181). -/
def handleSetProgram (f : ProgramFields) (s : State) : State × Answer :=
  if f.loop.length ≠ 8 ∨ f.bands.length ≠ 8 then
    (s, .refuse .badLength 0 (40 * 65536 + (8 + f.loop.length + 3 * f.bands.length)))
  else
    match setProgramRefusal s f with
    | some r => (s, r)
    | none =>
      let p := f.program.toNat
      let content := programContent f
      let old := programOf s p
      let s1 := moveReferences s (referredBy old) (programClips content)
      ({ s1 with programs := tableInsert s1.programs p content },
        .accept false [f1 p, f1 (bit old.isSome), f1 (programClips content).length])

/-- What holds a program against deletion (R137, checks 3 to 5): a voice that plays it, a queue that names it, a call in use
that names it. -/
def programHolder (s : State) (p : Nat) : Option Nat :=
  ((s.voices.find? fun e => e.2.program == p).map fun e => 1 * 65536 + e.1).or <|
  ((s.queues.find? fun e => e.2.settings.defaultProgram == some p).map fun e => 2 * 65536 + e.1).or <|
  ((s.calls.find? fun e => e.2.program == some p).map fun e => 3 * 65536 + handleOf s e.1)

/-- DELETE PROGRAM (R137). -/
def handleDeleteProgram (program : BitVec 8) (s : State) : State × Answer :=
  let p := program.toNat
  if p > 31 then badField s 1
  else
    match programOf s p with
    | none => (s, .refuse .noSuch 1 0)
    | some r =>
      match programHolder s p with
      | some d => (s, .refuse .inUse 1 d)
      | none =>
        let s1 := moveReferences s (programClips r) []
        ({ s1 with programs := tableErase s1.programs p }, .accept false [f1 p, f1 (programClips r).length])

/-- The option sum of a program: which optional clips are present (R138). -/
def optionSum (r : Program) : Nat :=
  bit r.introClip.isSome + 2 * bit r.exitClip.isSome + 4 * bit r.overClip.isSome + 8 * bit r.noEstimateClip.isSome

/-- An optional clip of a defined program in READ PROGRAM. What the field of an absent one reads is not stated: a free value
(log 17). -/
def optionClipField (now : Time) (p index : Nat) (clip : Option Nat) : LinkField :=
  f1 (clip.getD (Config.absentClipField now p index).toNat)

/-- The content fields of a defined program, SET PROGRAM indices 2 to 32; places beyond the counts read 0 (R138). -/
def programContentFields (now : Time) (p : Nat) (r : Program) : List LinkField :=
  [f1 (optionSum r), optionClipField now p 3 r.introClip, optionClipField now p 4 r.exitClip, optionClipField now p 5 r.overClip,
   optionClipField now p 6 r.noEstimateClip, f1 r.loop.length] ++ (List.range 8).map (fun i => f1 (r.loop.getD i 0)) ++
  [f1 r.bands.length] ++ (List.range 8).flatMap fun j => [f2 (r.bands.getD j (0, 0)).1, f1 (r.bands.getD j (0, 0)).2]

/-- The content fields of an undefined program, all 0 (R138). -/
def noContentFields : List LinkField :=
  List.replicate 15 (f1 0) ++ (List.range 8).flatMap fun _ => [f2 0, f1 0]

/-- READ PROGRAM (R138). -/
def handleReadProgram (program : BitVec 8) (s : State) : State × Answer :=
  let p := program.toNat
  if p > 31 then badField s 1
  else
    let content := match programOf s p with
      | some r => programContentFields s.now p r
      | none => noContentFields
    (s, .accept false ([f1 p, f1 (bit (programOf s p).isSome)] ++ content ++
      [f1 (orElse (sharedVoiceOf s p) 255), f1 (s.voices.countP fun e => e.2.program == p),
        f2 (s.calls.countP fun e => e.2.program == some p)]))

/-- READ VOICE (R158). -/
def handleReadVoice (voice : BitVec 8) (s : State) : State × Answer :=
  let v := voice.toNat
  if v > 127 then badField s 1
  else
    match voiceOf s v with
    | none => (s, .accept false [f1 v, f1 0, f1 255, f2 0, f2 65535, f1 0, f1 0, f1 0, f4 0, f1 255])
    | some r =>
      let listeners := match r.mode with
        | .private_ _ => 1
        | .shared n => n
      let listener := match r.mode with
        | .private_ h => h
        | .shared _ => 65535
      let back := match r.segment with
        | .announce i => i
        | .intro => 255
        | .loop => 255
        | .exit => 255
      (s, .accept false [f1 v, f1 (voiceStateCode (some r)), f1 r.program, f2 listeners, f2 listener, f1 (segmentCode r.segment),
        f1 r.loopIndex, f1 r.clip, f4 r.offset, f1 back])

end Sys2Proof.Machine
end

