-- ==== Sys2Proof/WellFormed.lean ====
section
/-!
DEFINITION. Which commands are well formed: what the link can carry and what the highway and the queues number. Operands at
their link widths need no check; those that are lists do.
-/

namespace Sys2Proof

/-- An order of handling names things below `n`, none twice. -/
def orderingOk (n : Nat) (order : List Nat) : Bool := order.all (· < n) && decide order.Nodup

/-- A frame body holds at most 250 bytes (R175). -/
def bodyOk (body : List Byte) : Bool := decide (body.length ≤ 250)

def Instr.wellFormed : Instr → Bool
  | .powerOn _ _ => true
  | .resetPinAssert => true
  | .resetPinRelease _ _ => true
  | .refclkStop => true
  | .refclkReturn => true
  | .highwayFrame order => orderingOk Config.voices order
  | .timeUnitBoundary => true
  | .offerExpiry _ => true
  | .wrapExpiry _ => true
  | .coolDownEnd _ => true
  | .surgeWholeSecondEvaluation order => orderingOk Config.queues order
  | .syncLoss => true
  | .characterReceived _ _ => true
  | .frameReceived _ _ _ body _ => bodyOk body
  | .gapLimit => true
  | .frameSent => true
  | .unknownKind kind body => (requiredLength kind.toNat).isNone && bodyOk body
  | .broadcastDropped kind body => !(broadcastKind kind.toNat && lengthRight kind.toNat body.length) && bodyOk body
  | .startService _ _ => true
  | .stopService _ => true
  | .clearService _ => true
  | .readEngine => true
  | .setQueue _ => true
  | .setQueueState _ _ _ => true
  | .readQueue _ => true
  | .readQueueStatistics _ _ => true
  | .readWaiting _ _ _ => true
  | .enqueue _ _ _ _ _ _ => true
  | .remove _ _ => true
  | .answer _ _ => true
  | .refuseOffer _ _ _ _ => true
  | .release _ => true
  | .divert _ => true
  | .cancelDivert _ => true
  | .readCall _ => true
  | .login _ _ _ _ _ => true
  | .logout _ => true
  | .setReady _ => true
  | .setNotReady _ _ => true
  | .setSkills _ _ => true
  | .wrapDone _ _ _ _ => true
  | .setDisposition _ _ => true
  | .extendWrap _ => true
  | .readAgent _ => true
  | .readAgentStates _ _ => true
  | .openClipLoad _ _ _ => true
  | .clipData _ _ data => decide (1 ≤ data.length ∧ data.length ≤ 240)
  | .closeClipLoad _ _ => true
  | .abortClipLoad _ => true
  | .freeClip _ => true
  | .readClip _ _ _ => true
  | .readClipEntry _ => true
  | .setProgram f => decide (f.loop.length = 8 ∧ f.bands.length = 8)
  | .deleteProgram _ => true
  | .readProgram _ => true
  | .readVoice _ => true

end Sys2Proof
end

