-- ==== Sys2Proof/Machine/Link.lean ====
section
/-!
DEFINITION. The Link Interface (09): handing an order over to its owner, its reply, the transmitter, the receive buffers and
the receiver.
-/

namespace Sys2Proof.Machine

/-! ### Replies (R183, R184) -/

/-- The reply frame of an answer, with the status byte of the state it is built in. -/
def replyFrame (s : State) (kind : Nat) : Answer → OutFrame
  | .accept adjusted fields => { frameClass := 2, kind := kind, body := f1 (statusByte s adjusted) :: fields }
  | .refuse code index detail =>
    { frameClass := 3, kind := kind, body := [f1 (statusByte s false), f1 (refusalNumber code), f1 index, f4 detail] }

/-- The end of an order's handling: its reply is built and joins the reply queue (R183, R186). -/
def conclude (kind : Nat) (r : State × Answer) : State :=
  { r.1 with replies := r.1.replies ++ [replyFrame r.1 kind r.2] }

/-- An order that may be broadcast: addressed, it is answered; broadcast, it is carried out with no reply (R182). -/
def concludeTo (dest : Dest) (kind : Nat) (r : State × Answer) : State :=
  match dest with
  | .unit => conclude kind r
  | .broadcast => r.1

/-- READ ENGINE clears the notices-lost flag after its reply is built (R171). -/
def concludeReadEngine (r : State × Answer) : State := { conclude 0x04 r with noticesLost := false }

/-- The hand-over of an order to its owner, with the engine-state check of R167 before the order's own checks. The events
are no orders. -/
def handOverOrder (c : Instr) (s : State) : State :=
  match c with
  | .startService dest silence => concludeTo dest 0x01 (handleStartService silence s)
  | .stopService dest => concludeTo dest 0x02 (handleStopService s)
  | .clearService dest => concludeTo dest 0x03 (handleClearService s)
  | .readEngine => concludeReadEngine (handleReadEngine s)
  | .setQueue f => conclude 0x10 (handleSetQueue f s)
  | .setQueueState dest q st => concludeTo dest 0x11 (handleSetQueueState q st s)
  | .readQueue q => conclude 0x12 (handleReadQueue q s)
  | .readQueueStatistics q clear => conclude 0x13 (handleReadQueueStatistics q clear s)
  | .readWaiting q first n => conclude 0x14 (handleReadWaiting q first n s)
  | .enqueue tag q options priority skills program =>
    conclude 0x20 (serviceOnly (handleEnqueue tag q options priority skills program) s)
  | .remove h cause => conclude 0x21 (serviceOnly (handleRemove h cause) s)
  | .answer h a => conclude 0x22 (serviceOnly (handleAnswer h a) s)
  | .refuseOffer h a present reason => conclude 0x23 (serviceOnly (handleRefuseOffer h a present reason) s)
  | .release h => conclude 0x24 (serviceOnly (handleRelease h) s)
  | .divert h => conclude 0x25 (serviceOnly (handleDivert h) s)
  | .cancelDivert h => conclude 0x26 (serviceOnly (handleCancelDivert h) s)
  | .readCall h => conclude 0x27 (handleReadCall h s)
  | .login a skills auto initial reason => conclude 0x30 (serviceOnly (handleLogin a skills auto initial reason) s)
  | .logout a => conclude 0x31 (serviceOnly (handleLogout a) s)
  | .setReady a => conclude 0x32 (serviceOnly (handleSetReady a) s)
  | .setNotReady a reason => conclude 0x33 (serviceOnly (handleSetNotReady a reason) s)
  | .setSkills a skills => conclude 0x34 (serviceOnly (handleSetSkills a skills) s)
  | .wrapDone a options code reason => conclude 0x35 (serviceOnly (handleWrapDone a options code reason) s)
  | .setDisposition a code => conclude 0x36 (serviceOnly (handleSetDisposition a code) s)
  | .extendWrap a => conclude 0x37 (serviceOnly (handleExtendWrap a) s)
  | .readAgent a => conclude 0x38 (handleReadAgent a s)
  | .readAgentStates first n => conclude 0x39 (handleReadAgentStates first n s)
  | .openClipLoad k page len => conclude 0x40 (handleOpenClipLoad k page len s)
  | .clipData k offset data => conclude 0x41 (handleClipData k offset data s)
  | .closeClipLoad k expected => conclude 0x42 (handleCloseClipLoad k expected s)
  | .abortClipLoad k => conclude 0x43 (handleAbortClipLoad k s)
  | .freeClip k => conclude 0x44 (handleFreeClip k s)
  | .readClip k offset n => conclude 0x45 (handleReadClip k offset n s)
  | .readClipEntry k => conclude 0x46 (handleReadClipEntry k s)
  | .setProgram f => conclude 0x50 (handleSetProgram f s)
  | .deleteProgram p => conclude 0x51 (handleDeleteProgram p s)
  | .readProgram p => conclude 0x52 (handleReadProgram p s)
  | .readVoice v => conclude 0x53 (handleReadVoice v s)
  | .unknownKind kind _ => conclude kind.toNat (s, .refuse .unknownKind 0 kind.toNat)
  | .broadcastDropped _ _ => s
  | .powerOn _ _ => s
  | .resetPinAssert => s
  | .resetPinRelease _ _ => s
  | .refclkStop => s
  | .refclkReturn => s
  | .highwayFrame _ => s
  | .timeUnitBoundary => s
  | .offerExpiry _ => s
  | .wrapExpiry _ => s
  | .coolDownEnd _ => s
  | .surgeWholeSecondEvaluation _ => s
  | .syncLoss => s
  | .characterReceived _ _ => s
  | .frameReceived _ _ _ _ _ => s
  | .gapLimit => s
  | .frameSent => s

/-- The hand-over of the head frame (R180, R181). -/
def handOver (h : HeldFrame) (s : State) : State :=
  match h with
  | .order c => handOverOrder c s
  | .badLength kind required received => conclude kind.toNat (s, .refuse .badLength 0 (required * 65536 + received))

/-! ### The transmitter (R188) and the receive buffers (R180) -/

/-- An idle transmitter takes the reply at the head, or else the notice at the head, or stays idle (R188). -/
def transmit (s : State) : State :=
  match s.sending with
  | some _ => s
  | none =>
    match s.replies with
    | r :: rs => { s with sending := some r, replies := rs }
    | [] =>
      match s.notices with
      | n :: ns => { s with sending := some n, notices := ns }
      | [] => s

/-- The transmitter and the hand-over of held frames run on: while a frame is held and the reply queue has a free place,
the head is handed over and its buffer freed (R180). Handling reads no buffer and takes no time (log 3), so the buffer is freed
as the head is handed over. `fuel` bounds the frames handed over. -/
def drain : Nat → State → State
  | 0, s => transmit s
  | fuel + 1, s =>
    let t := transmit s
    match t.held with
    | [] => t
    | h :: rest =>
      if t.replies.length < Config.replyPlaces then
        drain fuel (handOver h { t with held := rest })
      else t

/-- Everything the Link Interface does at the end of a command. -/
def settle (s : State) : State := drain s.held.length s

/-- A frame is held (R178, case 4): it joins the receive buffers, or is an overrun (R180). -/
def arrive (h : HeldFrame) (s : State) : State :=
  if s.held.length < Config.receiveBuffers then settle { s with held := s.held ++ [h] }
  else { s with overruns := s.overruns + 1 }

/-- The engine runs: REFCLK is present (R164) and RESETN is high (R173). -/
def running (s : State) : Bool := s.clockRunning && !s.resetHeld

/-- What every order command does: its frame, complete and correct, is held and handed over when its turn comes (R180).
Nothing is received while the engine does not run. -/
def takeOrder (c : Instr) (s : State) : State := if running s then arrive (.order c) s else s

/-! ### The receiver (R176, R178) -/

/-- A complete frame is judged (R178). -/
def judgeFrame (address frameClass kind : Byte) (body : List Byte) (crc : BitVec 16) (s : State) : State :=
  if crcOf (crcCovered address frameClass kind body) ≠ crc then { s with badCheck := s.badCheck + 1 }
  else if address.toNat ≠ 0 ∧ address.toNat ≠ s.unitAddress then s
  else if frameClass.toNat ≠ 1 then { s with badCheck := s.badCheck + 1 }
  else arrive (readFrame (if address.toNat = 0 then .broadcast else .unit) kind body) s

/-- The characters of a complete frame after its start byte, judged. -/
def judgeCharacters (bs : List Byte) (s : State) : State :=
  let n := (bs.getD 3 0).toNat
  judgeFrame (bs.getD 0 0) (bs.getD 1 0) (bs.getD 2 0) ((bs.drop 4).take n)
    ((bs.getD (4 + n) 0).setWidth 16 <<< 8 ||| (bs.getD (5 + n) 0).setWidth 16) s

/-- A character received (R176). -/
def receiveCharacter (data : Byte) (stopHigh : Bool) (s : State) : State :=
  match s.receiver with
  | .hunting => if stopHigh && data == 0x7E#8 then { s with receiver := .inFrame [] } else s
  | .inFrame taken =>
    if !stopHigh then { s with receiver := .hunting, badCheck := s.badCheck + 1 }
    else
      let bs := taken ++ [data]
      if bs.length = 4 ∧ data.toNat > 250 then { s with receiver := .hunting, lengthErrors := s.lengthErrors + 1 }
      else if 4 ≤ bs.length ∧ bs.length = 6 + (bs.getD 3 0).toNat then judgeCharacters bs { s with receiver := .hunting }
      else { s with receiver := .inFrame bs }

/-- Characters received one after the other with good stop bits. -/
def receiveAll (bs : List Byte) (s : State) : State := bs.foldl (fun t b => receiveCharacter b true t) s

end Sys2Proof.Machine
end

