-- ==== Sys2Proof/Machine/LinkEvents.lean ====
section
/-!
DEFINITION. The events of the control link: CHARACTER RECEIVED, FRAME RECEIVED, GAP LIMIT, FRAME SENT, UNKNOWN KIND and
BROADCAST DROPPED. An event whose condition does not hold does not happen: the state stands (log 4).
-/

namespace Sys2Proof.Machine

open Host (Outcome)

/-- CHARACTER_RECEIVED (R176). No character is taken while the engine does not run (R164, R189). -/
def execCharacterReceived (data : BitVec 8) (stopHigh : Bool) (s : State) : Outcome State Fault Refusal :=
  .next (if running s then receiveCharacter data stopHigh s else s)

/-- FRAME_RECEIVED (R178): from hunting, the frame is judged; inside a frame, its characters are taken as the receiver takes
them (R176; log 12). -/
def execFrameReceived (address frameClass kind : BitVec 8) (body : List (BitVec 8)) (crc : BitVec 16) (s : State) :
    Outcome State Fault Refusal :=
  .next (
    if running s then
      if s.receiver = .hunting ∧ body.length ≤ 250 then judgeFrame address frameClass kind body crc s
      else receiveAll (frameBytes address frameClass kind body crc) s
    else s)

/-- GAP_LIMIT (R177). -/
def execGapLimit (s : State) : Outcome State Fault Refusal :=
  .next (
    if running s then
      match s.receiver with
      | .hunting => s
      | .inFrame _ => { s with receiver := .hunting, gapErrors := s.gapErrors + 1 }
    else s)

/-- FRAME_SENT (R188): the next frame is taken, and a head frame that waited for a place is handed over (R186). -/
def execFrameSent (s : State) : Outcome State Fault Refusal :=
  .next (
    if running s then
      match s.sending with
      | none => s
      | some _ => settle { s with sending := none }
    else s)

/-- UNKNOWN_KIND (R181). A kind that is an order kind is not this command (log 4). -/
def execUnknownKind (kind : BitVec 8) (body : List (BitVec 8)) (s : State) : Outcome State Fault Refusal :=
  .next (if (requiredLength kind.toNat).isNone then takeOrder (.unknownKind kind body) s else s)

/-- BROADCAST_DROPPED (R182): dropped at hand-over, with no counter and no reply. A kind and length allowed for broadcast are
not this command (log 4). -/
def execBroadcastDropped (kind : BitVec 8) (body : List (BitVec 8)) (s : State) : Outcome State Fault Refusal :=
  .next (if broadcastKind kind.toNat && lengthRight kind.toNat body.length then s else takeOrder (.broadcastDropped kind body) s)

end Sys2Proof.Machine
end

