-- ==== Sys2Proof/Machine/Orders.lean ====
section
/-!
DEFINITION. The order commands. Each is the hand-over of that order with its fields: its frame is held and reaches its owner
when the reply queue has room (R180; log 2). What the order does stands in its handler, named after it.
-/

namespace Sys2Proof.Machine

open Host (Outcome)

/-- START SERVICE (R168). -/
def execStartService (dest : Dest) (silence : BitVec 8) (s : State) : Outcome State Fault Refusal :=
  .next (takeOrder (.startService dest silence) s)

/-- STOP SERVICE (R169). -/
def execStopService (dest : Dest) (s : State) : Outcome State Fault Refusal :=
  .next (takeOrder (.stopService dest) s)

/-- CLEAR SERVICE (R170). -/
def execClearService (dest : Dest) (s : State) : Outcome State Fault Refusal :=
  .next (takeOrder (.clearService dest) s)

/-- READ ENGINE (R171). -/
def execReadEngine (s : State) : Outcome State Fault Refusal :=
  .next (takeOrder .readEngine s)

/-- SET QUEUE (R9 to R11). -/
def execSetQueue (fields : QueueFields) (s : State) : Outcome State Fault Refusal :=
  .next (takeOrder (.setQueue fields) s)

/-- SET QUEUE STATE (R8). -/
def execSetQueueState (dest : Dest) (queue state : BitVec 8) (s : State) : Outcome State Fault Refusal :=
  .next (takeOrder (.setQueueState dest queue state) s)

/-- READ QUEUE (R13). -/
def execReadQueue (queue : BitVec 8) (s : State) : Outcome State Fault Refusal :=
  .next (takeOrder (.readQueue queue) s)

/-- READ QUEUE STATISTICS (R108). -/
def execReadQueueStatistics (queue clear : BitVec 8) (s : State) : Outcome State Fault Refusal :=
  .next (takeOrder (.readQueueStatistics queue clear) s)

/-- READ WAITING (R26). -/
def execReadWaiting (queue : BitVec 8) (firstRank : BitVec 16) (count : BitVec 8) (s : State) : Outcome State Fault Refusal :=
  .next (takeOrder (.readWaiting queue firstRank count) s)

/-- ENQUEUE (R18 to R22). -/
def execEnqueue (tag : BitVec 32) (queue options priority : BitVec 8) (extraSkills : BitVec 32) (program : BitVec 8) (s : State) : Outcome State Fault Refusal :=
  .next (takeOrder (.enqueue tag queue options priority extraSkills program) s)

/-- REMOVE (R23, R24). -/
def execRemove (handle : BitVec 16) (cause : BitVec 8) (s : State) : Outcome State Fault Refusal :=
  .next (takeOrder (.remove handle cause) s)

/-- ANSWER (R64, R65). -/
def execAnswer (handle agent : BitVec 16) (s : State) : Outcome State Fault Refusal :=
  .next (takeOrder (.answer handle agent) s)

/-- REFUSE OFFER (R66, R67). -/
def execRefuseOffer (handle agent : BitVec 16) (reasonPresent reason : BitVec 8) (s : State) : Outcome State Fault Refusal :=
  .next (takeOrder (.refuseOffer handle agent reasonPresent reason) s)

/-- RELEASE (R79 to R82). -/
def execRelease (handle : BitVec 16) (s : State) : Outcome State Fault Refusal :=
  .next (takeOrder (.release handle) s)

/-- DIVERT (R153). -/
def execDivert (handle : BitVec 16) (s : State) : Outcome State Fault Refusal :=
  .next (takeOrder (.divert handle) s)

/-- CANCEL DIVERT (R155). -/
def execCancelDivert (handle : BitVec 16) (s : State) : Outcome State Fault Refusal :=
  .next (takeOrder (.cancelDivert handle) s)

/-- READ CALL (R25). -/
def execReadCall (handle : BitVec 16) (s : State) : Outcome State Fault Refusal :=
  .next (takeOrder (.readCall handle) s)

/-- LOGIN (R33). -/
def execLogin (agent : BitVec 16) (skills : BitVec 32) (autoReady initialState reason : BitVec 8) (s : State) : Outcome State Fault Refusal :=
  .next (takeOrder (.login agent skills autoReady initialState reason) s)

/-- LOGOUT (R34, R35). -/
def execLogout (agent : BitVec 16) (s : State) : Outcome State Fault Refusal :=
  .next (takeOrder (.logout agent) s)

/-- SET READY (R36). -/
def execSetReady (agent : BitVec 16) (s : State) : Outcome State Fault Refusal :=
  .next (takeOrder (.setReady agent) s)

/-- SET NOT READY (R37). -/
def execSetNotReady (agent : BitVec 16) (reason : BitVec 8) (s : State) : Outcome State Fault Refusal :=
  .next (takeOrder (.setNotReady agent reason) s)

/-- SET SKILLS (R39). -/
def execSetSkills (agent : BitVec 16) (skills : BitVec 32) (s : State) : Outcome State Fault Refusal :=
  .next (takeOrder (.setSkills agent skills) s)

/-- WRAP DONE (R90, R91). -/
def execWrapDone (agent : BitVec 16) (options : BitVec 8) (code : BitVec 16) (reason : BitVec 8) (s : State) : Outcome State Fault Refusal :=
  .next (takeOrder (.wrapDone agent options code reason) s)

/-- SET DISPOSITION (R89). -/
def execSetDisposition (agent code : BitVec 16) (s : State) : Outcome State Fault Refusal :=
  .next (takeOrder (.setDisposition agent code) s)

/-- EXTEND WRAP (R87, R88). -/
def execExtendWrap (agent : BitVec 16) (s : State) : Outcome State Fault Refusal :=
  .next (takeOrder (.extendWrap agent) s)

/-- READ AGENT (R48). -/
def execReadAgent (agent : BitVec 16) (s : State) : Outcome State Fault Refusal :=
  .next (takeOrder (.readAgent agent) s)

/-- READ AGENT STATES (R49). -/
def execReadAgentStates (firstAgent : BitVec 16) (count : BitVec 8) (s : State) : Outcome State Fault Refusal :=
  .next (takeOrder (.readAgentStates firstAgent count) s)

/-- OPEN CLIP LOAD (R122, R123). -/
def execOpenClipLoad (clip : BitVec 8) (startPage : BitVec 16) (length : BitVec 32) (s : State) : Outcome State Fault Refusal :=
  .next (takeOrder (.openClipLoad clip startPage length) s)

/-- CLIP DATA (R124, R125). -/
def execClipData (clip : BitVec 8) (offset : BitVec 32) (data : List (BitVec 8)) (s : State) : Outcome State Fault Refusal :=
  .next (takeOrder (.clipData clip offset data) s)

/-- CLOSE CLIP LOAD (R126). -/
def execCloseClipLoad (clip expectedXor : BitVec 8) (s : State) : Outcome State Fault Refusal :=
  .next (takeOrder (.closeClipLoad clip expectedXor) s)

/-- ABORT CLIP LOAD (R127). -/
def execAbortClipLoad (clip : BitVec 8) (s : State) : Outcome State Fault Refusal :=
  .next (takeOrder (.abortClipLoad clip) s)

/-- FREE CLIP (R128). -/
def execFreeClip (clip : BitVec 8) (s : State) : Outcome State Fault Refusal :=
  .next (takeOrder (.freeClip clip) s)

/-- READ CLIP (R129). -/
def execReadClip (clip : BitVec 8) (offset : BitVec 32) (count : BitVec 8) (s : State) : Outcome State Fault Refusal :=
  .next (takeOrder (.readClip clip offset count) s)

/-- READ CLIP ENTRY (R130). -/
def execReadClipEntry (clip : BitVec 8) (s : State) : Outcome State Fault Refusal :=
  .next (takeOrder (.readClipEntry clip) s)

/-- SET PROGRAM (R135, R136). -/
def execSetProgram (fields : ProgramFields) (s : State) : Outcome State Fault Refusal :=
  .next (takeOrder (.setProgram fields) s)

/-- DELETE PROGRAM (R137). -/
def execDeleteProgram (program : BitVec 8) (s : State) : Outcome State Fault Refusal :=
  .next (takeOrder (.deleteProgram program) s)

/-- READ PROGRAM (R138). -/
def execReadProgram (program : BitVec 8) (s : State) : Outcome State Fault Refusal :=
  .next (takeOrder (.readProgram program) s)

/-- READ VOICE (R158). -/
def execReadVoice (voice : BitVec 8) (s : State) : Outcome State Fault Refusal :=
  .next (takeOrder (.readVoice voice) s)

end Sys2Proof.Machine
end

