-- ==== Sys2Proof/Machine/PinEvents.lean ====
section
/-!
DEFINITION. Power, the reset pin and the reference clock (08, R164, R172, R173; 09, R174, R189).
-/

namespace Sys2Proof.Machine

open Host (Outcome)

/-- The unit address of an address strap value (R174). -/
def strapAddress (straps : BitVec 4) : Nat := straps.toNat + 1

/-- POWER_ON (R172): every block takes its power-on values, the straps are sampled, and the sample memory holds undefined
values that nothing ties to the former ones (R117). -/
def execPowerOn (addressStraps : BitVec 4) (rateStraps : BitVec 2) (s : State) : Outcome State Fault Refusal :=
  .next { State.reset with
    pending := s.pending, unitAddress := strapAddress addressStraps, rateStraps := rateStraps, powerOns := s.powerOns + 1,
    freeDraws := s.freeDraws, frameEnds := s.frameEnds }

/-- The clip table after the reset pin (R132): LOADING clips become FREE, and the use counts are the program references. -/
def clipsAfterReset (s : State) : Table Clip :=
  (s.clips.filter fun e => !isLoading e.2).map fun e => (e.1, { e.2 with useCount := programRefs s e.1 })

/-- The engine held at its reset values (R173, R189): the sample memory, the clip table and the program table are kept, and
the straps stand as last sampled. -/
def heldInReset (s : State) : State :=
  { State.reset with
    pending := s.pending, clockRunning := s.clockRunning, resetHeld := true, unitAddress := s.unitAddress,
    rateStraps := s.rateStraps, powerOns := s.powerOns, freeDraws := s.freeDraws, frameEnds := s.frameEnds, samples := s.samples,
    clips := clipsAfterReset s, programs := s.programs }

/-- RESET_PIN_ASSERT (R189): RESETN falls. -/
def execResetPinAssert (s : State) : Outcome State Fault Refusal := .next (if s.resetHeld then s else heldInReset s)

/-- RESET_PIN_RELEASE (R173): RESETN rises, and the straps are sampled again (R174). -/
def execResetPinRelease (addressStraps : BitVec 4) (rateStraps : BitVec 2) (s : State) : Outcome State Fault Refusal :=
  .next (
    if s.resetHeld then
      { s with resetHeld := false, unitAddress := strapAddress addressStraps, rateStraps := rateStraps }
    else s)

/-- REFCLK_STOP (R164): every block stands, and HWDO is left undriven. -/
def execRefclkStop (s : State) : Outcome State Fault Refusal := .next { s with clockRunning := false, highway := .undriven }

/-- REFCLK_RETURN (R164): each block resumes from where it stood. -/
def execRefclkReturn (s : State) : Outcome State Fault Refusal := .next { s with clockRunning := true }

end Sys2Proof.Machine
end

