-- ==== Sys2Proof/Machine/TimeEvents.lean ====
section
/-!
DEFINITION. The Time Base (08) and the work its boundaries signal: HIGHWAY FRAME, TIME UNIT BOUNDARY, SYNC LOSS, OFFER EXPIRY,
WRAP EXPIRY, COOL DOWN END and the whole-second surge evaluation. An event whose condition does not hold does not happen: the
state stands (log 4).
-/

namespace Sys2Proof.Machine

open Host (Outcome)

/-- The SYNC CHANGED notice (R166). -/
def syncNotice (restored : Bool) (s : State) : State := notify 0x88 [f1 (bit restored), f2 s.framePhase] s

/-- A pulse restores sync that is LOST (R166). -/
def restoreSync (s : State) : State := if s.syncPresent then s else syncNotice true { s with syncPresent := true }

/-- The offer of this call is due: OFFERED with a deadline that engine time has reached (R68). -/
def offerDue (now : Time) (c : Call) : Bool :=
  match c.status with
  | .offered _ (some d) => reached now d
  | .offered _ none => false
  | .waiting => false
  | .diverting _ => false
  | .connected _ => false

/-- The wrap of this agent is due (R83). -/
def wrapDue (now : Time) (a : Agent) : Bool := ((wrapOf a).map fun w => reached now w.deadline).getD false

/-- The cool-down of this agent is over (R44). -/
def coolDownDue (now : Time) (a : Agent) : Bool := ((coolDownOf a).map (reached now)).getD false

/-- The whole-second evaluation falls at this engine time (R109). -/
def wholeSecond (now : Time) : Bool := now.toNat % 10 == 0

/-- The count of a time-unit boundary (R161): the phase is 0, engine time is one more, and the owners are signalled (R162). An
evaluation still owed stays owed. -/
def countBoundary (s : State) : State :=
  let now := s.now + 1
  { s with
    framePhase := 0
    now := now
    due := {
      offers := ((s.calls.filter fun e => offerDue now e.2).map fun e => handleOf s e.1)
      wraps := ((s.agents.filter fun e => wrapDue now e.2).map (·.1))
      coolDowns := ((s.agents.filter fun e => coolDownDue now e.2).map (·.1))
      surge := wholeSecond now || s.due.surge } }

/-- The count a boundary pulse still owes (log 5). -/
def oweCount (s : State) : State := if s.pulse = .played then countBoundary { s with pulse := .whole } else s

/-- The frame event a boundary pulse still owes (log 5). -/
def oweFrame (s : State) : State := if s.pulse = .counted then playFrame [] { s with pulse := .whole } else s

/-- The count of a pulse whose frame event has been taken: the phase rises, or at 799 the boundary is left to
TIME_UNIT_BOUNDARY (R161; log 5). -/
def countPulse (s : State) : State :=
  match s.pulse with
  | .counted => { s with pulse := .whole }
  | .whole | .played =>
    if s.framePhase + 1 < Config.framesPerTu then { s with framePhase := s.framePhase + 1 } else { s with pulse := .played }

/-- HIGHWAY_FRAME (R146, R161, R166). -/
def execHighwayFrame (order : List Nat) (s : State) : Outcome State Fault Refusal :=
  .next (if running s then settle (countPulse (playFrame order (restoreSync (oweCount s)))) else s)

/-- TIME_UNIT_BOUNDARY (R161): the count of the pulse at phase 799, after its frame event or before it (log 5). -/
def execTimeUnitBoundary (s : State) : Outcome State Fault Refusal :=
  .next (
    if running s then
      match s.pulse with
      | .played => countBoundary { s with pulse := .whole }
      | .whole =>
        if s.framePhase + 1 < Config.framesPerTu then s
        else settle { countBoundary (restoreSync s) with pulse := .counted }
      | .counted => s
    else s)

/-- SYNC_LOSS (R164, R165): no further loss is declared while sync is LOST. -/
def execSyncLoss (s : State) : Outcome State Fault Refusal :=
  .next (
    if running s && s.syncPresent then
      settle (syncNotice false { oweFrame (oweCount s) with syncPresent := false, highway := .undriven })
    else s)

/-- The agent side of an expiry (R47, R68 step 5): one miss more, then parked or returned. -/
def missOffer (h a : Nat) (c : Call) (v : Agent) (s : State) : State :=
  let q := (queueOf s c.queue).settings
  let v' := { v with misses := min 15 (v.misses + 1) }
  if q.missLimit ≤ v'.misses ∨ q.missAction = .park then
    notify 0x83 [f2 a, f2 h, f4 c.tag.toNat, f1 c.queue, f1 v'.misses] (setAgentRec s a { v' with status := .notReady 240 })
  else enterReady s a v' (coolDownEndFor s c.queue)

/-- The outcome an OFFER EXPIRED notice reports (R69): 0 READY, 1 READY in cool-down, 2 parked. -/
def missOutcome (s : State) (a : Nat) : Nat :=
  match agentOf s a with
  | none => 2
  | some v => if available v then 0 else if (coolDownOf v).isSome then 1 else 2

/-- The OFFER EXPIRED notice (R69). -/
def expiredNotice (h a : Nat) (c : Call) (s : State) : State :=
  notify 0x81 [f2 h, f4 c.tag.toNat, f2 a, f1 c.queue, f1 (missOutcome s a), f1 (((agentOf s a).map (·.misses)).getD 0),
    f1 c.offerCount] s

/-- The expiry of the offer of call `h` to agent `a` (R68). -/
def expireOffer (h a : Nat) (c : Call) (s : State) : State :=
  let s1 := count (returnCall h a c s) c.queue fun k => { k with missedOffers := sat16 (k.missedOffers + 1) }
  let s2 := match agentOf s1 a with
    | some v => missOffer h a c v s1
    | none => s1
  offerAgent a (matchCall h (expiredNotice h a c s2))

/-- The work of a boundary is done while the engine runs and sync is PRESENT: while sync is LOST no offer expires, no wrap or
cool-down ends and no evaluation is made (R165). What the last boundary signalled waits for the return (log 6). -/
def inSync (s : State) : Bool := running s && s.syncPresent

/-- OFFER_EXPIRY (R68) of an offer the last boundary found due, if it still is. -/
def execOfferExpiry (handle : BitVec 16) (s : State) : Outcome State Fault Refusal :=
  let h := handle.toNat
  .next (
    match callOf s h with
    | none => s
    | some c =>
      match c.status with
      | .offered a _ =>
        if inSync s && s.due.offers.contains h && offerDue s.now c then
          settle (expireOffer h a c { s with due := { s.due with offers := s.due.offers.erase h } })
        else s
      | .waiting => s
      | .diverting _ => s
      | .connected _ => s)

/-- WRAP_EXPIRY (R83, R85) of a wrap the last boundary found due, if it still is. -/
def execWrapExpiry (agent : BitVec 16) (s : State) : Outcome State Fault Refusal :=
  let a := agent.toNat
  .next (
    match agentOf s a with
    | none => s
    | some v =>
      match v.status with
      | .wrap w p =>
        if inSync s && s.due.wraps.contains a && wrapDue s.now v then
          settle (expireWrap a v w p { s with due := { s.due with wraps := s.due.wraps.erase a } })
        else s
      | .notReady _ => s
      | .ready _ _ => s
      | .offered _ _ => s
      | .talking _ _ => s)

/-- COOL_DOWN_END (R44) of a cool-down the last boundary found over, if it still is: the end is removed and the agent is
newly available. -/
def execCoolDownEnd (agent : BitVec 16) (s : State) : Outcome State Fault Refusal :=
  let a := agent.toNat
  .next (
    match agentOf s a with
    | none => s
    | some v =>
      match v.status with
      | .ready n _ =>
        if inSync s && s.due.coolDowns.contains a && coolDownDue s.now v then
          settle (matchAgent a (setAgentRec { s with due := { s.due with coolDowns := s.due.coolDowns.erase a } } a
            { v with status := .ready n none }))
        else s
      | .notReady _ => s
      | .offered _ _ => s
      | .talking _ _ => s
      | .wrap _ _ => s)

/-- SURGE_WHOLE_SECOND_EVALUATION (R109): every queue is evaluated once, in the given order. -/
def execSurgeWholeSecondEvaluation (order : List Nat) (s : State) : Outcome State Fault Refusal :=
  .next (
    if inSync s && s.due.surge then
      settle ((inOrder (List.range Config.queues) order).foldl (fun t q => evalSurge q t)
        { s with due := { s.due with surge := false } })
    else s)

end Sys2Proof.Machine
end

