-- ==== Sys2Proof/Machine/Dispatch.lean ====
section
/-!
DEFINITION. One arm per command.
-/

namespace Sys2Proof.Machine

def exec (i : Instr) (s : State) : Host.Outcome State Fault Refusal :=
  match i with
  | .powerOn addressStraps rateStraps => Sys2Proof.Machine.execPowerOn addressStraps rateStraps s
  | .resetPinAssert => Sys2Proof.Machine.execResetPinAssert s
  | .resetPinRelease addressStraps rateStraps => Sys2Proof.Machine.execResetPinRelease addressStraps rateStraps s
  | .refclkStop => Sys2Proof.Machine.execRefclkStop s
  | .refclkReturn => Sys2Proof.Machine.execRefclkReturn s
  | .highwayFrame order => Sys2Proof.Machine.execHighwayFrame order s
  | .timeUnitBoundary => Sys2Proof.Machine.execTimeUnitBoundary s
  | .offerExpiry handle => Sys2Proof.Machine.execOfferExpiry handle s
  | .wrapExpiry agent => Sys2Proof.Machine.execWrapExpiry agent s
  | .coolDownEnd agent => Sys2Proof.Machine.execCoolDownEnd agent s
  | .surgeWholeSecondEvaluation order => Sys2Proof.Machine.execSurgeWholeSecondEvaluation order s
  | .syncLoss => Sys2Proof.Machine.execSyncLoss s
  | .characterReceived data stopHigh => Sys2Proof.Machine.execCharacterReceived data stopHigh s
  | .frameReceived address frameClass kind body crc => Sys2Proof.Machine.execFrameReceived address frameClass kind body crc s
  | .gapLimit => Sys2Proof.Machine.execGapLimit s
  | .frameSent => Sys2Proof.Machine.execFrameSent s
  | .unknownKind kind body => Sys2Proof.Machine.execUnknownKind kind body s
  | .broadcastDropped kind body => Sys2Proof.Machine.execBroadcastDropped kind body s
  | .startService dest silence => Sys2Proof.Machine.execStartService dest silence s
  | .stopService dest => Sys2Proof.Machine.execStopService dest s
  | .clearService dest => Sys2Proof.Machine.execClearService dest s
  | .readEngine => Sys2Proof.Machine.execReadEngine s
  | .setQueue fields => Sys2Proof.Machine.execSetQueue fields s
  | .setQueueState dest queue state => Sys2Proof.Machine.execSetQueueState dest queue state s
  | .readQueue queue => Sys2Proof.Machine.execReadQueue queue s
  | .readQueueStatistics queue clear => Sys2Proof.Machine.execReadQueueStatistics queue clear s
  | .readWaiting queue firstRank count => Sys2Proof.Machine.execReadWaiting queue firstRank count s
  | .enqueue tag queue options priority extraSkills program => Sys2Proof.Machine.execEnqueue tag queue options priority extraSkills program s
  | .remove handle cause => Sys2Proof.Machine.execRemove handle cause s
  | .answer handle agent => Sys2Proof.Machine.execAnswer handle agent s
  | .refuseOffer handle agent reasonPresent reason => Sys2Proof.Machine.execRefuseOffer handle agent reasonPresent reason s
  | .release handle => Sys2Proof.Machine.execRelease handle s
  | .divert handle => Sys2Proof.Machine.execDivert handle s
  | .cancelDivert handle => Sys2Proof.Machine.execCancelDivert handle s
  | .readCall handle => Sys2Proof.Machine.execReadCall handle s
  | .login agent skills autoReady initialState reason => Sys2Proof.Machine.execLogin agent skills autoReady initialState reason s
  | .logout agent => Sys2Proof.Machine.execLogout agent s
  | .setReady agent => Sys2Proof.Machine.execSetReady agent s
  | .setNotReady agent reason => Sys2Proof.Machine.execSetNotReady agent reason s
  | .setSkills agent skills => Sys2Proof.Machine.execSetSkills agent skills s
  | .wrapDone agent options code reason => Sys2Proof.Machine.execWrapDone agent options code reason s
  | .setDisposition agent code => Sys2Proof.Machine.execSetDisposition agent code s
  | .extendWrap agent => Sys2Proof.Machine.execExtendWrap agent s
  | .readAgent agent => Sys2Proof.Machine.execReadAgent agent s
  | .readAgentStates firstAgent count => Sys2Proof.Machine.execReadAgentStates firstAgent count s
  | .openClipLoad clip startPage length => Sys2Proof.Machine.execOpenClipLoad clip startPage length s
  | .clipData clip offset data => Sys2Proof.Machine.execClipData clip offset data s
  | .closeClipLoad clip expectedXor => Sys2Proof.Machine.execCloseClipLoad clip expectedXor s
  | .abortClipLoad clip => Sys2Proof.Machine.execAbortClipLoad clip s
  | .freeClip clip => Sys2Proof.Machine.execFreeClip clip s
  | .readClip clip offset count => Sys2Proof.Machine.execReadClip clip offset count s
  | .readClipEntry clip => Sys2Proof.Machine.execReadClipEntry clip s
  | .setProgram fields => Sys2Proof.Machine.execSetProgram fields s
  | .deleteProgram program => Sys2Proof.Machine.execDeleteProgram program s
  | .readProgram program => Sys2Proof.Machine.execReadProgram program s
  | .readVoice voice => Sys2Proof.Machine.execReadVoice voice s

end Sys2Proof.Machine
end

