-- ==== Sys2Proof/Safety.lean ====
section
/-!
DEFINITION. What statements about the engine speak of: the link taking an order at once, the end of an order's handling, the
kinds of command, the parts of State an event leaves alone, and the invariants.
-/

namespace Sys2Proof.Machine

/-! ### The link -/

/-- The transmitter is not idle over a waiting frame (R188), and a frame is held only while the reply queue is full (R180). -/
def settled (s : State) : Bool :=
  (s.sending.isSome || (s.replies.isEmpty && s.notices.isEmpty)) &&
    (s.held.isEmpty || decide (4 ≤ s.replies.length))

/-- An order that arrives now is handed over at once: the engine runs, no frame is held, the reply queue has a free place
(R180), and the transmitter is not idle over a waiting frame. -/
def takes (s : State) : Bool :=
  running s && s.held.isEmpty && decide (s.replies.length < 4) &&
    (s.sending.isSome || (s.replies.isEmpty && s.notices.isEmpty))

/-- The end of an addressed order that left the state `t`: its reply is built, joins the reply queue, and is taken at once
by an idle transmitter (R183, R186, R188). -/
def answered (kind : Nat) (t : State) (a : Answer) : State := transmit (conclude kind (t, a))

/-- The end of an order that may be broadcast: addressed, it is answered; broadcast, it is not (R182). -/
def ended (dest : Dest) (kind : Nat) (t : State) (a : Answer) : State :=
  match dest with
  | .unit => answered kind t a
  | .broadcast => transmit t

/-- The bytes of a list of fields. -/
def sizeOfFields (fs : List LinkField) : Nat := (fs.map (·.size)).sum

/-! ### Kinds of command -/

/-- The commands of the pins, the supply and the reference clock. -/
def pinCommand : Instr → Bool
  | .powerOn _ _ => true
  | .resetPinAssert => true
  | .resetPinRelease _ _ => true
  | .refclkStop => true
  | .refclkReturn => true
  | _ => false

/-- The commands that a link frame spells. -/
def isOrder (c : Instr) : Bool := (orderFrame c).isSome

/-- The call and agent orders, which only SERVICE takes (R167), with their kinds. -/
def serviceKind : Instr → Option Nat
  | .enqueue _ _ _ _ _ _ => some 0x20
  | .remove _ _ => some 0x21
  | .answer _ _ => some 0x22
  | .refuseOffer _ _ _ _ => some 0x23
  | .release _ => some 0x24
  | .divert _ => some 0x25
  | .cancelDivert _ => some 0x26
  | .login _ _ _ _ _ => some 0x30
  | .logout _ => some 0x31
  | .setReady _ => some 0x32
  | .setNotReady _ _ => some 0x33
  | .setSkills _ _ => some 0x34
  | .wrapDone _ _ _ _ => some 0x35
  | .setDisposition _ _ => some 0x36
  | .extendWrap _ => some 0x37
  | _ => none

/-- The call orders that name a call by its handle, with their kinds (R2). -/
def handleKind : Instr → Option (BitVec 16 × Nat)
  | .remove h _ => some (h, 0x21)
  | .answer h _ => some (h, 0x22)
  | .refuseOffer h _ _ _ => some (h, 0x23)
  | .release h => some (h, 0x24)
  | .divert h => some (h, 0x25)
  | .cancelDivert h => some (h, 0x26)
  | .readCall h => some (h, 0x27)
  | _ => none

/-! ### What an event leaves alone

Each of these blanks the fields an event may change, so that equality of two blanked states says that every other field is
the same. -/

/-- Whether a frame is being sent, with what it says taken away. -/
def sendingBlanked (s : State) : Option OutFrame := s.sending.map fun _ => { frameClass := 0, kind := 0, body := [] }

/-- Everything but the calls, the queues, the agents, the ready list, the notices, what the frame being sent says (R187), and the
boundary's due work. -/
def outsideMatching (s : State) : State :=
  { s with
    calls := [], queues := [], agents := [], readyList := [], readies := 0, notices := [], noticesLost := false,
    sending := sendingBlanked s, frameEnds := 0, due := noWork }

/-- Everything that `outsideMatching` keeps, but the voices, the clips' use counts and the call slots' generations. -/
def outsideTraffic (s : State) : State :=
  { outsideMatching s with voices := [], clips := [], generations := [], arrivals := 0, freeDraws := 0 }

/-- Everything but the audio side: calls (for their voices), voices, clips (for their use counts), notices and what the frame being sent
says (R187). -/
def outsideAudio (s : State) : State :=
  { s with calls := [], voices := [], clips := [], notices := [], noticesLost := false, sending := sendingBlanked s, frameEnds := 0 }

/-- A call record without what the Playout Unit writes: the voice, the awaiting-voice flag, the announcement due and the
divert-done flag (R1). -/
def withoutAudio (c : Call) : Call :=
  { c with
    voice := none
    awaitingVoice := false
    announceDue := none
    status := match c.status with
      | .diverting _ => .diverting false
      | .waiting => .waiting
      | .offered a d => .offered a d
      | .connected t => .connected t }

/-- A clip entry without its use count. -/
def withoutUse (c : Clip) : Clip := { c with useCount := 0 }

/-- An agent record without the deadline of its wrap, which a surge entry may trim (R93). -/
def withoutDeadline (a : Agent) : Agent :=
  match a.status with
  | .wrap w p => { a with status := .wrap { w with deadline := 0 } p }
  | .notReady _ => a
  | .ready _ _ => a
  | .offered _ _ => a
  | .talking _ _ => a

/-! ### The tables' form -/

/-- Every table lists its indices in rising order, and no queue is listed that stands as at reset. -/
def Canonical (s : State) : Prop :=
  tableRising s.calls = true ∧ tableRising s.generations = true ∧ tableRising s.queues = true ∧ tableRising s.agents = true ∧
    tableRising s.samples = true ∧ tableRising s.clips = true ∧ tableRising s.programs = true ∧ tableRising s.voices = true ∧
    (∀ e ∈ s.queues, e.2 ≠ queueAtReset) ∧ (∀ e ∈ s.generations, e.2 ≠ 0)

/-! ### What moves -/

/-- Clip `j` after a voice has given up the clip `gone` and taken the clip `come` (R121): one use fewer, one more. -/
def movedUse (gone come : Option Nat) (j : Nat) (c : Clip) : Clip :=
  { c with useCount := c.useCount - (if gone = some j then 1 else 0) + (if come = some j then 1 else 0) }

/-- The arrival sequence of the call a handle names. -/
def seqOf (s : State) (h : Nat) : Nat := ((callOf s h).map (·.arrivalSeq)).getD 0

/-- The waiting list of the queue of call `c` takes its handle `h` at the place the arrival sequence gives it: behind the calls
that arrived before it, ahead of those that arrived after it, which stand as they stood (R14). -/
def rejoins (s u : State) (h : Nat) (c : Call) : Prop :=
  ∃ before after, (queueOf s c.queue).waiting = before ++ after ∧ (queueOf u c.queue).waiting = before ++ h :: after ∧
    (∀ g ∈ before, seqOf s g ≤ c.arrivalSeq) ∧ ∀ g, after.head? = some g → c.arrivalSeq < seqOf s g

/-- What one evaluation of queue `q` by the surge monitor does between `s` and `u`, over the waiting list that `u` holds (R109 to R114).
The flag is set when it was clear and an enabled threshold is met, and cleared when it was set and every enabled measure is at most
three quarters of its threshold. A queue that enters surge with trim set moves the later deadlines of its wraps to now plus the surge
wrap allowance (R93), and those wraps are no longer due at this boundary (R83). Each change, and nothing else, is notified. -/
def SurgeEvaluated (s u : State) (q : Nat) : Prop :=
  let x := (queueOf s q).settings
  let len := (queueOf u q).waiting.length
  let oldest := (((queueOf u q).waiting.head?.bind fun h => callOf u h).map fun c => (s.now - c.arrivalTime).toNat).getD 0
  let byCount := decide (x.surgeCount ≠ 0 ∧ x.surgeCount ≤ len)
  let byWait := decide (x.surgeWait ≠ 0 ∧ x.surgeWait ≤ oldest)
  let enters := !(queueOf s q).surge && (byCount || byWait)
  let leaves := (queueOf s q).surge && decide ((x.surgeCount = 0 ∨ len ≤ 3 * x.surgeCount / 4) ∧
    (x.surgeWait = 0 ∨ oldest ≤ 3 * x.surgeWait / 4))
  let limit : Time := s.now + BitVec.ofNat 32 x.surgeWrapAllowance
  let cut (w : WrapRecord) := enters && x.surgeTrim &&
    decide (w.queue = q ∧ w.deadline ≠ limit ∧ (w.deadline - limit).msb = false)
  (queueOf u q).surge = (if (queueOf s q).surge then !leaves else enters) ∧
    (∀ a v w p, agentOf s a = some v → v.status = .wrap w p →
      agentOf u a = some (if cut w then { v with status := .wrap { w with deadline := limit } p } else v)) ∧
    (Canonical s →
      (∀ a, a ∈ u.due.wraps ↔ a ∈ s.due.wraps ∧ ∀ v w p, agentOf s a = some v → v.status = .wrap w p → cut w = false) ∧
      (s.notices.length < 250 → u.notices.filter (fun f => f.kind == 0x85) = s.notices.filter (fun f => f.kind == 0x85) ++
        if enters || leaves then
        [{ frameClass := 4, kind := 0x85, body :=
          [f4 s.now.toNat, f1 q, f1 (if enters then 1 else 0),
            f1 (if enters then (if byCount then 1 else 0) + (if byWait then 2 else 0) else 0), f2 len, f4 oldest,
            f2 (s.agents.countP fun e => ((wrapOf e.2).map cut).getD false)] }]
        else []))

/-- Between `s` and `u` the call that `h` names, with the record `c`, is taken off its voice (R145): a PRIVATE voice, or a SHARED one
with this one listener, becomes FREE; a SHARED one that keeps listeners loses one from their count; with no voice nothing moves. Other
calls move only as the voice that becomes FREE moves them. -/
def TakenOffVoice (s u : State) (h : Nat) (c : Call) : Prop :=
  (c.voice = none → u.voices = s.voices ∧ u.clips = s.clips ∧ ∀ k, slotOf k ≠ slotOf h → callOf u k = callOf s k) ∧
    ∀ v r, c.voice = some v → voiceOf s v = some r →
      (∀ n, r.mode = .shared n → 1 < n →
        voiceOf u v = some { r with mode := .shared (n - 1) } ∧ (∀ w, w ≠ v → voiceOf u w = voiceOf s w) ∧ u.clips = s.clips ∧
          ∀ k, slotOf k ≠ slotOf h → callOf u k = callOf s k) ∧
      (r.mode = .shared 1 ∨ (∃ k, r.mode = .private_ k) →
        let freed := freeVoice v (setCallRec s h { c with voice := none, announceDue := none })
        u.voices = freed.voices ∧ u.clips = freed.clips ∧ (∀ k, slotOf k ≠ slotOf h → callOf u k = callOf freed k) ∧
          (s.notices.length < 250 →
            u.notices.filter (fun f => f.kind == 0x86) = freed.notices.filter (fun f => f.kind == 0x86)))

/-- A queue record without its waiting list, its surge flag and its counters: what a call's coming and going leaves as it stands. -/
def withoutTraffic (r : Queue) : Queue := { r with waiting := [], surge := false, counters := zeroCounters }

/-- The due work of a boundary but for the wraps, which a surge entry takes out (R83). -/
def withoutWraps (d : DueWork) : DueWork := { d with wraps := [] }

/-! ### Invariants -/

/-- The link's bounds (R174, R180, R186, R187), and a transmitter that is never idle over a waiting frame (R188). -/
def LinkBounded (s : State) : Prop :=
  s.replies.length ≤ 4 ∧ s.notices.length ≤ 256 ∧ s.held.length ≤ 2 ∧ 1 ≤ s.unitAddress ∧ s.unitAddress ≤ 16 ∧
    settled s = true

/-- The sample memory is in its canonical form: addresses strictly rising. -/
def Memory.wf (m : Table Byte) : Bool := tableRising m

/-- The queues that records name are the 64 queues (R1, R10, R78). -/
def QueuesNamed (s : State) : Prop :=
  (∀ e ∈ s.queues, e.1 < 64 ∧ ∀ t, e.2.settings.overflowTarget = some t → t < 64) ∧
    (∀ e ∈ s.calls, e.2.queue < 64) ∧ (∀ e ∈ s.agents, ∀ w, wrapOf e.2 = some w → w.queue < 64)

/-- Every record stands at a number the part has (00_scope.md, section 3), and names queues it has. -/
def InRange (s : State) : Prop :=
  (∀ e ∈ s.calls, e.1 < 2048) ∧ (∀ e ∈ s.generations, e.1 < 2048 ∧ e.2 < 32) ∧ (∀ e ∈ s.agents, e.1 < 512) ∧
    (∀ e ∈ s.clips, e.1 < 256) ∧ (∀ e ∈ s.programs, e.1 < 32) ∧ (∀ e ∈ s.voices, e.1 < 128) ∧ QueuesNamed s

/-- The average handle time and what it is reseeded from lie in their ranges (R10, R99). -/
def AverageInRange (s : State) : Prop :=
  ∀ e ∈ s.queues, e.2.aht16 ≤ 1048560 ∧ 1 ≤ e.2.settings.ahtSeed ∧ e.2.settings.ahtSeed ≤ 65535

/-- The exclusion list of every call in use holds at most four agents, none twice, and an OFFERED call is offered to none of
them (R73). -/
def ExclusionsOk (s : State) : Prop :=
  ∀ e ∈ s.calls, e.2.exclusion.length ≤ 4 ∧ e.2.exclusion.Nodup ∧
    ∀ a d, e.2.status = .offered a d → a ∉ e.2.exclusion

/-- The pairing of calls and agents (R52): the two sides of every offer and of every connection name each other, and no two agents
talk with one call. -/
def Paired (s : State) : Prop :=
  (∀ e ∈ s.calls, ∀ a d, e.2.status = .offered a d →
    ∃ v n, agentOf s a = some v ∧ v.status = .offered (handleOf s e.1) n) ∧
  (∀ e ∈ s.agents, ∀ h n, e.2.status = .offered h n → ∃ c d, callOf s h = some c ∧ c.status = .offered e.1 d) ∧
  (∀ e ∈ s.calls, ∀ t, e.2.status = .connected t →
    ∃ a v p, agentOf s a = some v ∧ v.status = .talking (handleOf s e.1) p) ∧
  (∀ e ∈ s.agents, ∀ h p, e.2.status = .talking h p → ∃ c t, callOf s h = some c ∧ c.status = .connected t) ∧
  (∀ e ∈ s.agents, ∀ f ∈ s.agents, ∀ h p q, e.2.status = .talking h p → f.2.status = .talking h q → e.1 = f.1)

/-- The ready list (R41, R43): the READY agents, each once, in ascending ready sequence; every ready sequence held was given out, to
one agent. -/
def ReadyListOk (s : State) : Prop :=
  s.readyList.Nodup ∧ (∀ a, a ∈ s.readyList ↔ ∃ v n d, agentOf s a = some v ∧ v.status = .ready n d) ∧
    s.readyList.Pairwise (fun a b => readySeqOf s a < readySeqOf s b) ∧
    ∀ a v n, agentOf s a = some v → heldSeqOf v = some n → n < s.readies ∧
      ∀ b w, agentOf s b = some w → heldSeqOf w = some n → b = a

/-- No two clips that are not FREE share a page, and every one lies within the memory (R120). -/
def PagesOk (s : State) : Prop :=
  (∀ e ∈ s.clips, e.2.startPage * 512 + e.2.length ≤ 4194304 ∧ 1 ≤ e.2.length) ∧
    (∀ e ∈ s.clips, ∀ f ∈ s.clips, e.1 ≠ f.1 →
      e.2.startPage + pagesOf e.2.length ≤ f.2.startPage ∨ f.2.startPage + pagesOf f.2.length ≤ e.2.startPage)

/-- Every byte listed in the sample memory has an address of the memory (R117), and the listing is canonical. -/
def SamplesOk (s : State) : Prop :=
  (∀ e ∈ s.samples, e.1 < 4194304) ∧ Memory.wf s.samples = true

/-- The load cursor of a LOADING clip runs from 0 to its length, and its excess count has 32 bits (R118). -/
def LoadsOk (s : State) : Prop :=
  ∀ e ∈ s.clips, ∀ cursor x excess, e.2.status = .loading cursor x excess → cursor ≤ e.2.length ∧ excess ≤ 4294967295

/-- A call that stands in the waiting list of its queue: WAITING or DIVERTING (R14). -/
def inList (c : Call) : Bool := isWaiting c || isDiverting c

/-- The waiting lists (R14): every WAITING or DIVERTING call once in the list of its queue and in no other, every listed handle
such a call, each list in ascending arrival sequence; and every arrival sequence held was given out, to one call (R3). -/
def ListsOk (s : State) : Prop :=
  (∀ e ∈ s.calls, ∀ q, (queueOf s q).waiting.count (handleOf s e.1) = if inList e.2 = true ∧ e.2.queue = q then 1 else 0) ∧
    (∀ q, ∀ h ∈ (queueOf s q).waiting, ∃ c, callOf s h = some c ∧ inList c = true ∧ c.queue = q) ∧
    (∀ q, (queueOf s q).waiting.Pairwise (fun g h => seqOf s g < seqOf s h)) ∧
    (∀ e ∈ s.calls, e.2.arrivalSeq < s.arrivals) ∧
    ∀ e ∈ s.calls, ∀ f ∈ s.calls, e.2.arrivalSeq = f.2.arrivalSeq → e.1 = f.1

/-- No READY agent outside cool-down stands beside a WAITING call of an OPEN or DRAINING queue that it is skilled for and not
excluded from (R53). -/
def NoPair (s : State) : Prop := ∀ a v, agentOf s a = some v → ∀ e ∈ s.calls, takeable s a v e.2 = false

/-- Every program has a loop clip (R134), and every program that a call, a queue or a voice names is defined (R137). -/
def ProgramsNamed (s : State) : Prop :=
  (∀ e ∈ s.programs, e.2.loop ≠ []) ∧ (∀ e ∈ s.calls, ∀ p, e.2.program = some p → programOf s p ≠ none) ∧
    (∀ e ∈ s.queues, ∀ p, e.2.settings.defaultProgram = some p → programOf s p ≠ none) ∧
    ∀ e ∈ s.voices, programOf s e.2.program ≠ none

/-- A clip's use count is the number of programs that refer to it plus the number of voices that play it; only a READY clip is in
use, and a FREE clip is in none (R121). -/
def UsesOk (s : State) : Prop :=
  ∀ k, match clipOf s k with
    | some c => c.useCount = programRefs s k + voiceRefs s k ∧ (c.useCount ≠ 0 → c.status = .ready)
    | none => programRefs s k = 0 ∧ voiceRefs s k = 0

/-- A PRIVATE voice has exactly one listener, the call it names, and plays EXIT only for a DIVERTING one; a SHARED voice plays its
LOOP, and its count is the number of its listeners, at least one; the listeners' program is the voice's (R140). -/
def listenersOk (s : State) (v : Nat) (r : Voice) : Prop :=
  (∀ e ∈ s.calls, e.2.voice = some v → e.2.program = some r.program) ∧
    match r.mode with
    | .private_ h => (∃ c, callOf s h = some c ∧ c.voice = some v ∧ (r.segment = .exit ↔ isDiverting c = true)) ∧
        ∀ e ∈ s.calls, e.2.voice = some v → handleOf s e.1 = h
    | .shared n => 1 ≤ n ∧ n = (s.calls.countP fun e => e.2.voice == some v) ∧ r.segment = .loop

/-- The voices and their listeners (R140, R142, R153, R154): every voice has its listeners; a call names no FREE voice; a program has
one SHARED voice at most; a CONNECTED call has no voice; a DIVERTING call has one exactly until its divert is done; no call awaits a
voice while it has one, while one is FREE, or while its program has a SHARED one; and a WAITING or OFFERED call with a program has a
voice or awaits one. -/
def VoicesOk (s : State) : Prop :=
  (∀ e ∈ s.voices, listenersOk s e.1 e.2) ∧ (∀ e ∈ s.calls, ∀ v, e.2.voice = some v → voiceOf s v ≠ none) ∧
    (∀ e ∈ s.voices, ∀ f ∈ s.voices, isShared e.2 = true → isShared f.2 = true → e.2.program = f.2.program → e.1 = f.1) ∧
    (∀ e ∈ s.calls, ∀ t, e.2.status = .connected t → e.2.voice = none ∧ e.2.awaitingVoice = false) ∧
    (∀ e ∈ s.calls, ∀ d, e.2.status = .diverting d → e.2.awaitingVoice = false ∧ (d = true ↔ e.2.voice = none)) ∧
    (∀ e ∈ s.calls, e.2.awaitingVoice = true → e.2.voice = none ∧ (∀ v < 128, voiceOf s v ≠ none) ∧
      ∃ p, e.2.program = some p ∧ sharedVoiceOf s p = none) ∧
    ∀ e ∈ s.calls, ∀ p, isWaiting e.2 = true ∨ isOffered e.2 = true → e.2.program = some p →
      e.2.voice ≠ none ∨ e.2.awaitingVoice = true

end Sys2Proof.Machine
end

