-- ==== Sys2Proof/Certificates/Slice0/Obligations.lean ====
section
/-!
DEFINITION. The statements for the provers. An order that the link takes at once ends as `answered` says; `u` is the state the order
leaves before what the statement names after it (a matching, the reply).
-/

open Sys2Proof Sys2Proof.Machine

/-! ### The block's queue -/

/-- The model's choice of how commands reach the block (log 1): a step takes the command at the front of the queue and runs it on
the state with the queue's rest; on an empty queue the block idles. -/
def Obligations.StepRunsTheCommandAtTheFront : Prop :=
  (∀ (c : Instr) (rest : List Instr) (s : State), s.pending = c :: rest → step s = exec c { s with pending := rest }) ∧
    ∀ s : State, s.pending = [] → step s = .next s

/-- Every command completes in every state and leaves the queue of waiting commands alone: a refused order is a reply, never a
stop of the engine (R183; log 1). -/
def Obligations.EveryCommandCompletesAndLeavesTheQueue : Prop :=
  ∀ (c : Instr) (s : State), ∃ t, exec c s = .next t ∧ t.pending = s.pending

/-! ### Power, reset and the reference clock -/

/-- The values the spec gives for reset (R27, R28, R50, R107, R116, R132, R160, R172, R189). -/
def Obligations.ResetLeavesTheSpecifiedValues : Prop :=
  State.reset.framePhase = 0 ∧ State.reset.now = 0 ∧ State.reset.syncPresent = false ∧ State.reset.inService = false ∧
    State.reset.silence = 0xFF ∧ State.reset.calls = [] ∧ (∀ slot, generationOf State.reset slot = 0) ∧
    State.reset.arrivals = 0 ∧
    (∀ q, queueOf State.reset q =
      { state := .closed, settings := defaultSettings, waiting := [], cursor := 511, surge := false, aht16 := 28800,
        counters := zeroCounters, intervalStart := 0 }) ∧
    State.reset.agents = [] ∧ State.reset.readyList = [] ∧ State.reset.readies = 0 ∧ State.reset.clips = [] ∧
    State.reset.programs = [] ∧ State.reset.voices = [] ∧ State.reset.receiver = .hunting ∧ State.reset.held = [] ∧
    State.reset.replies = [] ∧ State.reset.notices = [] ∧ State.reset.noticesLost = false ∧ State.reset.sending = none ∧
    State.reset.badCheck = 0 ∧ State.reset.lengthErrors = 0 ∧ State.reset.gapErrors = 0 ∧ State.reset.overruns = 0

/-- POWER ON gives the reset values with the straps sampled (R172, R174); RESETN low gives them too, but keeps the sample memory, the
programs and the clips that are not LOADING, with the program references as use counts (R132, R160, R173, R189); RESETN high samples the
straps again and lets the engine run (R173, R174). REFCLK gone leaves HWDO undriven and everything else as it stood, and back it changes
nothing more; with REFCLK gone or RESETN low, no command but those of the pins, the supply and the clock does anything (R164, R173,
R189). The model's choices in it: what `powerOns`, `freeDraws` and `frameEnds` do (logs 9, 10 and 3), that a command is no event while
the engine does not run, and does not move a pin that has the level (log 4), that POWER ON leaves REFCLK running and RESETN high (log
11), that HWDO stays undriven after REFCLK returns (log 13), and the clip table and the straps while RESETN is low, and RESETN with
REFCLK absent (log 16). -/
def Obligations.PowerResetAndClockSetTheirValues : Prop :=
  (∀ (a : BitVec 4) (r : BitVec 2) (s : State),
    exec (.powerOn a r) s = .next { State.reset with
      pending := s.pending, unitAddress := a.toNat + 1, rateStraps := r, powerOns := s.powerOns + 1,
      freeDraws := s.freeDraws, frameEnds := s.frameEnds }) ∧
  (∀ s : State, s.resetHeld = false → Canonical s →
    ∃ t, exec .resetPinAssert s = .next t ∧
      { t with clips := [] } = { State.reset with
        pending := s.pending, clockRunning := s.clockRunning, resetHeld := true, unitAddress := s.unitAddress,
        rateStraps := s.rateStraps, powerOns := s.powerOns, freeDraws := s.freeDraws, frameEnds := s.frameEnds, samples := s.samples,
        programs := s.programs } ∧
      ∀ k, clipOf t k = (clipOf s k).bind fun c =>
        if isLoading c then none else some { c with useCount := programRefs s k }) ∧
  (∀ (a : BitVec 4) (r : BitVec 2) (s : State), s.resetHeld = true →
    exec .resetPinAssert s = .next s ∧
    exec (.resetPinRelease a r) s = .next { s with resetHeld := false, unitAddress := a.toNat + 1, rateStraps := r }) ∧
  (∀ (a : BitVec 4) (r : BitVec 2) (s : State), s.resetHeld = false → exec (.resetPinRelease a r) s = .next s) ∧
  (∀ s : State, exec .refclkStop s = .next { s with clockRunning := false, highway := .undriven }) ∧
  (∀ s : State, exec .refclkReturn s = .next { s with clockRunning := true }) ∧
  ∀ (c : Instr) (s : State), s.clockRunning = false ∨ s.resetHeld = true → pinCommand c = false → exec c s = .next s

/-! ### The time base and the highway -/

/-- A frame pulse, taken whole, restores sync that is LOST, with a SYNC CHANGED notice of the time and phase at which counting stopped,
plays every voice and is counted: the phase rises by one, or at 799 the boundary is left to the boundary command (R146, R157, R161,
R166; the two halves of a boundary pulse are log 5). A FREE voice's timeslot carries the silence byte and any other the sample at its
offset, each most significant bit first. Then each voice that is not FREE at the pulse, and no other, takes its step (VoiceTakesItsNextStep)
once, one after the other, in the order the command gives when it names them all. The agents, queues, programs and memory stand; of a
call only what the Playout Unit writes changes, of a clip only the use count. -/
def Obligations.HighwayFramePlaysAndCounts : Prop :=
  ∀ (order : List Nat) (s : State), running s = true → settled s = true → s.pulse ≠ .played →
    ∃ t u, exec (.highwayFrame order) s = .next t ∧
      t = transmit (countPulse (playFrame order u)) ∧
      u = (if s.syncPresent then s else notify 0x88 [f1 1, f2 s.framePhase] { s with syncPresent := true }) ∧
      (s.syncPresent = false → s.notices.length < 256 → u.notices = s.notices ++ [
      { frameClass := 4, kind := 0x88, body := [f4 s.now.toNat, f1 1, f2 s.framePhase] }]) ∧
      t.syncPresent = true ∧ t.now = s.now ∧
      (s.pulse = .counted → t.pulse = .whole ∧ t.framePhase = s.framePhase) ∧
      (s.pulse = .whole → s.framePhase < 799 → t.pulse = .whole ∧ t.framePhase = s.framePhase + 1) ∧
      (s.pulse = .whole → 799 ≤ s.framePhase → t.pulse = .played ∧ t.framePhase = s.framePhase) ∧
      (∃ slots, t.highway = .driven slots ∧ slots.length = 128 ∧
        (∃ bits, hwdoBits t = some bits ∧ bits.length = 1024 ∧
          ∀ v b i, slots[v]? = some b → i < 8 → bits[8 * v + i]? = some (b.getLsbD (7 - i))) ∧ ∀ v < 128,
        (voiceOf s v = none → slots[v]? = some s.silence) ∧
        ∀ r k, voiceOf s v = some r → clipOf s r.clip = some k → slots[v]? = some (sampleAt s (k.startPage * 512 + r.offset))) ∧
      (∃ slots voices, t.highway = .driven slots ∧ playFrame order u = voices.foldl playVoice { u with highway := .driven slots } ∧
        (∀ v, v ∈ voices ↔ voiceOf s v ≠ none) ∧ (Canonical s → voices.Nodup) ∧
        (order.Nodup → (∀ v, v ∈ order ↔ voiceOf s v ≠ none) → voices = order)) ∧
      (∀ h, (callOf t h).map withoutAudio = (callOf s h).map withoutAudio) ∧
      (∀ k, (clipOf t k).map withoutUse = (clipOf s k).map withoutUse) ∧
      outsideAudio { t with
        syncPresent := s.syncPresent, framePhase := s.framePhase, pulse := s.pulse, highway := s.highway,
        sending := s.sending, replies := s.replies } = outsideAudio s

/-- What one voice does at a frame: its offset rises by one, or at the end of its clip it takes the next step of its segment from the
program as it stands now, at offset 0 (R146, R147, R149, R150). The end of a LOOP clip on a PRIVATE voice is the announcement test,
stated by its two outcomes: due when the queue's announcement interval is not 0 and engine time has reached the call's announcement due
(R148), for the EWT at the call's rank, or at rank 1 when OFFERED (R103), with the clip of the first band whose bound is at least the
EWT, else the over clip, and for 65,535 the no-estimate clip (R139). The use counts follow the clip (R121). The end of an EXIT clip ends
the divert: DIVERT DONE with exit played 1, the detachment that frees the voice, the flag (R154). No other voice moves. -/
def Obligations.VoiceTakesItsNextStep : Prop :=
  (∀ (s : State) (c : Call), announcementIsDue s c = true ↔
    (queueOf s c.queue).settings.announcementInterval ≠ 0 ∧ ∃ d, c.announceDue = some d ∧ (s.now - d).msb = false) ∧
  (∀ (s : State) (c : Call), (c.status = .waiting → callEstimate s c = ewt s c.queue (rankOf s c)) ∧
    ∀ a d, c.status = .offered a d → callEstimate s c = ewt s c.queue 1) ∧
  (∀ (p : Program) (e : Nat), (e = 65535 → announcementClip p e = p.noEstimateClip) ∧
    (e ≠ 65535 → (∀ before b after, p.bands = before ++ b :: after → e ≤ b.1 → (∀ x ∈ before, x.1 < e) →
        announcementClip p e = some b.2) ∧
      ((∀ x ∈ p.bands, x.1 < e) → announcementClip p e = p.overClip))) ∧
  ∀ (s : State) (v : Nat) (r : Voice) (k : Clip) (p : Program), voiceOf s v = some r → clipOf s r.clip = some k →
    programOf s r.program = some p →
    (r.offset + 1 < k.length → voiceOf (playVoice s v) v = some { r with offset := r.offset + 1 }) ∧
    (k.length ≤ r.offset + 1 → r.segment = .intro →
      voiceOf (playVoice s v) v = some { r with segment := .loop, loopIndex := 0, clip := p.loop.getD 0 0, offset := 0 }) ∧
    (∀ n, k.length ≤ r.offset + 1 → r.segment = .loop → r.mode = .shared n →
      voiceOf (playVoice s v) v = some { r with
        loopIndex := (r.loopIndex + 1) % p.loop.length, clip := p.loop.getD ((r.loopIndex + 1) % p.loop.length) 0,
        offset := 0 }) ∧
    (∀ h c, k.length ≤ r.offset + 1 → r.segment = .loop → r.mode = .private_ h → callOf s h = some c →
      (announcementIsDue s c = false →
        voiceOf (playVoice s v) v = some { r with
          loopIndex := (r.loopIndex + 1) % p.loop.length, clip := p.loop.getD ((r.loopIndex + 1) % p.loop.length) 0,
          offset := 0 }) ∧
      (∀ a, announcementIsDue s c = true → announcementClip p (callEstimate s c) = some a →
        voiceOf (playVoice s v) v = some { r with
          segment := .announce ((r.loopIndex + 1) % p.loop.length), clip := a, offset := 0 }) ∧
      (announcementIsDue s c = true → announcementClip p (callEstimate s c) = none →
        voiceOf (playVoice s v) v = some { r with
          loopIndex := (r.loopIndex + 1) % p.loop.length, clip := p.loop.getD ((r.loopIndex + 1) % p.loop.length) 0,
          offset := 0 } ∧
        callOf (playVoice s v) h = some { c with
          announceDue := some (s.now + BitVec.ofNat 32 (queueOf s c.queue).settings.announcementInterval) })) ∧
    (∀ i, k.length ≤ r.offset + 1 → r.segment = .announce i →
      voiceOf (playVoice s v) v = some { r with
        segment := .loop, loopIndex := i % p.loop.length, clip := p.loop.getD (i % p.loop.length) 0, offset := 0 } ∧
      ∀ h c, r.mode = .private_ h → callOf s h = some c →
        callOf (playVoice s v) h = some { c with
          announceDue := some (s.now + BitVec.ofNat 32 (queueOf s c.queue).settings.announcementInterval) }) ∧
    (∀ h c, k.length ≤ r.offset + 1 → r.segment = .exit → r.mode = .private_ h → callOf s h = some c → c.voice = some v →
      isDiverting c = true → c.awaitingVoice = false →
      callOf (playVoice s v) h = some { c with status := .diverting true, voice := none, announceDue := none } ∧
      (let u := notify 0x87 [f2 h, f4 c.tag.toNat, f1 c.queue, f1 1] s
       (s.notices.length < 256 → u.notices = s.notices ++ [
       { frameClass := 4, kind := 0x87, body := [f4 s.now.toNat, f2 h, f4 c.tag.toNat, f1 c.queue, f1 1] }]) ∧
       playVoice s v = setCallRec (freeVoice v (setCallRec u h { c with voice := none, announceDue := none })) h
         { c with status := .diverting true, voice := none, announceDue := none }) ∧
      ∀ w, w ≠ v → voiceOf (playVoice s v) w = voiceOf s w) ∧
    (r.offset + 1 < k.length ∨ r.segment ≠ .exit →
      (∀ w, w ≠ v → voiceOf (playVoice s v) w = voiceOf s w) ∧ ∀ x, voiceOf (playVoice s v) v = some x →
        (x.clip = r.clip → (playVoice s v).clips = s.clips) ∧
        (x.clip ≠ r.clip → ∀ j, clipOf (playVoice s v) j = (clipOf s j).map (movedUse (some r.clip) (some x.clip) j)))

/-- A time-unit boundary: the phase is 0, engine time is one more modulo 2^32, and the owners are signalled the offers, wraps and
cool-downs that engine time has reached, no others, and at a multiple of 10 the whole-second evaluation (R161, R162, R163). Nothing else
changes but the sync that the pulse restores, with its notice before the count (R166). The model's choices in it: the command is taken
after the pulse's frame event or before it (log 5), a whole-second evaluation not done yet stays owed (log 6), and the command does
nothing before phase 799 or a second time for one pulse (log 4). -/
def Obligations.BoundaryRaisesEngineTimeAndSignals : Prop :=
  (∀ s : State, running s = true → settled s = true → Canonical s → InRange s →
    s.pulse = .played ∨ (s.pulse = .whole ∧ 799 ≤ s.framePhase) →
    ∃ t, exec .timeUnitBoundary s = .next t ∧ t.framePhase = 0 ∧ t.now = s.now + 1 ∧
      (s.pulse = .played → t.pulse = .whole) ∧ (s.pulse = .whole → t.pulse = .counted ∧ t.syncPresent = true) ∧
      (s.pulse = .whole → t = transmit { countBoundary
        (if s.syncPresent then s else notify 0x88 [f1 1, f2 s.framePhase] { s with syncPresent := true }) with pulse := .counted }) ∧
      (∀ h, h ∈ t.due.offers ↔
        ∃ c a d, callOf s h = some c ∧ c.status = .offered a (some d) ∧ reached (s.now + 1) d = true) ∧
      (∀ a, a ∈ t.due.wraps ↔ ∃ v w p, agentOf s a = some v ∧ v.status = .wrap w p ∧ reached (s.now + 1) w.deadline = true) ∧
      (∀ a, a ∈ t.due.coolDowns ↔
        ∃ v n d, agentOf s a = some v ∧ v.status = .ready n (some d) ∧ reached (s.now + 1) d = true) ∧
      (t.due.surge = true ↔ (s.now + 1).toNat % 10 = 0 ∨ s.due.surge = true) ∧
      { t with
        framePhase := s.framePhase, now := s.now, due := s.due, pulse := s.pulse, syncPresent := s.syncPresent,
        notices := s.notices, noticesLost := s.noticesLost, frameEnds := s.frameEnds, replies := s.replies,
        sending := s.sending } = s) ∧
  ∀ s : State, running s = true → s.pulse = .counted ∨ (s.pulse = .whole ∧ s.framePhase < 799) →
    exec .timeUnitBoundary s = .next s

/-- 800 counted pulses are one time unit: from phase 0, 800 highway frames and the boundary of the last of them take the phase back
to 0 and raise engine time by one, whatever else the frames do (R161). -/
def Obligations.EightHundredPulsesAreOneTimeUnit : Prop :=
  ∀ (orders : List (List Nat)) (s : State), orders.length = 800 → running s = true → settled s = true →
    s.framePhase = 0 → s.pulse = .whole →
    ∃ t, Host.Core.run Sys2Proof.core 801 { s with pending := orders.map .highwayFrame ++ [.timeUnitBoundary] } = .next t ∧
      t.framePhase = 0 ∧ t.now = s.now + 1 ∧ t.syncPresent = true ∧ t.pulse = .whole ∧ t.pending = []

/-- Sync that is lost is LOST with a SYNC CHANGED notice of the phase and the time at which counting stopped, and HWDO is left
undriven; while it is LOST no further loss is declared, and time stands: no offer expires, no wrap or cool-down ends and no whole-second
evaluation is made, and no command but a frame pulse, a boundary, power-on or the reset pin moves the phase, engine time or the sync
state, and HWDO stays undriven (R164, R165, R166). -/
def Obligations.TimeStandsWhileSyncIsLost : Prop :=
  (∀ s : State, running s = true → settled s = true → s.syncPresent = true → s.pulse = .whole →
    exec .syncLoss s = .next (transmit (notify 0x88 [f1 0, f2 s.framePhase] { s with
      syncPresent := false, highway := .undriven }))) ∧
  (∀ s : State, s.syncPresent = false → exec .syncLoss s = .next s ∧ (∀ h, exec (.offerExpiry h) s = .next s) ∧
    (∀ a, exec (.wrapExpiry a) s = .next s) ∧ (∀ a, exec (.coolDownEnd a) s = .next s) ∧
    ∀ o, exec (.surgeWholeSecondEvaluation o) s = .next s) ∧
  ∀ (c : Instr) (s t : State), s.syncPresent = false → exec c s = .next t →
    (∀ o, c ≠ .highwayFrame o) → c ≠ .timeUnitBoundary → (∀ a r, c ≠ .powerOn a r) → c ≠ .resetPinAssert →
    t.now = s.now ∧ t.framePhase = s.framePhase ∧ t.syncPresent = false ∧ t.pulse = s.pulse ∧
      (s.highway = .undriven → t.highway = .undriven)

/-- A deadline set T tu ahead, for T below 2^31, is not reached before engine time equals it, and is reached then and at every
boundary after it for 2^31 tu, across the wrap of engine time (R163). -/
def Obligations.DeadlineIsReachedAtItsTime : Prop :=
  ∀ (now : Time) (T j : Nat), T < 2 ^ 31 →
    (j < T → reached (now + BitVec.ofNat 32 j) (timeAfter now T) = false) ∧
    (T ≤ j → j < T + 2 ^ 31 → reached (now + BitVec.ofNat 32 j) (timeAfter now T) = true)

/-! ### The work of a boundary -/

/-- The expiry of an offer (R14, R47, R68, R69, R73, R105), while sync is PRESENT: before matching, the call is WAITING again, at its
arrival place in its waiting list, which the surge monitor then evaluates (R109), with the agent excluded, the miss is counted for the
queue and the agent, and the agent is parked, with an AGENT PARKED notice, or returned to the back of the ready list, in cool-down when
the queue has one. The last notice is OFFER EXPIRED with the outcome. Then the call is matched and, when it may be, the agent. -/
def Obligations.OfferExpiryCountsTheMissAndReturnsTheCall : Prop :=
  ∀ (h : BitVec 16) (s : State) (c : Call) (v : Agent) (a n : Nat) (d : Time),
    running s = true → s.syncPresent = true → s.due.offers.contains h.toNat = true → callOf s h.toNat = some c →
    c.status = .offered a (some d) → reached s.now d = true → agentOf s a = some v → v.status = .offered h.toNat n →
    (let settings := (queueOf s c.queue).settings
     let misses := min 15 (v.misses + 1)
     ∃ u, exec (.offerExpiry h) s = .next (settle (offerAgent a (matchCall h.toNat u))) ∧
       callOf u h.toNat = some { c with status := .waiting, exclusion := c.exclusion.drop (c.exclusion.length - 3) ++ [a] } ∧
       rejoins s u h.toNat c ∧ SurgeEvaluated s u c.queue ∧
       withoutTraffic (queueOf u c.queue) = withoutTraffic (queueOf s c.queue) ∧
       (queueOf u c.queue).counters = { (queueOf s c.queue).counters with
         missedOffers := min ((queueOf s c.queue).counters.missedOffers + 1) 65535 } ∧
       (settings.missLimit ≤ misses ∨ settings.missAction = .park →
         agentOf u a = some { v with status := .notReady 240, misses := misses } ∧ u.readyList = s.readyList ∧
         u.readies = s.readies ∧ (s.notices.length < 250 →
         { frameClass := 4, kind := 0x83, body :=
           [f4 s.now.toNat, f2 a, f2 h.toNat, f4 c.tag.toNat, f1 c.queue, f1 misses] } ∈ u.notices)) ∧
       (misses < settings.missLimit → settings.missAction = .returnReady →
         agentOf u a = some { v with
           status := .ready s.readies (if settings.coolDown = 0 then none else some (s.now + BitVec.ofNat 32 settings.coolDown))
           misses := misses } ∧
         u.readyList = s.readyList ++ [a] ∧ u.readies = s.readies + 1) ∧
       (s.notices.length < 250 → u.notices.getLast? = some
       { frameClass := 4, kind := 0x81, body :=
         [f4 s.now.toNat, f2 h.toNat, f4 c.tag.toNat, f2 a, f1 c.queue,
           f1 (if settings.missLimit ≤ misses ∨ settings.missAction = .park then 2 else if settings.coolDown = 0 then 0 else 1),
           f1 misses, f1 c.offerCount] }) ∧
       (∀ k, slotOf k ≠ slotOf h.toNat → callOf u k = callOf s k) ∧
       (∀ b, b ≠ a → (agentOf u b).map withoutDeadline = (agentOf s b).map withoutDeadline) ∧
       (∀ q, q ≠ c.queue → queueOf u q = queueOf s q) ∧
       withoutWraps u.due = withoutWraps { s.due with offers := s.due.offers.erase h.toNat } ∧
       outsideMatching u = outsideMatching s)

/-- The expiry of a wrap (R84, R85, R86, R94), while sync is PRESENT: the queue's average takes the sample, the agent goes to reason 241
for want of a required code, else to its pending reason, else READY when auto-ready, else to reason 242, and the notice tells it; an
agent that is READY is then matched. -/
def Obligations.WrapExpiryDecidesTheOutcome : Prop :=
  ∀ (a : BitVec 16) (s : State) (v : Agent) (w : WrapRecord) (p : Option Nat),
    running s = true → s.syncPresent = true → s.due.wraps.contains a.toNat = true → agentOf s a.toNat = some v →
    v.status = .wrap w p → reached s.now w.deadline = true →
    ∃ u, (queueOf u w.queue).aht16 = foldSample (queueOf s w.queue).aht16 (queueOf s w.queue).settings.smoothingShift
        (min (w.talkTime.toNat + (s.now - w.start).toNat) 65535) ∧
      (let missing := (queueOf s w.queue).settings.dispositionRequired = true ∧ w.disposition = none
       (missing → exec (.wrapExpiry a) s = .next (settle u) ∧
          agentOf u a.toNat = some { v with status := .notReady 241 } ∧ u.readyList = s.readyList) ∧
        (∀ r, ¬ missing → p = some r → exec (.wrapExpiry a) s = .next (settle u) ∧
          agentOf u a.toNat = some { v with status := .notReady r } ∧ u.readyList = s.readyList) ∧
        (¬ missing → p = none → v.autoReady = false → exec (.wrapExpiry a) s = .next (settle u) ∧
          agentOf u a.toNat = some { v with status := .notReady 242 } ∧ u.readyList = s.readyList) ∧
        (¬ missing → p = none → v.autoReady = true → exec (.wrapExpiry a) s = .next (settle (matchAgent a.toNat u)) ∧
          agentOf u a.toNat = some { v with status := .ready s.readies none } ∧ u.readyList = s.readyList ++ [a.toNat])) ∧
      (s.notices.length < 256 → u.notices = s.notices ++ [
      { frameClass := 4, kind := 0x84, body :=
        [f4 s.now.toNat, f2 a.toNat, f1 w.queue, f1 (if agentStateCode (agentOf u a.toNat) = 2 then 0 else 1),
          f1 (((agentOf u a.toNat).bind reasonOf).getD 255), f2 ((w.disposition.map (·.toNat)).getD 0),
          f4 w.talkTime.toNat, f4 (s.now - w.start).toNat, f1 w.extensions] }]) ∧
      (∀ b, b ≠ a.toNat → agentOf u b = agentOf s b) ∧
      (∀ q, { queueOf u q with aht16 := 0 } = { queueOf s q with aht16 := 0 }) ∧
      (∀ q, q ≠ w.queue → (queueOf u q).aht16 = (queueOf s q).aht16) ∧
      u.due.wraps = s.due.wraps.erase a.toNat ∧ u.calls = s.calls ∧ outsideMatching u = outsideMatching s

/-- The whole-second evaluation, while sync is PRESENT, visits each of the 64 queues once, in whatever order (R109 to R114): a queue out
of surge enters it when its length is at least an enabled surge count or its oldest wait at least an enabled surge wait, a queue in
surge leaves it when every enabled measure is at most three quarters of its threshold. A queue that enters surge with trim set moves the
later deadlines of its wraps to now plus the surge wrap allowance (R93), and such a wrap is no longer due at this boundary. Each change
is notified. Nothing else of a queue, a call or an agent changes. -/
def Obligations.WholeSecondEvaluationSetsTheSurgeFlags : Prop :=
  ∀ (order : List Nat) (s : State), running s = true → s.syncPresent = true → s.due.surge = true →
    (let settings (q : Nat) := (queueOf s q).settings
     let len (q : Nat) := (queueOf s q).waiting.length
     let oldest (q : Nat) := (((queueOf s q).waiting.head?.bind fun h => callOf s h).map fun c => (s.now - c.arrivalTime).toNat).getD 0
     let byCount (q : Nat) := decide ((settings q).surgeCount ≠ 0 ∧ (settings q).surgeCount ≤ len q)
     let byWait (q : Nat) := decide ((settings q).surgeWait ≠ 0 ∧ (settings q).surgeWait ≤ oldest q)
     let leaves (q : Nat) := (queueOf s q).surge && decide (((settings q).surgeCount = 0 ∨ len q ≤ 3 * (settings q).surgeCount / 4) ∧
       ((settings q).surgeWait = 0 ∨ oldest q ≤ 3 * (settings q).surgeWait / 4))
     let enters (q : Nat) := !(queueOf s q).surge && (byCount q || byWait q)
     let limit (q : Nat) : Time := s.now + BitVec.ofNat 32 (settings q).surgeWrapAllowance
     let cut (w : WrapRecord) := decide (w.queue < 64) && enters w.queue && (settings w.queue).surgeTrim &&
       decide (w.deadline ≠ limit w.queue ∧ (w.deadline - limit w.queue).msb = false)
     ∃ u, exec (.surgeWholeSecondEvaluation order) s = .next (settle u) ∧
       (∀ q < 64, queueOf u q = { queueOf s q with surge := if (queueOf s q).surge then !leaves q else enters q }) ∧
       (∀ q, 64 ≤ q → queueOf u q = queueOf s q) ∧
       u.calls = s.calls ∧ u.readyList = s.readyList ∧ u.readies = s.readies ∧ u.due.surge = false ∧
       (∀ a v, agentOf s a = some v →
         (wrapOf v = none → agentOf u a = some v) ∧
         ∀ w p, v.status = .wrap w p →
           agentOf u a = some (if cut w then { v with status := .wrap { w with deadline := limit w.queue } p } else v)) ∧
       (∀ a, agentOf s a = none → agentOf u a = none) ∧
       (Canonical s → ∀ a, a ∈ u.due.wraps ↔ a ∈ s.due.wraps ∧ ∀ v w p, agentOf s a = some v → v.status = .wrap w p → cut w = false) ∧
       (s.notices.length ≤ 192 → ∃ raised, u.notices = s.notices ++ raised ∧
         raised.length = ((List.range 64).countP fun q => enters q || leaves q) ∧
         ∀ f, f ∈ raised ↔ ∃ q < 64, (enters q = true ∨ leaves q = true) ∧ f =
         { frameClass := 4, kind := 0x85, body :=
           [f4 s.now.toNat, f1 q, f1 (if enters q then 1 else 0),
             f1 (if enters q then (if byCount q then 1 else 0) + (if byWait q then 2 else 0) else 0), f2 (len q), f4 (oldest q),
             f2 (s.agents.countP fun e => ((wrapOf e.2).map fun w => w.queue == q && cut w).getD false)] }) ∧
       outsideMatching u = outsideMatching s)

/-! ### The control link -/

/-- The characters of a frame, one after the other with good stop bits, do to a hunting receiver what the frame as a whole does:
the receiver finds a frame by its start byte and takes every later field by count (R175, R176, R178). A character is a low start bit,
the data bits with the least significant first and a high stop bit, from which the receiver has the byte back, and the rate straps give
1, 2, 4 or 8 Mbit/s (R174). -/
def Obligations.CharactersOfAFrameAreTheFrame : Prop :=
  (∀ (address frameClass kind : BitVec 8) (body : List (BitVec 8)) (crc : BitVec 16) (s : State),
    running s = true → s.receiver = .hunting → body.length ≤ 250 →
    Host.Core.run Sys2Proof.core (body.length + 7) { s with
        pending := (frameBytes address frameClass kind body crc).map fun b => .characterReceived b true } =
      Host.Core.run Sys2Proof.core 1 { s with pending := [.frameReceived address frameClass kind body crc] }) ∧
  (∀ b : BitVec 8, (characterBits b).length = 10 ∧ (characterBits b)[0]? = some false ∧ (characterBits b)[9]? = some true ∧
    (∀ i < 8, (characterBits b)[i + 1]? = some (b.getLsbD i)) ∧
    ∀ bits : List Bool, bits.length = 10 → (∀ i < 8, bits[i + 1]? = some (b.getLsbD i)) →
      characterByte bits = b ∧ (stopBit bits = true ↔ bits[9]? = some true)) ∧
  bitRateMbit 0 = 1 ∧ bitRateMbit 1 = 2 ∧ bitRateMbit 2 = 4 ∧ bitRateMbit 3 = 8

/-- Reading and writing agree: the kind and body written for a well-formed order read back as that order with every field, and its
frame received whole does what the order command does (R175, R178, R181, R182, R190). -/
def Obligations.OrderFramesReadBack : Prop :=
  ∀ (c : Instr) (dest : Dest) (kind : BitVec 8) (body : List (BitVec 8)), c.wellFormed = true →
    orderFrame c = some (dest, kind, body) →
    readFrame dest kind body = .order c ∧ body.length ≤ 250 ∧
      ∀ (s : State) (address : BitVec 8), running s = true → s.receiver = .hunting →
        (dest = .unit → address.toNat = s.unitAddress ∧ s.unitAddress ≠ 0) → (dest = .broadcast → address = 0) →
        exec (.frameReceived address 1 kind body (crcOf (crcCovered address 1 kind body))) s = exec c s

/-- How the receiver discards: hunting, it counts nothing and starts a frame at 0x7E alone; inside a frame, a low stop bit is a
bad-check frame, a length byte above 250 a length error and the gap limit a gap error, each leaving the receiver hunting (R176,
R177, R179). -/
def Obligations.ReceiverDiscardsAndCounts : Prop :=
  (∀ (b : BitVec 8) (s : State), running s = true → s.receiver = .hunting →
    exec (.characterReceived b false) s = .next s ∧ exec .gapLimit s = .next s ∧
    (b ≠ 0x7E → exec (.characterReceived b true) s = .next s) ∧
    (b = 0x7E → exec (.characterReceived b true) s = .next { s with receiver := .inFrame [] })) ∧
  ∀ (b : BitVec 8) (taken : List (BitVec 8)) (s : State), running s = true → s.receiver = .inFrame taken →
    exec (.characterReceived b false) s = .next { s with receiver := .hunting, badCheck := s.badCheck + 1 } ∧
    exec .gapLimit s = .next { s with receiver := .hunting, gapErrors := s.gapErrors + 1 } ∧
    (taken.length = 3 → 250 < b.toNat →
      exec (.characterReceived b true) s = .next { s with receiver := .hunting, lengthErrors := s.lengthErrors + 1 }) ∧
    (taken.length < 3 ∨ (taken.length = 3 ∧ b.toNat ≤ 250) →
      exec (.characterReceived b true) s = .next { s with receiver := .inFrame (taken ++ [b]) })

/-- A complete frame is judged by the first case that applies: a wrong CRC is counted, another engine's address is ignored, a class
other than 1 is counted, and otherwise the frame goes to the receive buffers (R178). -/
def Obligations.CompleteFrameIsJudged : Prop :=
  ∀ (address frameClass kind : BitVec 8) (body : List (BitVec 8)) (crc : BitVec 16) (s : State),
    running s = true → s.receiver = .hunting → body.length ≤ 250 →
    (crc ≠ crcOf ([address, frameClass, kind, BitVec.ofNat 8 body.length] ++ body) →
      exec (.frameReceived address frameClass kind body crc) s = .next { s with badCheck := s.badCheck + 1 }) ∧
    (crc = crcOf ([address, frameClass, kind, BitVec.ofNat 8 body.length] ++ body) →
      (address.toNat ≠ 0 → address.toNat ≠ s.unitAddress →
        exec (.frameReceived address frameClass kind body crc) s = .next s) ∧
      (address.toNat = 0 ∨ address.toNat = s.unitAddress → frameClass ≠ 1 →
        exec (.frameReceived address frameClass kind body crc) s = .next { s with badCheck := s.badCheck + 1 }) ∧
      (address.toNat = 0 → frameClass = 1 →
        exec (.frameReceived address frameClass kind body crc) s = .next (arrive (readFrame .broadcast kind body) s)) ∧
      (address.toNat ≠ 0 → address.toNat = s.unitAddress → frameClass = 1 →
        exec (.frameReceived address frameClass kind body crc) s = .next (arrive (readFrame .unit kind body) s)))

/-- What becomes of an order's frame (R180): with two frames held it is an overrun and nothing else; with the reply queue full it is
held behind the others and waits; and when the link takes it, it is handed over at once, leaving no frame held. -/
def Obligations.OrderIsHeldOrHandedOverOrOverrun : Prop :=
  ∀ (c : Instr) (s : State), c.wellFormed = true → isOrder c = true → running s = true →
    (2 ≤ s.held.length → exec c s = .next { s with overruns := s.overruns + 1 }) ∧
    (s.held.length < 2 → 4 ≤ s.replies.length → s.sending.isSome = true →
      exec c s = .next { s with held := s.held ++ [.order c] }) ∧
    (takes s = true → ∃ t, exec c s = .next t ∧ t = transmit (handOverOrder c s) ∧ t.held = [] ∧ t.overruns = s.overruns)

/-- The two link checks and the dropped broadcast (R181, R182): a kind that is no order kind is refused UNKNOWN_KIND with the kind,
a wrong body length BAD_LENGTH with the required and the received length, and a broadcast of another kind or length leaves no
trace. -/
def Obligations.LinkChecksRefuseOrDrop : Prop :=
  (∀ (kind : BitVec 8) (body : List (BitVec 8)) (s : State), takes s = true → requiredLength kind.toNat = none →
    exec (.unknownKind kind body) s = .next (answered kind.toNat s (.refuse .unknownKind 0 kind.toNat))) ∧
  (∀ (kind : BitVec 8) (body : List (BitVec 8)) (n : Nat) (s : State), takes s = true → s.receiver = .hunting →
    s.unitAddress ≠ 0 → s.unitAddress < 256 → body.length ≤ 250 →
    requiredLength kind.toNat = some n → (kind ≠ 0x41 → body.length ≠ n) →
    (kind = 0x41 → body.length < 6 ∨ 245 < body.length) →
    exec (.frameReceived (BitVec.ofNat 8 s.unitAddress) 1 kind body
        (crcOf (crcCovered (BitVec.ofNat 8 s.unitAddress) 1 kind body))) s =
      .next (answered kind.toNat s (.refuse .badLength 0 (n * 65536 + body.length)))) ∧
  ∀ (kind : BitVec 8) (body : List (BitVec 8)) (s : State), takes s = true →
    (broadcastKind kind.toNat && lengthRight kind.toNat body.length) = false →
    exec (.broadcastDropped kind body) s = .next s

/-- The transmitter (R186, R188): when it finishes a frame it takes the reply at the head, else the notice at the head, else it is
idle; and the head frame that waited for the place a reply leaves is then handed over. With no frame being sent none is finished
(log 4). A notice begins with the engine time and joins at the tail while fewer than 256 wait; else it is discarded and sets the
notices-lost flag (R187). But the notice at the head may leave between two notices of one event, the frame being sent having ended with
no reply waiting: then the one that finds 256 waiting joins, be an earlier one lost or not (R187). Whether it does is a free value,
`Config.frameEndsInside` of the model's own count (log 3); the statement holds for either. -/
def Obligations.TransmitterTakesRepliesBeforeNotices : Prop :=
  (∀ (s : State) (f : OutFrame), running s = true → s.sending = some f → s.held = [] →
    (∀ r rs, s.replies = r :: rs → exec .frameSent s = .next { s with sending := some r, replies := rs }) ∧
    (∀ n ns, s.replies = [] → s.notices = n :: ns → exec .frameSent s = .next { s with sending := some n, notices := ns }) ∧
    (s.replies = [] → s.notices = [] → exec .frameSent s = .next { s with sending := none })) ∧
  (∀ (s : State) (f r : OutFrame) (rs : List OutFrame) (h : HeldFrame) (hs : List HeldFrame), running s = true →
    s.sending = some f → s.held = h :: hs → s.replies = r :: rs → rs.length = 3 →
    exec .frameSent s = .next (settle (handOver h { s with sending := some r, replies := rs, held := hs }))) ∧
  (∀ s : State, s.sending = none → exec .frameSent s = .next s) ∧
  ∀ (kind : Nat) (body : List LinkField) (s : State),
    (let raised : OutFrame := { frameClass := 4, kind := kind, body := f4 s.now.toNat :: body }
     (s.notices.length < 256 → notify kind body s = { s with notices := s.notices ++ [raised] }) ∧
     (256 ≤ s.notices.length →
       (s.sending = none ∨ s.replies ≠ [] →
         notify kind body s = { s with noticesLost := true, frameEnds := s.frameEnds + 1 }) ∧
       ∀ n ns, s.sending ≠ none → s.replies = [] → s.notices = n :: ns →
         notify kind body s =
           if Config.frameEndsInside s.frameEnds then
             { s with sending := some n, notices := ns ++ [raised], frameEnds := s.frameEnds + 1 }
           else { s with noticesLost := true, frameEnds := s.frameEnds + 1 }))

/-- Every step keeps the link's bounds: at most 4 replies, 256 notices and 2 held frames, a unit address from 1 to 16, a transmitter
that is never idle over a waiting frame, and no frame held while the reply queue has a place (R174, R180, R186, R187, R188). -/
def Obligations.LinkStaysBounded : Prop :=
  ∀ s t : State, LinkBounded s → step s = .next t → LinkBounded t

/-- Every addressed order that is handed over gets exactly one reply, of its kind; and a refused order changes nothing at all (R183).
The reply is built of the answer: the status byte and the fields of an ACCEPT, or the status byte, the code's number, the field index
and the detail of a REFUSE. The status byte's bits, from bit 0 on, are SERVICE, sync PRESENT, notices lost, a queue in surge and the
adjusted mark, with 0 above them (R184); the mark is clear in a REFUSE and set by eight orders alone (R185). Only READ ENGINE's status
byte is not of the state it leaves, whose notices-lost flag it clears (R171). -/
def Obligations.OneReplyEachAndARefusalChangesNothing : Prop :=
  (∀ (kind : Nat) (u : State) (a : Answer),
    answered kind u a = transmit { u with replies := u.replies ++ [replyFrame u kind a] }) ∧
  (∀ (kind : Nat) (u : State),
    (∀ adjusted fields, replyFrame u kind (.accept adjusted fields) =
      { frameClass := 2, kind := kind, body := f1 (statusByte u adjusted) :: fields }) ∧
    ∀ code number index detail, (code, number) ∈ [(RefusalCode.unknownKind, 1), (.badLength, 2), (.badField, 3), (.noSuch, 4),
        (.wrongState, 5), (.noRoom, 6), (.inUse, 7), (.limit, 8), (.tooLate, 9), (.codeMissing, 10), (.sequence, 11),
        (.surge, 12), (.closed, 13)] →
      replyFrame u kind (.refuse code index detail) =
        { frameClass := 3, kind := kind, body := [f1 (statusByte u false), f1 number, f1 index, f4 detail] }) ∧
  (∀ (u : State) (adjusted : Bool), statusByte u adjusted < 2 ^ 5 ∧ (statusByte u adjusted).testBit 0 = u.inService ∧
    (statusByte u adjusted).testBit 1 = u.syncPresent ∧ (statusByte u adjusted).testBit 2 = u.noticesLost ∧
    (Canonical u → ((statusByte u adjusted).testBit 3 = true ↔ ∃ q, (queueOf u q).surge = true)) ∧
    (statusByte u adjusted).testBit 4 = adjusted) ∧
  ∀ (c : Instr) (kind : BitVec 8) (body : List (BitVec 8)) (s : State), c.wellFormed = true →
    orderFrame c = some (.unit, kind, body) → takes s = true →
    ∃ (u : State) (a : Answer), exec c s = .next (if c = .readEngine then
          transmit { s with noticesLost := false, replies := s.replies ++ [replyFrame s kind.toNat a] }
        else answered kind.toNat u a) ∧
      u.replies = s.replies ∧ u.sending.isSome = s.sending.isSome ∧ u.held = [] ∧
      (∀ code index detail, a = .refuse code index detail → u = s) ∧
      (∀ fields, a = .accept true fields → kind.toNat ∈ [0x10, 0x14, 0x20, 0x37, 0x39, 0x41, 0x42, 0x45])

/-- In CONFIG every call and agent order is refused WRONG_STATE with field index 0 and the CONFIG code, whatever its fields hold
(R167). -/
def Obligations.ConfigRefusesCallAndAgentOrders : Prop :=
  ∀ (c : Instr) (kind : Nat) (s : State), serviceKind c = some kind → takes s = true → s.inService = false →
    exec c s = .next (answered kind s (.refuse .wrongState 0 0))

/-! ### Service states and read orders -/

/-- START SERVICE and STOP SERVICE (R168, R169), addressed and broadcast (R182): the one takes CONFIG to SERVICE with the silence
byte stored, the other takes SERVICE to CONFIG when no call is in use and no agent is logged in; otherwise they are refused, and
nothing changes. -/
def Obligations.StartAndStopServiceChangeTheState : Prop :=
  ∀ (dest : Dest) (b : BitVec 8) (s : State), takes s = true →
    (s.inService = false →
      exec (.startService dest b) s = .next (ended dest 0x01 { s with inService := true, silence := b }
        (.accept false [f1 b.toNat, f4 s.now.toNat])) ∧
      exec (.stopService dest) s = .next (ended dest 0x02 s (.refuse .wrongState 0 0))) ∧
    (s.inService = true →
      exec (.startService dest b) s = .next (ended dest 0x01 s (.refuse .wrongState 0 1)) ∧
      (s.calls = [] → s.agents = [] → exec (.stopService dest) s =
        .next (ended dest 0x02 { s with inService := false } (.accept false [f4 s.now.toNat]))) ∧
      (s.calls ≠ [] ∨ s.agents ≠ [] → exec (.stopService dest) s =
        .next (ended dest 0x02 s (.refuse .inUse 0 (s.calls.length * 65536 + s.agents.length)))))

/-- CLEAR SERVICE (R27, R28, R51, R96, R116, R133, R160, R170): every call is freed and its slot's generation advanced, every agent
logged out, every voice freed, every queue's working state cleared and its average reseeded, the notices discarded, and the engine
is in CONFIG; the counters of sequences, the clips, programs, settings, replies, link counters and time stand. -/
def Obligations.ClearServiceRemovesAllTraffic : Prop :=
  ∀ (dest : Dest) (s : State), takes s = true → Canonical s → InRange s →
    ∃ u, exec (.clearService dest) s = .next (ended dest 0x03 u (.accept false
        [f1 (bit s.inService), f2 s.calls.length, f2 s.agents.length, f2 s.notices.length])) ∧
      u.inService = false ∧ u.calls = [] ∧ u.agents = [] ∧ u.readyList = [] ∧ u.voices = [] ∧ u.notices = [] ∧
      u.noticesLost = false ∧ u.readies = s.readies ∧ u.arrivals = s.arrivals ∧
      (∀ slot, generationOf u slot =
        if (tableFind s.calls slot).isSome then (generationOf s slot + 1) % 32 else generationOf s slot) ∧
      (∀ q < 64, queueOf u q = { queueOf s q with
        waiting := [], cursor := 511, surge := false, aht16 := (queueOf s q).settings.ahtSeed * 16, counters := zeroCounters,
        intervalStart := s.now }) ∧
      (∀ k, clipOf u k = (clipOf s k).map fun c => { c with useCount := programRefs s k }) ∧
      u.freeDraws = s.freeDraws ∧ u.frameEnds = s.frameEnds ∧ u.sending = s.sending ∧
      outsideTraffic { u with inService := s.inService } = outsideTraffic s

/-- The read orders are answered in CONFIG and in SERVICE with the fields of their tables, each in its size, an absent field with its
absent value, and change nothing (R13, R25, R26, R48, R49, R108, R129, R130, R138, R158; what an absent optional clip of a defined
program reads is open, log 17), but for two clearings: READ ENGINE reports the engine's condition in 25 bytes and clears the
notices-lost flag once its reply is built (R171, R187); READ QUEUE STATISTICS with clear set reports the counters as they stood, then
zeroes them and starts the interval now, and leaves the rest of the queue (R107, R108). -/
def Obligations.ReadOrdersAnswerAndClearOnlyWhatTheySay : Prop :=
  (∀ s : State, takes s = true →
     (∀ q : BitVec 8, q.toNat < 64 → ∃ fs, exec (.readQueue q) s = .next (answered 0x12 s (.accept false fs)) ∧
       sizeOfFields fs = 57 ∧
       (let r := queueOf s q.toNat
        let x := r.settings
        fs = [f1 q.toNat, f1 (queueStateCode r.state), f4 x.requiredSkills.toNat, f1 (policyCode x.policy), f1 x.defaultPriority,
          f2 x.agingStep, f2 x.capacity, f2 x.offerTimeout, f1 (missActionCode x.missAction), f2 x.coolDown, f1 x.missLimit,
          f2 x.wrapAllowance, f2 x.surgeWrapAllowance, f2 x.extensionLength, f1 x.maxExtensions,
          f1 (if x.dispositionRequired then 1 else 0), f1 (if x.surgeTrim then 1 else 0), f1 (x.defaultProgram.getD 255),
          f2 x.firstAnnouncementDelay, f2 x.announcementInterval, f1 (x.overflowTarget.getD 255), f2 x.overflowWaitLimit,
          f2 x.surgeCount, f2 x.surgeWait, f2 x.serviceThreshold, f2 x.ahtSeed, f1 x.smoothingShift, f2 r.cursor,
          f1 (if r.surge then 1 else 0), f2 (r.waiting.length + s.calls.countP fun e => e.2.queue == q.toNat && isOffered e.2),
          f2 r.waiting.length, f2 (r.waiting.countP fun h => ((callOf s h).map isWaiting).getD false),
          f2 (r.waiting.countP fun h => ((callOf s h).map isDiverting).getD false),
          f2 (s.calls.countP fun e => e.2.queue == q.toNat && isOffered e.2)])) ∧
     (∀ q : BitVec 8, q.toNat < 64 → ∃ fs, exec (.readQueueStatistics q 0) s = .next (answered 0x13 s (.accept false fs)) ∧
       sizeOfFields fs = 46 ∧
       (let r := queueOf s q.toNat
        let k := r.counters
        fs = [f1 q.toNat, f4 r.intervalStart.toNat, f4 (s.now - r.intervalStart).toNat, f4 r.aht16,
          f2 (s.agents.countP fun e => decide (2 ≤ agentStateCode (some e.2) ∧
            ∀ i < 32, r.settings.requiredSkills.getLsbD i = true → e.2.skills.getLsbD i = true)),
          f2 (r.waiting.length + s.calls.countP fun e => e.2.queue == q.toNat && isOffered e.2), f2 r.waiting.length,
          f1 (if r.surge then 1 else 0),
          f4 (((r.waiting.head?.bind fun h => callOf s h).map fun c => (s.now - c.arrivalTime).toNat).getD 0), f2 k.arrived,
          f2 k.overflowedIn, f2 k.overflowedOut, f2 k.answered, f2 k.answeredWithin, f2 k.abandoned, f2 k.withdrawn,
          f2 k.missedOffers, f2 k.refusedOffers, f2 k.completed, f2 k.longestAnsweredWait])) ∧
     (∀ (q : BitVec 8) (first : BitVec 16) (n : BitVec 8), q.toNat < 64 → 1 ≤ first.toNat → first.toNat ≤ 2048 → n ≠ 0 →
       ∃ fs, exec (.readWaiting q first n) s = .next (answered 0x14 s (.accept (decide (16 < n.toNat)) fs)) ∧
         sizeOfFields fs = 4 + 14 * min (min n.toNat 16) ((waitingCalls s q.toNat).length - (first.toNat - 1))) ∧
     (∀ (h : BitVec 16) (c : Call), callOf s h.toNat = some c →
       ∃ fs, exec (.readCall h) s = .next (answered 0x27 s (.accept false fs)) ∧ sizeOfFields fs = 56 ∧
       fs = [f2 h.toNat, f4 c.tag.toNat, f1 (callStateCode c.status), f1 c.queue, f1 (c.originQueue.getD 255), f1 c.basePriority,
         f1 (effPriority s c), f4 ((c.extraSkills.map (·.toNat)).getD 0), f4 (c.arrivalSeq % 2 ^ 32), f4 c.arrivalTime.toNat,
         f4 (s.now - c.arrivalTime).toNat, f1 (c.program.getD 255), f1 (c.voice.getD 255),
         f1 ((if c.awaitingVoice then 1 else 0) + (match c.status with
           | .diverting true => 2
           | .offered _ (some _) => 4
           | .connected _ => 8
           | _ => 0) + if c.announceDue = none then 0 else 16),
         f1 c.exclusion.length, f2 (c.exclusion.getD 0 65535), f2 (c.exclusion.getD 1 65535), f2 (c.exclusion.getD 2 65535),
         f2 (c.exclusion.getD 3 65535),
         f2 (match c.status with
           | .offered a _ => a
           | _ => 65535),
         f4 (match c.status with
           | .offered _ (some d) => d.toNat
           | _ => 0),
         f4 (match c.status with
           | .connected t => t.toNat
           | _ => 0),
         f4 ((c.announceDue.map (·.toNat)).getD 0), f1 c.offerCount, f2 (if c.status = .waiting then rankOf s c else 0)]) ∧
     (∀ a : BitVec 16, a.toNat < 512 → ∃ fs, exec (.readAgent a) s = .next (answered 0x38 s (.accept false fs)) ∧
       sizeOfFields fs = 40 ∧
       (let noWrap := [f1 0, f4 0, f4 0, f4 0, f1 0, f2 0]
        (agentOf s a.toNat = none → fs =
          [f2 a.toNat, f1 0, f1 0, f4 0, f1 0, f1 0, f1 0, f2 0, f4 0, f4 0, f1 0, f2 0] ++ noWrap) ∧
        ∀ v, agentOf s a.toNat = some v →
          (let row (state flags reason pending call seq cool : Nat) := [f2 a.toNat, f1 state, f1 flags, f4 v.skills.toNat,
             f1 (if v.autoReady then 1 else 0), f1 reason, f1 pending, f2 call, f4 seq, f4 cool, f1 v.misses, f2 v.answered]
           (∀ r, v.status = .notReady r → fs = row 1 1 r 0 0 0 0 ++ noWrap) ∧
           (∀ n, v.status = .ready n none → fs = row 2 8 0 0 0 (n % 2 ^ 32) 0 ++ noWrap) ∧
           (∀ n d, v.status = .ready n (some d) → fs = row 2 24 0 0 0 (n % 2 ^ 32) d.toNat ++ noWrap) ∧
           (∀ h n, v.status = .offered h n → fs = row 3 12 0 0 h (n % 2 ^ 32) 0 ++ noWrap) ∧
           (∀ h p, v.status = .talking h p → fs = row 4 (if p = none then 4 else 6) 0 (p.getD 0) h 0 0 ++ noWrap) ∧
           ∀ w p, v.status = .wrap w p →
             fs = row 5 ((if p = none then 32 else 34) + if w.disposition = none then 0 else 64) 0 (p.getD 0) 0 0 0 ++
               [f1 w.queue, f4 w.talkTime.toNat, f4 w.start.toNat, f4 w.deadline.toNat, f1 w.extensions,
                 f2 ((w.disposition.map (·.toNat)).getD 0)]))) ∧
     (∀ (first : BitVec 16) (n : BitVec 8), first.toNat < 512 → n ≠ 0 →
       exec (.readAgentStates first n) s = .next (answered 0x39 s (.accept
         (decide (64 < n.toNat ∨ 512 < first.toNat + n.toNat))
         ([f2 first.toNat, f1 (min (min n.toNat 64) (512 - first.toNat))] ++
           (List.range (min (min n.toNat 64) (512 - first.toNat))).map fun i => f1 (agentStateByte s (first.toNat + i)))))) ∧
     (∀ (k : BitVec 8) (off : BitVec 32) (n : BitVec 8) (c : Clip), clipOf s k.toNat = some c → isLoading c = false →
       off.toNat < c.length → 1 ≤ n.toNat → n.toNat ≤ 240 →
       exec (.readClip k off n) s = .next (answered 0x45 s (.accept (decide (c.length < off.toNat + n.toNat))
         ([f1 k.toNat, f4 off.toNat, f1 (min n.toNat (c.length - off.toNat))] ++
           (List.range (min n.toNat (c.length - off.toNat))).map fun i =>
             f1 (sampleAt s (c.startPage * 512 + (off.toNat + i))).toNat)))) ∧
     (∀ k : BitVec 8, ∃ fs, exec (.readClipEntry k) s = .next (answered 0x46 s (.accept false fs)) ∧ sizeOfFields fs = 23 ∧
       (let refs := [f1 (s.programs.countP fun e => (programClips e.2).contains k.toNat),
          f1 (s.voices.countP fun e => e.2.clip == k.toNat)]
        (clipOf s k.toNat = none → fs = [f1 k.toNat, f1 0, f2 0, f4 0, f2 0, f1 0] ++ refs ++ [f4 0, f1 0, f4 0, f1 0]) ∧
        ∀ c, clipOf s k.toNat = some c →
          (let entry (state : Nat) := [f1 k.toNat, f1 state, f2 c.startPage, f4 c.length, f2 ((c.length + 511) / 512), f1 c.useCount] ++
             refs
           (∀ cursor x excess, c.status = .loading cursor x excess → fs = entry 1 ++ [f4 cursor, f1 x.toNat, f4 excess, f1 0]) ∧
           (c.status = .ready → fs = entry 2 ++ [f4 0, f1 0, f4 0, f1 0]) ∧
           (c.status = .faulty .short → fs = entry 3 ++ [f4 0, f1 0, f4 0, f1 1]) ∧
           (c.status = .faulty .check → fs = entry 3 ++ [f4 0, f1 0, f4 0, f1 2])))) ∧
     (∀ p : BitVec 8, p.toNat < 32 → ∃ fs, exec (.readProgram p) s = .next (answered 0x52 s (.accept false fs)) ∧
       sizeOfFields fs = 45 ∧
       (let use := [f1 ((sharedVoiceOf s p.toNat).getD 255), f1 (s.voices.countP fun e => e.2.program == p.toNat),
          f2 (s.calls.countP fun e => e.2.program == some p.toNat)]
        (programOf s p.toNat = none → fs = [f1 p.toNat, f1 0] ++ List.replicate 15 (f1 0) ++
          (List.replicate 8 [f2 0, f1 0]).flatten ++ use) ∧
        ∀ r, programOf s p.toNat = some r → ∃ a b c d : BitVec 8, fs = [f1 p.toNat, f1 1,
          f1 ((if r.introClip = none then 0 else 1) + (if r.exitClip = none then 0 else 2) + (if r.overClip = none then 0 else 4) +
            if r.noEstimateClip = none then 0 else 8),
          f1 (r.introClip.getD a.toNat), f1 (r.exitClip.getD b.toNat), f1 (r.overClip.getD c.toNat),
          f1 (r.noEstimateClip.getD d.toNat), f1 r.loop.length] ++ (List.range 8).map (fun i => f1 (r.loop.getD i 0)) ++
          [f1 r.bands.length] ++
          (List.range 8).flatMap (fun j => [f2 (r.bands.getD j (0, 0)).1, f1 (r.bands.getD j (0, 0)).2]) ++ use)) ∧
     ∀ v : BitVec 8, v.toNat < 128 → ∃ fs, exec (.readVoice v) s = .next (answered 0x53 s (.accept false fs)) ∧
       sizeOfFields fs = 15 ∧
       (voiceOf s v.toNat = none → fs = [f1 v.toNat, f1 0, f1 255, f2 0, f2 65535, f1 0, f1 0, f1 0, f4 0, f1 255]) ∧
       ∀ r, voiceOf s v.toNat = some r →
         (let rest := [f1 (match r.segment with
            | .intro => 1
            | .loop => 2
            | .announce _ => 3
            | .exit => 4), f1 r.loopIndex, f1 r.clip, f4 r.offset, f1 (match r.segment with
            | .announce i => i
            | _ => 255)]
          (∀ h, r.mode = .private_ h → fs = [f1 v.toNat, f1 1, f1 r.program, f2 1, f2 h] ++ rest) ∧
          ∀ n, r.mode = .shared n → fs = [f1 v.toNat, f1 2, f1 r.program, f2 n, f2 65535] ++ rest)) ∧
  (∀ s : State, takes s = true →
     exec .readEngine s = .next (transmit { s with
       noticesLost := false, replies := s.replies ++ [
     { frameClass := 2, kind := 0x04,
       body := f1 (statusByte s false) :: [f1 (bit s.inService), f1 (bit s.syncPresent), f4 s.now.toNat, f2 s.framePhase,
         f2 s.calls.length, f2 s.agents.length, f1 s.voices.length, f2 (silentCount s), f2 s.badCheck.toNat,
         f2 s.lengthErrors.toNat, f2 s.gapErrors.toNat, f2 s.overruns.toNat, f2 s.notices.length] }] }) ∧
     ∀ q : BitVec 8, q.toNat < 64 →
       ∃ u fs, exec (.readQueueStatistics q 1) s = .next (answered 0x13 u (.accept false fs)) ∧
         exec (.readQueueStatistics q 0) s = .next (answered 0x13 s (.accept false fs)) ∧
         queueOf u q.toNat = { queueOf s q.toNat with counters := zeroCounters, intervalStart := s.now } ∧
         (∀ j, j ≠ q.toNat → queueOf u j = queueOf s j) ∧ { u with queues := s.queues } = s)

/-! ### Queues -/

/-- SET QUEUE (R9, R10, R11, R100). A setting is stored as sent when it lies in its range and at the nearer end when it does not, and
the count of clamped settings is the number of those whose stored value is not the sent one: 0 exactly when every one was stored as
sent, at most 15. The settings that are not numbers, and those that take any value, are never clamped. When no field is refused, an
offering queue stops offering, the settings are stored, the average is reseeded from the new seed when asked, the reply tells the states
and how many settings were clamped, and nothing else changes. Otherwise the first field that fails its check refuses the order. -/
def Obligations.SetQueueStoresTheSettings : Prop :=
  (∀ f : QueueFields,
     (let q := storedSettings f
      q.requiredSkills = f.requiredSkills ∧ q.agingStep = f.agingStep.toNat ∧ q.surgeWait = f.surgeWait.toNat ∧
      q.serviceThreshold = f.serviceThreshold.toNat ∧
      q.defaultPriority = (if f.defaultPriority.toNat ≤ 127 then f.defaultPriority.toNat else 127) ∧
      q.capacity = (if f.capacity.toNat ≤ 2048 then f.capacity.toNat else 2048) ∧
      q.offerTimeout = (if f.offerTimeout.toNat = 0 then 0 else if f.offerTimeout.toNat < 50 then 50
        else if 600 < f.offerTimeout.toNat then 600 else f.offerTimeout.toNat) ∧
      q.coolDown = (if f.coolDown.toNat ≤ 600 then f.coolDown.toNat else 600) ∧
      q.missLimit = (if f.missLimit.toNat = 0 then 1 else if 15 < f.missLimit.toNat then 15 else f.missLimit.toNat) ∧
      q.wrapAllowance = (if f.wrapAllowance.toNat ≤ 6000 then f.wrapAllowance.toNat else 6000) ∧
      q.surgeWrapAllowance = (if f.surgeWrapAllowance.toNat ≤ 6000 then f.surgeWrapAllowance.toNat else 6000) ∧
      q.extensionLength = (if f.extensionLength.toNat < 10 then 10 else if 1200 < f.extensionLength.toNat then 1200
        else f.extensionLength.toNat) ∧
      q.maxExtensions = (if f.maxExtensions.toNat ≤ 7 then f.maxExtensions.toNat else 7) ∧
      q.firstAnnouncementDelay = (if f.firstAnnouncementDelay.toNat ≤ 36000 then f.firstAnnouncementDelay.toNat else 36000) ∧
      q.announcementInterval = (if f.announcementInterval.toNat = 0 then 0 else if f.announcementInterval.toNat < 150 then 150
        else if 36000 < f.announcementInterval.toNat then 36000 else f.announcementInterval.toNat) ∧
      q.overflowWaitLimit = (if f.overflowWaitLimit.toNat = 65535 then 65534 else f.overflowWaitLimit.toNat) ∧
      q.surgeCount = (if f.surgeCount.toNat ≤ 2048 then f.surgeCount.toNat else 2048) ∧
      q.ahtSeed = (if f.ahtSeed.toNat = 0 then 1 else f.ahtSeed.toNat) ∧
      q.smoothingShift = (if f.smoothingShift.toNat ≤ 7 then f.smoothingShift.toNat else 7) ∧
      q.defaultProgram = (if f.defaultProgram.toNat = 255 then none else some f.defaultProgram.toNat) ∧
      q.overflowTarget = (if f.overflowTarget.toNat = 255 then none else some f.overflowTarget.toNat) ∧
      (q.policy = .longestIdle ↔ f.policy.toNat = 0) ∧ (q.policy = .mostRecent ↔ f.policy.toNat = 1) ∧
      (q.policy = .rotate ↔ f.policy.toNat = 2) ∧ (q.missAction = .returnReady ↔ f.missAction.toNat = 0) ∧
      (q.dispositionRequired = true ↔ f.dispositionRequired.toNat = 1) ∧ (q.surgeTrim = true ↔ f.surgeTrim.toNat = 1)) ∧
     clampedCount f ≤ 15 ∧
     (let q := storedSettings f
      clampedCount f = [decide (q.defaultPriority ≠ f.defaultPriority.toNat), decide (q.capacity ≠ f.capacity.toNat),
        decide (q.offerTimeout ≠ f.offerTimeout.toNat), decide (q.coolDown ≠ f.coolDown.toNat),
        decide (q.missLimit ≠ f.missLimit.toNat), decide (q.wrapAllowance ≠ f.wrapAllowance.toNat),
        decide (q.surgeWrapAllowance ≠ f.surgeWrapAllowance.toNat), decide (q.extensionLength ≠ f.extensionLength.toNat),
        decide (q.maxExtensions ≠ f.maxExtensions.toNat), decide (q.firstAnnouncementDelay ≠ f.firstAnnouncementDelay.toNat),
        decide (q.announcementInterval ≠ f.announcementInterval.toNat),
        decide (q.overflowWaitLimit ≠ f.overflowWaitLimit.toNat), decide (q.surgeCount ≠ f.surgeCount.toNat),
        decide (q.ahtSeed ≠ f.ahtSeed.toNat), decide (q.smoothingShift ≠ f.smoothingShift.toNat)].countP id) ∧
     (clampedCount f = 0 ↔
       f.defaultPriority.toNat ≤ 127 ∧ f.capacity.toNat ≤ 2048 ∧
       (f.offerTimeout.toNat = 0 ∨ 50 ≤ f.offerTimeout.toNat ∧ f.offerTimeout.toNat ≤ 600) ∧ f.coolDown.toNat ≤ 600 ∧
       1 ≤ f.missLimit.toNat ∧ f.missLimit.toNat ≤ 15 ∧ f.wrapAllowance.toNat ≤ 6000 ∧ f.surgeWrapAllowance.toNat ≤ 6000 ∧
       10 ≤ f.extensionLength.toNat ∧ f.extensionLength.toNat ≤ 1200 ∧ f.maxExtensions.toNat ≤ 7 ∧
       f.firstAnnouncementDelay.toNat ≤ 36000 ∧
       (f.announcementInterval.toNat = 0 ∨ 150 ≤ f.announcementInterval.toNat ∧ f.announcementInterval.toNat ≤ 36000) ∧
       f.overflowWaitLimit.toNat ≤ 65534 ∧ f.surgeCount.toNat ≤ 2048 ∧ 1 ≤ f.ahtSeed.toNat ∧ f.smoothingShift.toNat ≤ 7)) ∧
  (∀ (f : QueueFields) (s : State), takes s = true →
     (let checks : List (Bool × Answer) :=
      [(decide (63 < f.queue.toNat), .refuse .badField 1 0), (decide (1 < f.reseed.toNat), .refuse .badField 2 0),
        (decide (3 < f.policy.toNat), .refuse .badField 4 0), (decide (1 < f.missAction.toNat), .refuse .badField 9 0),
        (decide (1 < f.dispositionRequired.toNat), .refuse .badField 16 0), (decide (1 < f.surgeTrim.toNat), .refuse .badField 17 0),
        (decide (32 ≤ f.defaultProgram.toNat ∧ f.defaultProgram.toNat ≤ 254), .refuse .badField 18 0),
        (decide (f.defaultProgram.toNat < 32 ∧ programOf s f.defaultProgram.toNat = none),
          .refuse .noSuch 18 f.defaultProgram.toNat),
        (decide (f.overflowTarget = f.queue ∨ 64 ≤ f.overflowTarget.toNat ∧ f.overflowTarget.toNat ≤ 254), .refuse .badField 21 0)]
      ∀ e, checks.find? (fun e => e.1) = some e → exec (.setQueue f) s = .next (answered 0x10 s e.2))) ∧
  (∀ (f : QueueFields) (s : State), takes s = true → f.queue.toNat < 64 → f.reseed.toNat ≤ 1 → f.policy.toNat ≤ 3 →
     f.missAction.toNat ≤ 1 → f.dispositionRequired.toNat ≤ 1 → f.surgeTrim.toNat ≤ 1 →
     (f.defaultProgram.toNat = 255 ∨ f.defaultProgram.toNat < 32 ∧ (programOf s f.defaultProgram.toNat).isSome) →
     (f.overflowTarget.toNat = 255 ∨ f.overflowTarget.toNat < 64 ∧ f.overflowTarget ≠ f.queue) →
     ∃ u, exec (.setQueue f) s = .next (answered 0x10 u (.accept (clampedCount f != 0)
         [f1 (queueStateCode (queueOf s f.queue.toNat).state), f1 (queueStateCode (queueOf u f.queue.toNat).state),
           f1 (clampedCount f)])) ∧
       queueOf u f.queue.toNat = { queueOf s f.queue.toNat with
         state := (match (queueOf s f.queue.toNat).state with
           | .opened => .paused
           | .draining => .closed
           | .paused => .paused
           | .closed => .closed)
         settings := storedSettings f
         aht16 := if f.reseed = 1 then (storedSettings f).ahtSeed * 16 else (queueOf s f.queue.toNat).aht16 } ∧
       (∀ q, q ≠ f.queue.toNat → queueOf u q = queueOf s q) ∧ { u with queues := s.queues } = s)

/-- SET QUEUE STATE (R8, R59), addressed and broadcast (R182): the queue takes the state; when it passes from a state that does not
offer into one that does, the reopening pass runs over it; a queue or a state that does not exist is refused. -/
def Obligations.SetQueueStateChangesOneQueue : Prop :=
  ∀ (dest : Dest) (q st : BitVec 8) (s : State), takes s = true →
    (q.toNat < 64 → st.toNat ≤ 3 →
      ∃ u, queueOf u q.toNat = { queueOf s q.toNat with state := queueStateOf st.toNat } ∧
        (∀ j, j ≠ q.toNat → queueOf u j = queueOf s j) ∧ { u with queues := s.queues } = s ∧
        exec (.setQueueState dest q st) s = .next (ended dest 0x11
          (if offering (queueOf s q.toNat).state = false ∧ (st = 0 ∨ st = 2) then reopeningPass q.toNat u else u)
          (.accept false [f1 (queueStateCode (queueOf s q.toNat).state), f1 st.toNat]))) ∧
    (64 ≤ q.toNat → exec (.setQueueState dest q st) s = .next (ended dest 0x11 s (.refuse .badField 1 0))) ∧
    (q.toNat < 64 → 3 < st.toNat → exec (.setQueueState dest q st) s = .next (ended dest 0x11 s (.refuse .badField 2 0)))

/-- The reopening pass takes the WAITING calls of its queue in the rank order computed once, at its start, each by call-side matching
(MatchingChoosesTheAgentAndTheCall). It leaves no WAITING call of its queue with a candidate, changes no queue's settings or state, and
touches no call that was not WAITING in that queue's list (R53, R59). -/
def Obligations.ReopeningPassLeavesNoPair : Prop :=
  (∀ (q : Nat) (s : State), reopeningPass q s = (rankOrder s q).foldl (fun t e => matchCall e.1 t) s) ∧
  ∀ (q : Nat) (s : State), offering (queueOf s q).state = true → (∀ e ∈ waitingCalls s q, e.2.queue = q) →
    (∀ e ∈ waitingCalls (reopeningPass q s) q, candidates (reopeningPass q s) e.2 = []) ∧
    (∀ j, (queueOf (reopeningPass q s) j).settings = (queueOf s j).settings ∧
      (queueOf (reopeningPass q s) j).state = (queueOf s j).state) ∧
    (∀ h, (∀ e ∈ waitingCalls s q, slotOf e.1 ≠ slotOf h) → callOf (reopeningPass q s) h = callOf s h)

/-! ### Statistics, ranks and admission -/

/-- The estimated wait for a rank p from 1 to 2048 (R102): 65,535 exactly when the staffed count is 0, and otherwise p times AHT16 over
16 N rounded up, saturated at 65,534; 0 only for an average of 0, rising with p and with the average, falling as N grows. N counts the
agents in READY, OFFERED, TALKING or WRAP whose skills cover the queue's required mask (R101). -/
def Obligations.EstimatedWaitForARank : Prop :=
  ∀ (s : State) (q p : Nat), 1 ≤ p →
    staffed s q = (s.agents.countP fun e =>
      (match e.2.status with
        | .notReady _ => false
        | .ready _ _ => true
        | .offered _ _ => true
        | .talking _ _ => true
        | .wrap _ _ => true) &&
        decide (∀ i < 32, (queueOf s q).settings.requiredSkills.getLsbD i = true → e.2.skills.getLsbD i = true)) ∧
    (ewt s q p = 65535 ↔ staffed s q = 0) ∧ ewt s q p ≤ 65535 ∧
    (staffed s q ≠ 0 →
      (∀ m, ewt s q p ≤ m ↔ 65534 ≤ m ∨ p * (queueOf s q).aht16 ≤ m * (16 * staffed s q)) ∧
      (ewt s q p = 0 ↔ (queueOf s q).aht16 = 0)) ∧
    (∀ p', p ≤ p' → ewt s q p ≤ ewt s q p') ∧
    (∀ (t : State) (r : Nat), staffed t r = staffed s q → (queueOf s q).aht16 ≤ (queueOf t r).aht16 → ewt s q p ≤ ewt t r p) ∧
    (∀ (t : State) (r : Nat), (queueOf t r).aht16 = (queueOf s q).aht16 → staffed s q ≤ staffed t r → ewt t r p ≤ ewt s q p) ∧
    (p ≤ 2048 → (queueOf s q).aht16 ≤ 1048560 → staffed s q ≤ 512 →
      p * (queueOf s q).aht16 ≤ 2147450880 ∧ p * (queueOf s q).aht16 + 16 * staffed s q - 1 < 2 ^ 31)

/-- The average handle time takes a sample (R98, R99): the difference times 1/2^k rounded toward minus infinity is added, so the new
value lies between the old one and sixteen times the sample, and equal samples settle it at most 2^k - 1 below and never above. -/
def Obligations.AverageTakesASample : Prop :=
  ∀ (old k sample : Nat),
    ((foldSample old k sample : Nat) : Int) = (old : Int) + ((sample * 16 : Int) - old) / 2 ^ k ∧
    (old ≤ sample * 16 → old ≤ foldSample old k sample ∧ foldSample old k sample ≤ sample * 16) ∧
    (sample * 16 ≤ old → sample * 16 ≤ foldSample old k sample ∧ foldSample old k sample ≤ old) ∧
    (sample * 16 < old → foldSample old k sample < old) ∧
    (old ≤ sample * 16 → sample * 16 < old + 2 ^ k → foldSample old k sample = old) ∧
    foldSample old 0 sample = sample * 16

/-- The rank order of a queue (R16, R17): the WAITING calls of its list and no others, each as often as it is listed, with none standing
ahead of one before it. The effective priority is the base priority, and with an aging step one more for each step waited, to 255 at
most. The rank of a call is one more than the number of WAITING calls of its queue ahead of it, and READ WAITING returns the page of
that order from its first rank on (R26). -/
def Obligations.RankOrderSortsTheWaitingCalls : Prop :=
  (∀ (s : State) (q : Nat), (rankOrder s q).Perm (waitingCalls s q) ∧
    (rankOrder s q).Pairwise (fun x y => ahead s y.2 x.2 = false)) ∧
  (∀ (s : State) (c d : Call), ahead s c d = true ↔
    effPriority s d < effPriority s c ∨ (effPriority s c = effPriority s d ∧ c.arrivalSeq < d.arrivalSeq)) ∧
  (∀ (s : State) (c : Call), effPriority s c = if (queueOf s c.queue).settings.agingStep = 0 then c.basePriority
    else min 255 (c.basePriority + (s.now - c.arrivalTime).toNat / (queueOf s c.queue).settings.agingStep)) ∧
  (∀ (s : State) (c : Call), rankOf s c = 1 + ((waitingCalls s c.queue).filter fun e => ahead s e.2 c).length ∧
    (c.basePriority ≤ 255 → c.basePriority ≤ effPriority s c ∧ effPriority s c ≤ 255)) ∧
  ∀ (s : State) (q : BitVec 8) (first : BitVec 16) (n : BitVec 8), takes s = true → q.toNat < 64 → 1 ≤ first.toNat →
    first.toNat ≤ 2048 → n ≠ 0 →
    exec (.readWaiting q first n) s = .next (answered 0x14 s (.accept (decide (16 < n.toNat))
      (let page := ((rankOrder s q.toNat).drop (first.toNat - 1)).take (min n.toNat 16)
       [f1 q.toNat, f2 (waitingCalls s q.toNat).length, f1 page.length] ++
        (page.zipIdx first.toNat).flatMap fun x =>
          [f2 x.2, f2 x.1.1, f4 x.1.2.tag.toNat, f1 (effPriority s x.1.2), f4 (s.now - x.1.2.arrivalTime).toNat,
            f1 x.1.2.offerCount])))

/-- The overflow decision (R15, R20): with no target, or when neither case for overflow holds, the call goes to the named queue if that
admits and has room; it goes to the target exactly when the target admits and has room and either the named queue cannot take it, or
its wait limit is on, the estimate there exceeds it and the target's estimate is smaller; and otherwise it is refused CLOSED or
NO_ROOM. -/
def Obligations.OverflowDecisionChoosesTheQueue : Prop :=
  ∀ (s : State) (q base : Nat),
    (∀ t, (queueOf s q).settings.overflowTarget = some t →
      (overflowDecision s q base = .inl (t, true) ↔
        (admitting (queueOf s t).state = true ∧ occupancy s t < (queueOf s t).settings.capacity) ∧
        ((admitting (queueOf s q).state = false ∨ (queueOf s q).settings.capacity ≤ occupancy s q) ∨
          ((queueOf s q).settings.overflowWaitLimit ≠ 0 ∧
            (queueOf s q).settings.overflowWaitLimit < ewt s q (newRank s q base) ∧
            ewt s t (newRank s t base) < ewt s q (newRank s q base))))) ∧
    ((∀ t, overflowDecision s q base ≠ .inl (t, true)) →
      (admitting (queueOf s q).state = true → occupancy s q < (queueOf s q).settings.capacity →
        overflowDecision s q base = .inl (q, false)) ∧
      (admitting (queueOf s q).state = true → (queueOf s q).settings.capacity ≤ occupancy s q →
        overflowDecision s q base = .inr (.refuse .noRoom 2 (occupancy s q))) ∧
      (admitting (queueOf s q).state = false →
        overflowDecision s q base = .inr (.refuse .closed 2 (queueStateCode (queueOf s q).state)))) ∧
    ((queueOf s q).settings.overflowTarget = none → ∀ t, overflowDecision s q base ≠ .inl (t, true))

/-- ENQUEUE (R3, R18 to R22): with the fields in order, a FREE slot and a queue that takes the call, the lowest FREE slot holds the call
as the order and the named queue give it, at the tail of the chosen queue's waiting list, which the surge monitor evaluates (R109), and
is counted, and last it is attached to a voice, if it has a program; its rank, its estimate, its voice and whether it was offered are
told. `w` is the state when it is attached (AttachingGivesAVoiceOrSilence), with the voices and clips as they were, and `u` the state
when matching begins. Before that the first failing check of the queue, the program and the FREE slots refuses it, and then a decision
against it is the refusal. -/
def Obligations.EnqueueAdmitsTheCall : Prop :=
  (∀ (tag : BitVec 32) (queue options priority : BitVec 8) (skills : BitVec 32) (program : BitVec 8) (s : State),
    takes s = true → s.inService = true →
    (let checks : List (Bool × Answer) :=
     [(decide (63 < queue.toNat), .refuse .badField 2 0),
       (decide (options.getLsbD 2 = true ∧ 32 ≤ program.toNat ∧ program.toNat ≤ 254), .refuse .badField 6 0),
       (decide (options.getLsbD 2 = true ∧ program.toNat < 32 ∧ programOf s program.toNat = none),
         .refuse .noSuch 6 program.toNat),
       ((List.range 2048).all fun k => (tableFind s.calls k).isSome, .refuse .noRoom 0 2048)]
     ∀ e, checks.find? (fun e => e.1) = some e →
       exec (.enqueue tag queue options priority skills program) s = .next (answered 0x20 s e.2))) ∧
  ∀ (tag : BitVec 32) (queue options priority : BitVec 8) (skills : BitVec 32) (program : BitVec 8) (s : State)
    (slot base : Nat),
    takes s = true → s.inService = true → queue.toNat < 64 →
    (options.getLsbD 2 = true → program.toNat = 255 ∨ program.toNat < 32 ∧ (programOf s program.toNat).isSome) →
    slot < 2048 → tableFind s.calls slot = none → (∀ k < slot, tableFind s.calls k ≠ none) →
    base = (if options.getLsbD 0 then min 127 priority.toNat else (queueOf s queue.toNat).settings.defaultPriority) →
    (∀ r, overflowDecision s queue.toNat base = .inr r →
      exec (.enqueue tag queue options priority skills program) s = .next (answered 0x20 s r)) ∧
    (∀ chosen moved, overflowDecision s queue.toNat base = .inl (chosen, moved) → base ≤ 127 →
      (∀ e ∈ waitingCalls s chosen, e.2.arrivalSeq < s.arrivals) →
      ∃ w u c record, exec (.enqueue tag queue options priority skills program) s =
          .next (answered 0x20 (matchCall (handleOf s slot) u) (.accept (options.getLsbD 0 && decide (127 < priority.toNat))
            [f2 (handleOf s slot), f1 chosen, f1 (if moved then 1 else 0), f2 (newRank s chosen base),
              f2 (ewt s chosen (newRank s chosen base)), f1 (orElse c.voice 255),
              f1 (bit (offeredNow (matchCall (handleOf s slot) u) (handleOf s slot)))])) ∧
        callOf u (handleOf s slot) = some c ∧ withoutAudio c = record ∧
        (record : Call) =
        { tag := tag, status := .waiting, queue := chosen,
          originQueue := if moved then some queue.toNat else none, basePriority := base,
          extraSkills := if options.getLsbD 1 then some skills else none, arrivalSeq := s.arrivals, arrivalTime := s.now,
          program := if options.getLsbD 3 then none else if options.getLsbD 2 then
              (if program.toNat = 255 then none else some program.toNat)
            else (queueOf s queue.toNat).settings.defaultProgram,
          voice := none, awaitingVoice := false, exclusion := [], announceDue := none, offerCount := 0 } ∧
        u = attach (handleOf s slot) w ∧ callOf w (handleOf s slot) = some record ∧
        (∀ k, slotOf k ≠ slot → callOf w k = callOf s k) ∧ w.voices = s.voices ∧ w.clips = s.clips ∧ w.programs = s.programs ∧
        { u with calls := w.calls, voices := w.voices, clips := w.clips } = w ∧ (record.program = none → u = w) ∧
        u.arrivals = s.arrivals + 1 ∧
        (queueOf u chosen).waiting = (queueOf s chosen).waiting ++ [handleOf s slot] ∧
        (queueOf u chosen).counters.arrived = min ((queueOf s chosen).counters.arrived + 1) 65535 ∧
        (∀ q, q ≠ chosen → (queueOf u q).waiting = (queueOf s q).waiting ∧
          (queueOf u q).counters.arrived = (queueOf s q).counters.arrived) ∧
        SurgeEvaluated s u chosen ∧ withoutWraps u.due = withoutWraps s.due ∧
        (∀ q, withoutTraffic (queueOf u q) = withoutTraffic (queueOf s q) ∧
          { (queueOf u q).counters with arrived := 0, overflowedIn := 0, overflowedOut := 0 } =
            { (queueOf s q).counters with arrived := 0, overflowedIn := 0, overflowedOut := 0 } ∧
          (q ≠ chosen → (queueOf u q).surge = (queueOf s q).surge) ∧
          (q ≠ chosen ∨ moved = false →
            (queueOf u q).counters.overflowedIn = (queueOf s q).counters.overflowedIn) ∧
          (q ≠ queue.toNat ∨ moved = false →
            (queueOf u q).counters.overflowedOut = (queueOf s q).counters.overflowedOut)) ∧
        (∀ k, slotOf k ≠ slot → callOf u k = callOf s k) ∧
        (∀ a, (agentOf u a).map withoutDeadline = (agentOf s a).map withoutDeadline) ∧
        u.readyList = s.readyList ∧ u.generations = s.generations ∧
        (moved = true → chosen ≠ queue.toNat →
          (queueOf u chosen).counters.overflowedIn = min ((queueOf s chosen).counters.overflowedIn + 1) 65535 ∧
          (queueOf u queue.toNat).counters.overflowedOut =
            min ((queueOf s queue.toNat).counters.overflowedOut + 1) 65535) ∧
        outsideTraffic u = outsideTraffic s)

/-! ### Calls -/

/-- A freed slot's generation advances by one modulo 32 and its old handle is stale (R4); every order that names a call by a stale
handle is refused NO_SUCH with the handle as received, and in CONFIG so is READ CALL (R2, R25). -/
def Obligations.StaleHandlesAreRefused : Prop :=
  (∀ (c : Instr) (h : BitVec 16) (kind : Nat) (s : State), handleKind c = some (h, kind) → takes s = true →
    (s.inService = true ∨ kind = 0x27) → callOf s h.toNat = none →
    exec c s = .next (answered kind s (.refuse .noSuch 1 h.toNat))) ∧
  (∀ (h : Nat) (s : State), callOf (freeCall s h) h = none ∧
    generationOf (freeCall s h) (slotOf h) = (generationOf s (slotOf h) + 1) % 32 ∧
    tableFind (freeCall s h).calls (slotOf h) = none ∧
    (∀ k, slotOf k ≠ slotOf h → callOf (freeCall s h) k = callOf s k) ∧
    { freeCall s h with calls := s.calls, generations := s.generations } = s) ∧
  ∀ (s : State) (h : Nat) (c : Call), callOf s h = some c ↔
    tableFind s.calls (h % 2048) = some c ∧ generationOf s (h % 2048) = h / 2048

/-- REMOVE of a WAITING or DIVERTING call (R23, R24, R105): it leaves its waiting list, is taken off its voice, which becomes FREE or,
SHARED, keeps its other listeners (R145), is counted by its cause and is freed, so that its handle is stale, and the surge monitor
evaluates its queue (R109); a CONNECTED call and a cause other than 1 and 2 are refused. REMOVE of an OFFERED call besides returns the
agent with the ready sequence it kept and tells the host (R70, R72); the agent is then matched. -/
def Obligations.RemoveFreesTheCall : Prop :=
  ∀ (h : BitVec 16) (cause : BitVec 8) (c : Call) (s : State), takes s = true → s.inService = true →
    callOf s h.toNat = some c →
    (cause ≠ 1 → cause ≠ 2 → exec (.remove h cause) s = .next (answered 0x21 s (.refuse .badField 2 0))) ∧
    (cause = 1 ∨ cause = 2 →
      (∀ t, c.status = .connected t → exec (.remove h cause) s = .next (answered 0x21 s (.refuse .wrongState 1 4))) ∧
      (isWaiting c = true ∨ isDiverting c = true →
        ∃ u, exec (.remove h cause) s =
            .next (answered 0x21 u (.accept false [f2 h.toNat, f1 (callStateCode c.status)])) ∧
          callOf u h.toNat = none ∧ generationOf u (slotOf h.toNat) = (generationOf s (slotOf h.toNat) + 1) % 32 ∧
          (queueOf u c.queue).waiting = (queueOf s c.queue).waiting.erase h.toNat ∧
          (cause = 1 → (queueOf u c.queue).counters = { (queueOf s c.queue).counters with
            abandoned := min ((queueOf s c.queue).counters.abandoned + 1) 65535 }) ∧
          (cause = 2 → (queueOf u c.queue).counters = { (queueOf s c.queue).counters with
            withdrawn := min ((queueOf s c.queue).counters.withdrawn + 1) 65535 }) ∧
          SurgeEvaluated s u c.queue ∧ TakenOffVoice s u h.toNat c ∧ withoutWraps u.due = withoutWraps s.due ∧
          withoutTraffic (queueOf u c.queue) = withoutTraffic (queueOf s c.queue) ∧
          (∀ q, q ≠ c.queue → queueOf u q = queueOf s q) ∧
          (∀ k, slotOf k ≠ slotOf h.toNat → (callOf u k).map withoutAudio = (callOf s k).map withoutAudio) ∧
          (∀ b, (agentOf u b).map withoutDeadline = (agentOf s b).map withoutDeadline) ∧
          u.readyList = s.readyList ∧ u.arrivals = s.arrivals ∧ outsideTraffic u = outsideTraffic s) ∧
      (∀ a d v n, c.status = .offered a d → agentOf s a = some v → v.status = .offered h.toNat n →
        ∃ u, exec (.remove h cause) s = .next (answered 0x21 (matchAgent a u) (.accept false [f2 h.toNat, f1 3])) ∧
          callOf u h.toNat = none ∧ agentOf u a = some { v with status := .ready n none } ∧ a ∈ u.readyList ∧
          SurgeEvaluated s u c.queue ∧ TakenOffVoice s u h.toNat c ∧ withoutWraps u.due = withoutWraps s.due ∧
          withoutTraffic (queueOf u c.queue) = withoutTraffic (queueOf s c.queue) ∧
          u.readies = s.readies ∧ (queueOf u c.queue).waiting = (queueOf s c.queue).waiting ∧
          (cause = 1 → (queueOf u c.queue).counters = { (queueOf s c.queue).counters with
            abandoned := min ((queueOf s c.queue).counters.abandoned + 1) 65535 }) ∧
          (cause = 2 → (queueOf u c.queue).counters = { (queueOf s c.queue).counters with
            withdrawn := min ((queueOf s c.queue).counters.withdrawn + 1) 65535 }) ∧
          (s.notices.length < 250 →
          { frameClass := 4, kind := 0x82, body :=
            [f4 s.now.toNat, f2 h.toNat, f4 c.tag.toNat, f2 a, f1 c.queue, f1 1, f1 2] } ∈ u.notices) ∧
          (∀ k, slotOf k ≠ slotOf h.toNat → (callOf u k).map withoutAudio = (callOf s k).map withoutAudio) ∧
          (∀ b, b ≠ a → (agentOf u b).map withoutDeadline = (agentOf s b).map withoutDeadline) ∧
          (∀ q, q ≠ c.queue → queueOf u q = queueOf s q) ∧ outsideTraffic u = outsideTraffic s))

/-- ANSWER (R64, R65, R75, R106): of a call OFFERED to the named agent it connects the two, sets the agent's misses to 0, counts the
answer and its wait, and takes the call off its voice (R145); of a call that is not OFFERED to that agent it is refused TOO_LATE, or
WRONG_STATE when the call is CONNECTED, with the call's state and agent. -/
def Obligations.AnswerConnectsTheCall : Prop :=
  ∀ (h a : BitVec 16) (c : Call) (s : State), takes s = true → s.inService = true → callOf s h.toNat = some c →
    a.toNat < 512 →
    (∀ d v, c.status = .offered a.toNat d → agentOf s a.toNat = some v →
      ∃ u, exec (.answer h a) s = .next (answered 0x22 u (.accept false [f2 h.toNat, f2 a.toNat, f4 (s.now - c.arrivalTime).toNat,
          f1 (if (s.now - c.arrivalTime).toNat ≤ (queueOf s c.queue).settings.serviceThreshold then 1 else 0)])) ∧
        callOf u h.toNat = some { c with
          status := .connected s.now, voice := none, awaitingVoice := false,
          announceDue := if c.voice.isSome then none else c.announceDue } ∧
        agentOf u a.toNat = some { v with status := .talking h.toNat none, misses := 0, answered := min (v.answered + 1) 65535 } ∧
        queueOf u c.queue = { queueOf s c.queue with
          counters := { (queueOf s c.queue).counters with
          answered := min ((queueOf s c.queue).counters.answered + 1) 65535
          answeredWithin := if (s.now - c.arrivalTime).toNat ≤ (queueOf s c.queue).settings.serviceThreshold
            then min ((queueOf s c.queue).counters.answeredWithin + 1) 65535 else (queueOf s c.queue).counters.answeredWithin
          longestAnsweredWait := max (queueOf s c.queue).counters.longestAnsweredWait
            (min (s.now - c.arrivalTime).toNat 65535) } } ∧
        TakenOffVoice s u h.toNat { c with awaitingVoice := false } ∧
        (∀ q, q ≠ c.queue → queueOf u q = queueOf s q) ∧
        (∀ b, b ≠ a.toNat → agentOf u b = agentOf s b) ∧
        (∀ k, slotOf k ≠ slotOf h.toNat → (callOf u k).map withoutAudio = (callOf s k).map withoutAudio) ∧
        u.readyList = s.readyList ∧ u.due = s.due ∧ outsideTraffic u = outsideTraffic s) ∧
    (∀ b d, c.status = .offered b d → b ≠ a.toNat →
      exec (.answer h a) s = .next (answered 0x22 s (.refuse .tooLate 1 (3 * 65536 + b)))) ∧
    (isWaiting c = true ∨ isDiverting c = true →
      exec (.answer h a) s = .next (answered 0x22 s (.refuse .tooLate 1 (callStateCode c.status * 65536 + 65535)))) ∧
    (∀ t, c.status = .connected t →
      exec (.answer h a) s = .next (answered 0x22 s (.refuse .wrongState 1 (4 * 65536 + (agentHolding s h.toNat).getD 65535))))

/-- REFUSE OFFER (R14, R66, R67, R73): before matching, the call is WAITING again, at its arrival place in its list, which the surge
monitor evaluates (R109), with the agent excluded, the refusal is counted for the queue, and the agent is NOT_READY with the reason it
gave, or at the back of the ready list, in cool-down when the queue has one, with its misses as they were. Then the call is matched and,
when it may be, the agent. -/
def Obligations.RefuseOfferReturnsTheCall : Prop :=
  ∀ (h a : BitVec 16) (present reason : BitVec 8) (c : Call) (v : Agent) (d : Option Time) (n : Nat) (s : State),
    takes s = true → s.inService = true → callOf s h.toNat = some c → a.toNat < 512 → c.status = .offered a.toNat d →
    agentOf s a.toNat = some v → v.status = .offered h.toNat n → (present = 0 ∨ present = 1 ∧ reason.toNat ≤ 199) →
    ∃ u t, t = offerAgent a.toNat (matchCall h.toNat u) ∧
      exec (.refuseOffer h a present reason) s = .next (answered 0x23 t (.accept false [f2 h.toNat, f2 a.toNat,
        f1 (((callOf t h.toNat).map fun e => callStateCode e.status).getD 0), f1 (agentStateCode (agentOf t a.toNat))])) ∧
      callOf u h.toNat = some { c with
        status := .waiting, exclusion := c.exclusion.drop (c.exclusion.length - 3) ++ [a.toNat] } ∧
      rejoins s u h.toNat c ∧ SurgeEvaluated s u c.queue ∧ withoutWraps u.due = withoutWraps s.due ∧
      withoutTraffic (queueOf u c.queue) = withoutTraffic (queueOf s c.queue) ∧
      (queueOf u c.queue).counters = { (queueOf s c.queue).counters with
        refusedOffers := min ((queueOf s c.queue).counters.refusedOffers + 1) 65535 } ∧
      (present = 1 → agentOf u a.toNat = some { v with status := .notReady reason.toNat } ∧ u.readyList = s.readyList) ∧
      (present = 0 → agentOf u a.toNat = some { v with
          status := .ready s.readies (if (queueOf s c.queue).settings.coolDown = 0 then none
            else some (s.now + BitVec.ofNat 32 (queueOf s c.queue).settings.coolDown)) } ∧
        u.readyList = s.readyList ++ [a.toNat] ∧ u.readies = s.readies + 1) ∧
      (∀ k, slotOf k ≠ slotOf h.toNat → callOf u k = callOf s k) ∧
      (∀ b, b ≠ a.toNat → (agentOf u b).map withoutDeadline = (agentOf s b).map withoutDeadline) ∧
      (∀ q, q ≠ c.queue → queueOf u q = queueOf s q) ∧ outsideMatching u = outsideMatching s

/-- RELEASE (R79 to R82, R105): of a CONNECTED call it frees the call, counts it completed and puts its agent into WRAP for the call's
queue with the allowance the queue's surge flag gives, any pending reason kept; with an allowance of 0 the wrap ends at once as an
expiry. Of any other call it is refused WRONG_STATE with the call's state. -/
def Obligations.ReleaseStartsTheWrap : Prop :=
  ∀ (h : BitVec 16) (c : Call) (s : State), takes s = true → s.inService = true → callOf s h.toNat = some c →
    (∀ t a v p, c.status = .connected t → agentHolding s h.toNat = some a → agentOf s a = some v → v.status = .talking h.toNat p →
      ∃ u w, w.queue = c.queue ∧ w.talkTime = s.now - t ∧ w.start = s.now ∧ w.extensions = 0 ∧ w.disposition = none ∧
        w.deadline = s.now + BitVec.ofNat 32 (if (queueOf s c.queue).surge
          then min (queueOf s c.queue).settings.wrapAllowance (queueOf s c.queue).settings.surgeWrapAllowance
          else (queueOf s c.queue).settings.wrapAllowance) ∧
        agentOf u a = some { v with status := .wrap w p } ∧ callOf u h.toNat = none ∧
        (queueOf u c.queue) = { queueOf s c.queue with
          counters := { (queueOf s c.queue).counters with
          completed := min ((queueOf s c.queue).counters.completed + 1) 65535 } } ∧
        (∀ q, q ≠ c.queue → queueOf u q = queueOf s q) ∧ (∀ b, b ≠ a → agentOf u b = agentOf s b) ∧
        (∀ k, slotOf k ≠ slotOf h.toNat → callOf u k = callOf s k) ∧
        { u with calls := s.calls, generations := s.generations, queues := s.queues, agents := s.agents } = s ∧
        (wrapAllowanceOf (queueOf s c.queue) ≠ 0 → exec (.release h) s = .next (answered 0x24 u (.accept false
          [f2 h.toNat, f2 a, f4 (s.now - t).toNat, f2 (wrapAllowanceOf (queueOf s c.queue)), f4 w.deadline.toNat, f1 5, f1 0]))) ∧
        (wrapAllowanceOf (queueOf s c.queue) = 0 → ∃ x, x = expireWrap a { v with status := .wrap w p } w p u ∧
          exec (.release h) s = .next (answered 0x24 x (.accept false [f2 h.toNat, f2 a, f4 (s.now - t).toNat, f2 0,
            f4 s.now.toNat, f1 (agentStateCode (agentOf x a)), f1 (if agentStateCode (agentOf x a) = 3 then 1 else 0)])))) ∧
    (callStateCode c.status ≠ 4 →
      exec (.release h) s = .next (answered 0x24 s (.refuse .wrongState 1 (callStateCode c.status))))

/-- DIVERT and CANCEL DIVERT of calls in the right state (R14, R153 to R155). DIVERT makes a WAITING call DIVERTING with its
awaiting-voice flag clear. On a PRIVATE voice with an exit clip in its program the voice jumps to it and the announcement due stands.
From a SHARED voice with an exit clip the call is detached and the lowest FREE voice is PRIVATE for it in EXIT, with its announcement
due set (the loop index of that voice is open, log 10). With no FREE voice then, no voice before, or no exit clip, the divert is done at
once, with a notice and no voice: a call whose program has no exit clip is taken off the voice it has (R145). CANCEL DIVERT makes a
DIVERTING call WAITING, puts its exit voice back to the first loop clip, or attaches it anew when it has no voice, and matches it. The
use counts follow the clips (R121). Neither moves the call in its waiting list. Calls in the wrong state are refused WRONG_STATE with
their state. -/
def Obligations.DivertAndCancelDivert : Prop :=
  (∀ (s : State) (c : Call) (p k : Nat), exitOf s c = some (p, k) ↔
    c.program = some p ∧ ∃ r, programOf s p = some r ∧ r.exitClip = some k) ∧
  ∀ (h : BitVec 16) (c : Call) (s : State), takes s = true → s.inService = true → callOf s h.toNat = some c →
    (isWaiting c = true →
      ∃ u d, exec (.divert h) s = .next (answered 0x25 u (.accept false
          [f2 h.toNat, f1 (if d.voice.isSome then 1 else 0), f1 (d.voice.getD 255)])) ∧
        callOf u h.toNat = some d ∧ isDiverting d = true ∧ d.awaitingVoice = false ∧
        withoutAudio d = withoutAudio { c with status := .diverting false } ∧
        (let atOnce := d.status = .diverting true ∧ d.voice = none ∧
           (s.notices.length < 250 →
           { frameClass := 4, kind := 0x87, body :=
             [f4 s.now.toNat, f2 h.toNat, f4 c.tag.toNat, f1 c.queue, f1 0] } ∈ u.notices)
         (exitOf s c = none ∨ c.voice = none → atOnce ∧
           TakenOffVoice s u h.toNat { c with status := .diverting false, awaitingVoice := false }) ∧
         (∀ p k v r, exitOf s c = some (p, k) → c.voice = some v → voiceOf s v = some r → r.mode = .private_ h.toNat →
           d = { c with status := .diverting false, awaitingVoice := false } ∧ u.notices = s.notices ∧
           voiceOf u v = some { r with segment := .exit, clip := k, offset := 0 } ∧
           (∀ w, w ≠ v → voiceOf u w = voiceOf s w) ∧ (k = r.clip → u.clips = s.clips) ∧
           (k ≠ r.clip → ∀ j, clipOf u j = (clipOf s j).map (movedUse (some r.clip) (some k) j))) ∧
         (∀ p k v r n, exitOf s c = some (p, k) → c.voice = some v → voiceOf s v = some r → r.mode = .shared n →
           (let w := detach h.toNat (setCallRec s h.toNat { c with status := .diverting false, awaitingVoice := false })
            (∀ x, lowestFreeVoice w = some x →
              d = { c with
                status := .diverting false, awaitingVoice := false, voice := some x,
                announceDue := some (s.now + BitVec.ofNat 32 (queueOf s c.queue).settings.firstAnnouncementDelay) } ∧
              (∃ i < 8, voiceOf u x = some
              { program := p, mode := .private_ h.toNat, segment := .exit, loopIndex := i, clip := k, offset := 0 }) ∧
              (∀ y, y ≠ x → voiceOf u y = voiceOf w y) ∧ (∀ j, clipOf u j = (clipOf w j).map (movedUse none (some k) j)) ∧
              u.notices = w.notices) ∧
            (lowestFreeVoice w = none → atOnce ∧ u.voices = w.voices ∧ u.clips = w.clips)))) ∧
        u.queues = s.queues ∧ u.agents = s.agents ∧
        (∀ j, slotOf j ≠ slotOf h.toNat → (callOf u j).map withoutAudio = (callOf s j).map withoutAudio) ∧
        (∀ j, (clipOf u j).map withoutUse = (clipOf s j).map withoutUse) ∧
        outsideAudio { u with freeDraws := s.freeDraws } = outsideAudio s) ∧
    (isDiverting c = true →
      ∃ u d, exec (.cancelDivert h) s = .next (answered 0x26 (matchCall h.toNat u) (.accept false
          [f2 h.toNat, f1 (d.voice.getD 255), f1 (if d.awaitingVoice then 1 else 0),
            f1 (bit (offeredNow (matchCall h.toNat u) h.toNat))])) ∧
        callOf u h.toNat = some d ∧ isWaiting d = true ∧ withoutAudio d = withoutAudio { c with status := .waiting } ∧
        (∀ v r p, c.voice = some v → voiceOf s v = some r → programOf s r.program = some p →
          d = { c with status := .waiting } ∧
          voiceOf u v = some { r with segment := .loop, loopIndex := 0, clip := p.loop.getD 0 0, offset := 0 } ∧
          (∀ w, w ≠ v → voiceOf u w = voiceOf s w) ∧ (p.loop.getD 0 0 = r.clip → u.clips = s.clips) ∧
          (p.loop.getD 0 0 ≠ r.clip → ∀ j, clipOf u j = (clipOf s j).map (movedUse (some r.clip) (some (p.loop.getD 0 0)) j))) ∧
        (c.voice = none → u = attach h.toNat (setCallRec s h.toNat { c with status := .waiting })) ∧
        u.queues = s.queues ∧ u.agents = s.agents ∧
        (∀ j, slotOf j ≠ slotOf h.toNat → callOf u j = callOf s j) ∧
        (∀ j, (clipOf u j).map withoutUse = (clipOf s j).map withoutUse) ∧ outsideAudio u = outsideAudio s) ∧
    (isWaiting c = false →
      exec (.divert h) s = .next (answered 0x25 s (.refuse .wrongState 1 (callStateCode c.status)))) ∧
    (isDiverting c = false →
      exec (.cancelDivert h) s = .next (answered 0x26 s (.refuse .wrongState 1 (callStateCode c.status))))

/-! ### Agents, matching and offers -/

/-- LOGIN, SET READY and SET SKILLS (R33, R36, R39, R41, R42): LOGIN makes a LOGGED_OUT agent NOT_READY with the reason, or READY at the
back of the ready list; SET READY makes a NOT_READY agent READY there, its misses kept; SET SKILLS changes the mask alone. An agent
that is READY and in no cool-down is then matched, and the reply tells its state and whether this matching made an offer: the offer of an
agent that was OFFERED before SET SKILLS is none. The end of a cool-down (R44), while sync is PRESENT, takes the end away, keeps the ready
sequence and the place, and the agent is matched in the same way. -/
def Obligations.AgentsBecomeAvailableAndAreMatched : Prop :=
  (∀ (a : BitVec 16) (s : State) (v : Agent) (n : Nat) (d : Time),
    running s = true → s.syncPresent = true → s.due.coolDowns.contains a.toNat = true → agentOf s a.toNat = some v →
    v.status = .ready n (some d) → reached s.now d = true →
    ∃ u, exec (.coolDownEnd a) s = .next (settle (matchAgent a.toNat u)) ∧
      agentOf u a.toNat = some { v with status := .ready n none } ∧
      (∀ b, b ≠ a.toNat → agentOf u b = agentOf s b) ∧
      { u with agents := s.agents, due := s.due } = s) ∧
  ∀ (a : BitVec 16) (m : BitVec 32) (auto reason : BitVec 8) (s : State), takes s = true → s.inService = true → a.toNat < 512 →
    let told (matched : Bool) (t : State) : Answer := .accept false [f2 a.toNat, f1 (agentStateCode (agentOf t a.toNat)),
      f1 (if matched = true ∧ agentStateCode (agentOf t a.toNat) = 3 then 1 else 0)]
    (agentOf s a.toNat = none → auto.toNat ≤ 1 →
      (reason.toNat ≤ 199 → ∃ u, exec (.login a m auto 1 reason) s =
          .next (answered 0x30 u (.accept false [f2 a.toNat, f1 1, f1 0])) ∧
        agentOf u a.toNat = some
        { status := .notReady reason.toNat, skills := m, autoReady := decide (auto = 1), misses := 0,
          answered := 0 } ∧
        (∀ b, b ≠ a.toNat → agentOf u b = agentOf s b) ∧ { u with agents := s.agents } = s) ∧
      ∃ u, exec (.login a m auto 0 reason) s = .next (answered 0x30 (matchAgent a.toNat u) (told true (matchAgent a.toNat u))) ∧
        agentOf u a.toNat = some
        { status := .ready s.readies none, skills := m, autoReady := decide (auto = 1), misses := 0,
          answered := 0 } ∧
        (∀ b, b ≠ a.toNat → agentOf u b = agentOf s b) ∧ u.readyList = s.readyList ++ [a.toNat] ∧ u.readies = s.readies + 1 ∧
        { u with agents := s.agents, readyList := s.readyList, readies := s.readies } = s) ∧
    ∀ v, agentOf s a.toNat = some v →
      (∀ r, v.status = .notReady r →
        ∃ u, exec (.setReady a) s = .next (answered 0x32 (matchAgent a.toNat u) (told true (matchAgent a.toNat u))) ∧
          agentOf u a.toNat = some { v with status := .ready s.readies none } ∧
          (∀ b, b ≠ a.toNat → agentOf u b = agentOf s b) ∧ u.readyList = s.readyList ++ [a.toNat] ∧ u.readies = s.readies + 1 ∧
          { u with agents := s.agents, readyList := s.readyList, readies := s.readies } = s) ∧
      ∃ u t, exec (.setSkills a m) s = .next (answered 0x34 t (told (available v) t)) ∧
        t = (if available v = true then matchAgent a.toNat u else u) ∧
        agentOf u a.toNat = some { v with skills := m } ∧ (∀ b, b ≠ a.toNat → agentOf u b = agentOf s b) ∧
        { u with agents := s.agents } = s

/-- LOGOUT and SET NOT READY of an agent that holds no call (R34, R35, R37, R38): the agent leaves the ready list if it is there and is
LOGGED_OUT or NOT_READY with the reason; while TALKING or in WRAP the reason is stored as pending and nothing else moves; LOGOUT of a
TALKING agent is refused WRONG_STATE with its state, and LOGOUT in WRAP takes the sample of the wrap (R92, R94). An agent that is
LOGGED_OUT, and a number above 511, are refused. -/
def Obligations.AgentsLeaveReady : Prop :=
  (∀ (a : BitVec 16) (reason : BitVec 8) (s : State), takes s = true → s.inService = true →
    (511 < a.toNat → exec (.logout a) s = .next (answered 0x31 s (.refuse .badField 1 0)) ∧
      exec (.setNotReady a reason) s = .next (answered 0x33 s (.refuse .badField 1 0))) ∧
    (a.toNat ≤ 511 → 199 < reason.toNat → exec (.setNotReady a reason) s = .next (answered 0x33 s (.refuse .badField 2 0))) ∧
    (a.toNat ≤ 511 → agentOf s a.toNat = none → exec (.logout a) s = .next (answered 0x31 s (.refuse .wrongState 1 0)) ∧
      (reason.toNat ≤ 199 → exec (.setNotReady a reason) s = .next (answered 0x33 s (.refuse .wrongState 1 0))))) ∧
  ∀ (a : BitVec 16) (reason : BitVec 8) (v : Agent) (s : State), takes s = true → s.inService = true → a.toNat < 512 →
    reason.toNat ≤ 199 → agentOf s a.toNat = some v →
    (∀ n d r, v.status = .ready n d ∨ v.status = .notReady r →
      (∃ u, exec (.logout a) s = .next (answered 0x31 u (.accept false [f2 a.toNat, f1 (agentStateCode (some v))])) ∧
        agentOf u a.toNat = none ∧ (∀ b, b ≠ a.toNat → agentOf u b = agentOf s b) ∧
        u.readyList = (if agentStateCode (some v) = 2 then s.readyList.erase a.toNat else s.readyList) ∧
        { u with agents := s.agents, readyList := s.readyList } = s) ∧
      ∃ u, exec (.setNotReady a reason) s =
          .next (answered 0x33 u (.accept false [f2 a.toNat, f1 (agentStateCode (some v)), f1 1, f1 255])) ∧
        agentOf u a.toNat = some { v with status := .notReady reason.toNat } ∧
        (∀ b, b ≠ a.toNat → agentOf u b = agentOf s b) ∧
        u.readyList = (if agentStateCode (some v) = 2 then s.readyList.erase a.toNat else s.readyList) ∧
        { u with agents := s.agents, readyList := s.readyList } = s) ∧
    (∀ h p, v.status = .talking h p →
      exec (.logout a) s = .next (answered 0x31 s (.refuse .wrongState 1 4)) ∧
      ∃ u, exec (.setNotReady a reason) s =
          .next (answered 0x33 u (.accept false [f2 a.toNat, f1 4, f1 4, f1 reason.toNat])) ∧
        agentOf u a.toNat = some { v with status := .talking h (some reason.toNat) } ∧
        (∀ b, b ≠ a.toNat → agentOf u b = agentOf s b) ∧ { u with agents := s.agents } = s) ∧
    (∀ w p, v.status = .wrap w p →
      (∃ u, exec (.setNotReady a reason) s =
          .next (answered 0x33 u (.accept false [f2 a.toNat, f1 5, f1 5, f1 reason.toNat])) ∧
        agentOf u a.toNat = some { v with status := .wrap w (some reason.toNat) } ∧
        (∀ b, b ≠ a.toNat → agentOf u b = agentOf s b) ∧ { u with agents := s.agents } = s) ∧
      ∃ u, exec (.logout a) s = .next (answered 0x31 u (.accept false [f2 a.toNat, f1 5])) ∧ agentOf u a.toNat = none ∧
        queueOf u w.queue = { queueOf s w.queue with
          aht16 := foldSample (queueOf s w.queue).aht16
            (queueOf s w.queue).settings.smoothingShift (min (w.talkTime.toNat + (s.now - w.start).toNat) 65535) } ∧
        (∀ q, q ≠ w.queue → queueOf u q = queueOf s q) ∧
        (∀ b, b ≠ a.toNat → agentOf u b = agentOf s b) ∧ { u with agents := s.agents, queues := s.queues } = s)

/-- LOGOUT and SET NOT READY of an OFFERED agent withdraw its offer (R14, R35, R37, R71, R72, R73): before matching, the call is WAITING
again, at its arrival place in its list, which the surge monitor evaluates (R109), with the agent excluded, the agent is LOGGED_OUT or
NOT_READY with its misses as they were, and no offer counter has moved; then the call is matched. -/
def Obligations.LeavingAgentsWithdrawTheirOffer : Prop :=
  ∀ (a : BitVec 16) (reason : BitVec 8) (v : Agent) (h n b : Nat) (d : Option Time) (c : Call) (s : State), takes s = true →
    s.inService = true → a.toNat < 512 → reason.toNat ≤ 199 → agentOf s a.toNat = some v → v.status = .offered h n →
    callOf s h = some c → c.status = .offered b d →
    ∃ u w, exec (.logout a) s = .next (answered 0x31 (matchCall h u) (.accept false [f2 a.toNat, f1 3])) ∧
      exec (.setNotReady a reason) s = .next (answered 0x33 (matchCall h w) (.accept false
        [f2 a.toNat, f1 3, f1 1, f1 255])) ∧
      agentOf u a.toNat = none ∧ agentOf w a.toNat = some { v with status := .notReady reason.toNat } ∧
      ∀ x, x = u ∨ x = w →
        callOf x h = some { c with status := .waiting, exclusion := c.exclusion.drop (c.exclusion.length - 3) ++ [a.toNat] } ∧
        rejoins s x h c ∧ SurgeEvaluated s x c.queue ∧ withoutWraps x.due = withoutWraps s.due ∧
        withoutTraffic (queueOf x c.queue) = withoutTraffic (queueOf s c.queue) ∧
        (queueOf x c.queue).counters = (queueOf s c.queue).counters ∧
        (s.notices.length < 250 → x.notices.getLast? = some
        { frameClass := 4, kind := 0x82, body :=
          [f4 s.now.toNat, f2 h, f4 c.tag.toNat, f2 a.toNat, f1 c.queue, f1 2, f1 (agentStateCode (agentOf x a.toNat))] }) ∧
        (∀ k, slotOf k ≠ slotOf h → callOf x k = callOf s k) ∧
        (∀ e, e ≠ a.toNat → (agentOf x e).map withoutDeadline = (agentOf s e).map withoutDeadline) ∧
        (∀ q, q ≠ c.queue → queueOf x q = queueOf s q) ∧ x.readyList = s.readyList ∧ outsideMatching x = outsideMatching s

/-- The candidates of a call are the agents of the ready list that are READY, in no cool-down, skilled for it and not excluded (R5, R40,
R54), and the selection policy picks one of them: the first, the last, the one the rotation cursor gives, or the first of the fewest
answered calls (R55, R56). Call-side matching (R57) offers a WAITING call of an OPEN or DRAINING queue to the agent picked, moving the
rotation cursor under ROTATE alone, and does nothing for any other call or with no candidate. Agent-side arbitration (R58): among the
WAITING calls of offering queues that the agent is skilled for and not excluded from, the winner has the highest effective priority and,
among equals, the lowest arrival sequence; with none, nothing happens. Arbitration moves no rotation cursor. -/
def Obligations.MatchingChoosesTheAgentAndTheCall : Prop :=
  ((∀ (s : State) (c : Call) (a : Nat), a ∈ candidates s c ↔ a ∈ s.readyList ∧ ∃ v n, agentOf s a = some v ∧
     v.status = .ready n none ∧
     (∀ i < 32, ((queueOf s c.queue).settings.requiredSkills ||| c.extraSkills.getD 0).getLsbD i = true →
       v.skills.getLsbD i = true) ∧ a ∉ c.exclusion) ∧
   (∀ (s : State) (c : Call), (candidates s c).Sublist s.readyList ∧ (chooseAgent s c = none ↔ candidates s c = [])) ∧
   ∀ (s : State) (c : Call) (a : Nat), chooseAgent s c = some a → a ∈ candidates s c ∧
     match (queueOf s c.queue).settings.policy with
     | .longestIdle => (candidates s c).head? = some a
     | .mostRecent => (candidates s c).getLast? = some a
     | .rotate => (∀ b ∈ candidates s c, (queueOf s c.queue).cursor < a → (queueOf s c.queue).cursor < b → a ≤ b) ∧
         (a ≤ (queueOf s c.queue).cursor → ∀ b ∈ candidates s c, b ≤ (queueOf s c.queue).cursor ∧ a ≤ b)
     | .fewestCalls => ∃ before after, candidates s c = before ++ a :: after ∧
         (∀ b ∈ before, answeredOf s a < answeredOf s b) ∧ ∀ b ∈ after, answeredOf s a ≤ answeredOf s b) ∧
  (∀ (h : Nat) (s : State),
     (∀ c a, callOf s h = some c → c.status = .waiting → offering (queueOf s c.queue).state = true → chooseAgent s c = some a →
       matchCall h s = makeOffer h a (decide ((queueOf s c.queue).settings.policy = .rotate)) s) ∧
     ((∀ c, callOf s h = some c → c.status ≠ .waiting ∨ offering (queueOf s c.queue).state = false ∨ chooseAgent s c = none) →
       matchCall h s = s)) ∧
  (∀ (q : QueueState), offering q = true ↔ q = .opened ∨ q = .draining) ∧
  (∀ (a : Nat) (v : Agent) (s : State), agentOf s a = some v →
     ((∀ e ∈ s.calls, takeable s a v e.2 = false) → matchAgent a s = s) ∧
     (∀ e ∈ s.calls, takeable s a v e.2 = true →
       ∃ slot c, (slot, c) ∈ s.calls ∧ takeable s a v c = true ∧ (∀ f ∈ s.calls, takeable s a v f.2 = true → ahead s f.2 c = false) ∧
         matchAgent a s = makeOffer (handleOf s slot) a false s) ∧
     (∀ q, (queueOf (matchAgent a s) q).cursor = (queueOf s q).cursor) ∧
     ∀ c, takeable s a v c = true ↔ c.status = .waiting ∧ offering (queueOf s c.queue).state = true ∧
       (∃ n, v.status = .ready n none) ∧ covers v.skills (requiredOf s c) = true ∧ a ∉ c.exclusion)

/-- Making an offer (R60, R61, R62, R191): the call leaves its waiting list, which the surge monitor evaluates (R109), and is OFFERED to
the agent with a deadline when the queue has an offer timeout and its offer count one more; the agent leaves the ready list and is
OFFERED with its ready sequence kept; the cursor moves only when asked; the last notice is OFFER, whose flags tell a deadline and an
overflowed call. -/
def Obligations.OfferIsMadeToBothSides : Prop :=
  ∀ (h a : Nat) (rotate : Bool) (c : Call) (v : Agent) (n : Nat) (s : State), callOf s h = some c → agentOf s a = some v →
    v.status = .ready n none →
    (let u := makeOffer h a rotate s
     let t := (queueOf s c.queue).settings.offerTimeout
     let deadline : Option Time := if t = 0 then none else some (s.now + BitVec.ofNat 32 t)
     callOf u h = some { c with status := .offered a deadline, offerCount := min 255 (c.offerCount + 1) } ∧
     agentOf u a = some { v with status := .offered h n } ∧
     (queueOf u c.queue).waiting = (queueOf s c.queue).waiting.erase h ∧ u.readyList = s.readyList.erase a ∧
     (queueOf u c.queue).cursor = (if rotate then a else (queueOf s c.queue).cursor) ∧
     (queueOf u c.queue).settings = (queueOf s c.queue).settings ∧ (queueOf u c.queue).counters = (queueOf s c.queue).counters ∧
     (queueOf u c.queue).aht16 = (queueOf s c.queue).aht16 ∧ (queueOf u c.queue).state = (queueOf s c.queue).state ∧
     (∀ q, q ≠ c.queue → queueOf u q = queueOf s q) ∧
     (∀ k, slotOf k ≠ slotOf h → callOf u k = callOf s k) ∧
     (∀ b, b ≠ a → (agentOf u b).map withoutDeadline = (agentOf s b).map withoutDeadline) ∧
     SurgeEvaluated s u c.queue ∧ withoutWraps u.due = withoutWraps s.due ∧
     u.readies = s.readies ∧ outsideMatching u = outsideMatching s ∧
     (s.notices.length < 255 → u.notices.getLast? = some
     { frameClass := 4, kind := 0x80, body :=
       [f4 s.now.toNat, f2 h, f4 c.tag.toNat, f2 a, f1 c.queue,
         f1 ((if t = 0 then 0 else 1) + (if c.originQueue = none then 0 else 2)), f4 ((deadline.map (·.toNat)).getD 0),
         f1 (effPriority s c), f1 (min 255 (c.offerCount + 1)), f1 (c.voice.getD 255)] }))

/-! ### Wraps -/

/-- SET DISPOSITION (R89): in WRAP the code is stored and the code it replaces, or 0, is told; a code of 0 is refused. -/
def Obligations.SetDispositionStoresTheCode : Prop :=
  ∀ (a code : BitVec 16) (s : State), takes s = true →
    (s.inService = false → exec (.setDisposition a code) s = .next (answered 0x36 s (.refuse .wrongState 0 0))) ∧
    (s.inService = true →
      (511 < a.toNat → exec (.setDisposition a code) s = .next (answered 0x36 s (.refuse .badField 1 0))) ∧
      (a.toNat ≤ 511 → code = 0 → exec (.setDisposition a code) s = .next (answered 0x36 s (.refuse .badField 2 0))) ∧
      (a.toNat ≤ 511 → code ≠ 0 → agentStateCode (agentOf s a.toNat) ≠ 5 →
        exec (.setDisposition a code) s =
          .next (answered 0x36 s (.refuse .wrongState 1 (agentStateCode (agentOf s a.toNat))))) ∧
      (a.toNat ≤ 511 → code ≠ 0 → ∀ v w p, agentOf s a.toNat = some v → v.status = .wrap w p →
        exec (.setDisposition a code) s = .next (answered 0x36
          (setAgentRec s a.toNat { v with status := .wrap { w with disposition := some code } p })
          (.accept false [f2 a.toNat, f2 ((w.disposition.map (·.toNat)).getD 0)]))))

/-- EXTEND WRAP (R87, R88): refused SURGE while the wrap queue is in surge, LIMIT at the maximum of extensions or at 18,000 tu from the
start; otherwise the deadline moves by the extension length, but to no more than 18,000 tu from the start with the adjusted mark, and
the extensions used rise by one. -/
def Obligations.ExtendWrapMovesTheDeadline : Prop :=
  ∀ (a : BitVec 16) (v : Agent) (w : WrapRecord) (p : Option Nat) (s : State), takes s = true → s.inService = true →
    a.toNat < 512 → agentOf s a.toNat = some v → v.status = .wrap w p →
    ((queueOf s w.queue).surge = true →
      exec (.extendWrap a) s = .next (answered 0x37 s (.refuse .surge 0 w.queue))) ∧
    ((queueOf s w.queue).surge = false →
      ((queueOf s w.queue).settings.maxExtensions ≤ w.extensions →
        exec (.extendWrap a) s = .next (answered 0x37 s (.refuse .limit 0 1))) ∧
      (w.extensions < (queueOf s w.queue).settings.maxExtensions →
        (18000 ≤ (w.deadline - w.start).toNat →
          exec (.extendWrap a) s = .next (answered 0x37 s (.refuse .limit 0 2))) ∧
        ((w.deadline - w.start).toNat < 18000 → (queueOf s w.queue).settings.extensionLength ≤ 1200 →
          ∃ u d capped, exec (.extendWrap a) s = .next (answered 0x37 u (.accept capped
              [f2 a.toNat, f4 d.toNat, f1 (w.extensions + 1), f4 (s.now - w.start).toNat])) ∧
            agentOf u a.toNat = some { v with status := .wrap { w with deadline := d, extensions := w.extensions + 1 } p } ∧
            (d - w.start).toNat =
              min 18000 ((w.deadline - w.start).toNat + (queueOf s w.queue).settings.extensionLength) ∧
            (capped = true ↔ 18000 < (w.deadline - w.start).toNat + (queueOf s w.queue).settings.extensionLength) ∧
            (∀ b, b ≠ a.toNat → agentOf u b = agentOf s b) ∧ { u with agents := s.agents, due := s.due } = s)))

/-- WRAP DONE (R84, R90, R91, R94): refused CODE_MISSING when the wrap queue requires a code and neither the order nor the record holds
one and force is clear; otherwise the average takes the sample and the agent is NOT_READY with the order's reason or else the pending
one, or READY at the back of the ready list and matched. The code, the times, the sample and the reason are told. -/
def Obligations.WrapDoneEndsTheWrap : Prop :=
  ∀ (a : BitVec 16) (options : BitVec 8) (code : BitVec 16) (reason : BitVec 8) (v : Agent) (w : WrapRecord) (p : Option Nat)
    (s : State), takes s = true → s.inService = true → a.toNat < 512 → options.toNat ≤ 7 →
    (options.getLsbD 0 = true → code ≠ 0) → (options.getLsbD 1 = true → reason.toNat ≤ 199) →
    agentOf s a.toNat = some v → v.status = .wrap w p →
    (let missing := (queueOf s w.queue).settings.dispositionRequired = true ∧ options.getLsbD 0 = false ∧ w.disposition = none ∧
      options.getLsbD 2 = false
     let held := if options.getLsbD 0 then code.toNat else (w.disposition.map (·.toNat)).getD 0
     let sample := min (w.talkTime.toNat + (s.now - w.start).toNat) 65535
     let goesTo : Option Nat := if options.getLsbD 1 then some reason.toNat else p
     (missing → exec (.wrapDone a options code reason) s = .next (answered 0x35 s (.refuse .codeMissing 3 w.queue))) ∧
     (¬ missing → ∃ u t, t = (if goesTo = none then matchAgent a.toNat u else u) ∧
       exec (.wrapDone a options code reason) s = .next (answered 0x35 t (.accept false [f2 a.toNat,
         f1 (agentStateCode (agentOf t a.toNat)), f1 (goesTo.getD 255), f2 held, f4 w.talkTime.toNat, f4 (s.now - w.start).toNat,
         f2 sample, f1 (if agentStateCode (agentOf t a.toNat) = 3 then 1 else 0)])) ∧
       queueOf u w.queue = { queueOf s w.queue with
         aht16 := foldSample (queueOf s w.queue).aht16 (queueOf s w.queue).settings.smoothingShift sample } ∧
       (∀ q, q ≠ w.queue → queueOf u q = queueOf s q) ∧ (∀ b, b ≠ a.toNat → agentOf u b = agentOf s b) ∧
       (∀ r, goesTo = some r → agentOf u a.toNat = some { v with status := .notReady r } ∧ u.readyList = s.readyList ∧
         u.readies = s.readies) ∧
       (goesTo = none → agentOf u a.toNat = some { v with status := .ready s.readies none } ∧
         u.readyList = s.readyList ++ [a.toNat] ∧ u.readies = s.readies + 1) ∧
       { u with agents := s.agents, queues := s.queues, readyList := s.readyList, readies := s.readies } = s))

/-! ### Clips -/

/-- OPEN CLIP LOAD (R122, R123): refused for a start page, a length or an end past the memory, for a clip that is LOADING or in use, and
for a range that shares a page with another clip, naming the first; otherwise the clip is LOADING at that range with nothing taken.
CLOSE CLIP LOAD, ABORT CLIP LOAD and FREE CLIP (R126, R127, R128): a close makes a LOADING clip FAULTY SHORT when bytes are missing,
else FAULTY CHECK when the XOR differs, else READY; an abort makes it FREE; a READY clip in no use, or a FAULTY one, is freed. Clips in
other states are refused WRONG_STATE with their state, and a READY clip in use IN_USE with its count. None of the four changes a byte of
the memory. -/
def Obligations.ClipSessionsOpenCloseAndEnd : Prop :=
  (∀ (k : BitVec 8) (page : BitVec 16) (len : BitVec 32) (s : State), takes s = true →
     (8191 < page.toNat → exec (.openClipLoad k page len) s = .next (answered 0x40 s (.refuse .badField 2 0))) ∧
     (page.toNat ≤ 8191 →
       (len = 0 ∨ 4194304 < len.toNat → exec (.openClipLoad k page len) s = .next (answered 0x40 s (.refuse .badField 3 0))) ∧
       (len ≠ 0 → len.toNat ≤ 4194304 →
         (4194304 < page.toNat * 512 + len.toNat → exec (.openClipLoad k page len) s =
           .next (answered 0x40 s (.refuse .badField 3 (4194304 - page.toNat * 512)))) ∧
         (page.toNat * 512 + len.toNat ≤ 4194304 →
           (∀ c, clipOf s k.toNat = some c → isLoading c = true ∨ c.useCount ≠ 0 → exec (.openClipLoad k page len) s =
             .next (answered 0x40 s (.refuse .inUse 1 (clipStateCode (some c) * 65536 + c.useCount)))) ∧
           ((∀ c, clipOf s k.toNat = some c → isLoading c = false ∧ c.useCount = 0) →
             (∀ e, s.clips.find? (fun e => e.1 != k.toNat && decide (page.toNat < e.2.startPage + (e.2.length + 511) / 512) &&
                 decide (e.2.startPage < page.toNat + (len.toNat + 511) / 512)) = some e →
               exec (.openClipLoad k page len) s = .next (answered 0x40 s (.refuse .inUse 2 e.1))) ∧
             ((∀ e ∈ s.clips, e.1 ≠ k.toNat → e.2.startPage + (e.2.length + 511) / 512 ≤ page.toNat ∨
                 page.toNat + (len.toNat + 511) / 512 ≤ e.2.startPage) →
               exec (.openClipLoad k page len) s = .next (answered 0x40
                 (setClipRec s k.toNat { status := .loading 0 0 0, startPage := page.toNat, length := len.toNat, useCount := 0 })
                 (.accept false [f1 k.toNat, f1 (clipStateCode (clipOf s k.toNat)), f2 page.toNat,
                   f2 ((len.toNat + 511) / 512)])))))))) ∧
  (∀ (k x : BitVec 8) (s : State), takes s = true →
     (∀ c cursor acc excess, clipOf s k.toNat = some c → c.status = .loading cursor acc excess →
       (∃ u d, exec (.closeClipLoad k x) s = .next (answered 0x42 u (.accept (decide (excess ≠ 0))
           [f1 k.toNat, f1 (clipStateCode (some d)), f1 (causeCode d), f4 cursor, f1 acc.toNat, f4 excess])) ∧
         clipOf u k.toNat = some d ∧
         (cursor < c.length → d = { c with status := .faulty .short }) ∧
         (c.length ≤ cursor → acc ≠ x → d = { c with status := .faulty .check }) ∧
         (c.length ≤ cursor → acc = x → d = { c with status := .ready }) ∧
         (∀ j, j ≠ k.toNat → clipOf u j = clipOf s j) ∧ { u with clips := s.clips } = s) ∧
       (∃ u, exec (.abortClipLoad k) s = .next (answered 0x43 u (.accept false [f1 k.toNat, f4 cursor, f4 excess])) ∧
         clipOf u k.toNat = none ∧ (∀ j, j ≠ k.toNat → clipOf u j = clipOf s j) ∧ { u with clips := s.clips } = s) ∧
       exec (.freeClip k) s = .next (answered 0x44 s (.refuse .wrongState 1 1))) ∧
     (∀ c, clipOf s k.toNat = some c → isLoading c = false →
       exec (.closeClipLoad k x) s = .next (answered 0x42 s (.refuse .wrongState 1 (clipStateCode (some c)))) ∧
       exec (.abortClipLoad k) s = .next (answered 0x43 s (.refuse .wrongState 1 (clipStateCode (some c)))) ∧
       (c.status = .ready → c.useCount ≠ 0 → exec (.freeClip k) s = .next (answered 0x44 s (.refuse .inUse 1 c.useCount))) ∧
       (c.status ≠ .ready ∨ c.useCount = 0 →
         ∃ u, exec (.freeClip k) s = .next (answered 0x44 u (.accept false
             [f1 k.toNat, f1 (clipStateCode (some c)), f2 ((c.length + 511) / 512)])) ∧
           clipOf u k.toNat = none ∧ (∀ j, j ≠ k.toNat → clipOf u j = clipOf s j) ∧ { u with clips := s.clips } = s)) ∧
     (clipOf s k.toNat = none →
       exec (.closeClipLoad k x) s = .next (answered 0x42 s (.refuse .wrongState 1 0)) ∧
       exec (.abortClipLoad k) s = .next (answered 0x43 s (.refuse .wrongState 1 0)) ∧
       exec (.freeClip k) s = .next (answered 0x44 s (.refuse .wrongState 1 0))))

/-- CLIP DATA (R117, R124, R125): taken at the load cursor alone, it writes the bytes up to the clip's length to the addresses from the
start page on, folds them into the XOR and counts the others as excess, with the adjusted mark when there are any. Every other byte of
the memory reads as before. -/
def Obligations.ClipDataWritesTheBytesInPlace : Prop :=
  ∀ (k : BitVec 8) (offset : BitVec 32) (data : List (BitVec 8)) (s : State), takes s = true → 1 ≤ data.length →
    data.length ≤ 240 →
    (∀ c, clipOf s k.toNat = c → (∀ d, c = some d → isLoading d = false) → exec (.clipData k offset data) s =
      .next (answered 0x41 s (.refuse .wrongState 1 (clipStateCode c)))) ∧
    ∀ c cursor x excess, clipOf s k.toNat = some c → c.status = .loading cursor x excess →
      (offset.toNat ≠ cursor → exec (.clipData k offset data) s = .next (answered 0x41 s (.refuse .sequence 2 cursor))) ∧
      (offset.toNat = cursor →
        ∃ u n, n = min data.length (c.length - cursor) ∧
          exec (.clipData k offset data) s = .next (answered 0x41 u (.accept (decide (n < data.length))
            [f1 k.toNat, f4 (cursor + n), f1 n, f1 (data.length - n)])) ∧
          clipOf u k.toNat = some { c with
            status := .loading (cursor + n) ((data.take n).foldl (· ^^^ ·) x)
              (min 4294967295 (excess + (data.length - n))) } ∧
          (∀ i b, i < n → data[i]? = some b → sampleAt u (c.startPage * 512 + cursor + i) = b) ∧
          (∀ addr, addr < c.startPage * 512 + cursor ∨ c.startPage * 512 + cursor + n ≤ addr →
            sampleAt u addr = sampleAt s addr) ∧
          (∀ j, j ≠ k.toNat → clipOf u j = clipOf s j) ∧ { u with clips := s.clips, samples := s.samples } = s)

/-! ### Programs and voices -/

/-- SET PROGRAM and DELETE PROGRAM (R121, R135 to R137): the first field that fails its check refuses SET PROGRAM; with none failing, the
program is defined with the order's content and each clip's use count moves by what it gains and loses as a reference. DELETE PROGRAM
is refused for a number above 31, for an undefined program, and IN_USE with the first voice that plays it, else the first queue or else
the first call that names it, in the order of their numbers (the tables list them in it, TablesStayCanonical); a program that nothing
holds is deleted and its references with it. -/
def Obligations.ProgramsAreWrittenAndDeleted : Prop :=
  ∀ s : State, takes s = true →
    (∀ f : ProgramFields, (Instr.setProgram f).wellFormed = true →
      let clipState (k : BitVec 8) := k.toNat * 65536 + clipStateCode (clipOf s k.toNat)
      let unready (k : BitVec 8) := decide (clipStateCode (clipOf s k.toNat) ≠ 2)
      let bound (j : Nat) := (f.bands.getD j (0, 0)).1.toNat
      let checks : List (Bool × Answer) :=
      [(decide (31 < f.program.toNat), .refuse .badField 1 0), (decide (15 < f.options.toNat), .refuse .badField 2 0),
        (f.options.getLsbD 0 && unready f.introClip, .refuse .wrongState 3 (clipState f.introClip)),
        (f.options.getLsbD 1 && unready f.exitClip, .refuse .wrongState 4 (clipState f.exitClip)),
        (f.options.getLsbD 2 && unready f.overClip, .refuse .wrongState 5 (clipState f.overClip)),
        (f.options.getLsbD 3 && unready f.noEstimateClip, .refuse .wrongState 6 (clipState f.noEstimateClip)),
        (decide (f.loopCount = 0 ∨ 8 < f.loopCount.toNat), .refuse .badField 7 0)] ++
      (List.range f.loopCount.toNat).map (fun i =>
        (unready (f.loop.getD i 0), .refuse .wrongState (8 + i) (clipState (f.loop.getD i 0)))) ++
      [(decide (8 < f.bandCount.toNat), .refuse .badField 16 0)] ++
      (List.range f.bandCount.toNat).flatMap (fun j =>
      [(decide (bound j = 0 ∨ bound j = 65535 ∨ (j ≠ 0 ∧ bound j ≤ bound (j - 1))), .refuse .badField (17 + 2 * j) (bound j)),
        (unready (f.bands.getD j (0, 0)).2, .refuse .wrongState (18 + 2 * j) (clipState (f.bands.getD j (0, 0)).2))])
      (∀ e, checks.find? (fun e => e.1) = some e → exec (.setProgram f) s = .next (answered 0x50 s e.2)) ∧
      (checks.find? (fun e => e.1) = none →
        ∃ u content, exec (.setProgram f) s = .next (answered 0x50 u (.accept false [f1 f.program.toNat,
            f1 (if programOf s f.program.toNat = none then 0 else 1), f1 (programClips content).length])) ∧
          programOf u f.program.toNat = some content ∧
          content.loop = (f.loop.take f.loopCount.toNat).map (·.toNat) ∧
          content.bands = (f.bands.take f.bandCount.toNat).map (fun b => (b.1.toNat, b.2.toNat)) ∧
          content.introClip = (if f.options.getLsbD 0 then some f.introClip.toNat else none) ∧
          content.exitClip = (if f.options.getLsbD 1 then some f.exitClip.toNat else none) ∧
          content.overClip = (if f.options.getLsbD 2 then some f.overClip.toNat else none) ∧
          content.noEstimateClip = (if f.options.getLsbD 3 then some f.noEstimateClip.toNat else none) ∧
          (∀ p, p ≠ f.program.toNat → programOf u p = programOf s p) ∧
          (∀ j c, clipOf s j = some c → clipOf u j = some { c with
            useCount :=
            c.useCount - (if j ∈ referredBy (programOf s f.program.toNat) ∧ j ∉ programClips content then 1 else 0) +
              (if j ∈ programClips content ∧ j ∉ referredBy (programOf s f.program.toNat) then 1 else 0) }) ∧
          { u with programs := s.programs, clips := s.clips } = s)) ∧
    (∀ p : BitVec 8, 31 < p.toNat → exec (.deleteProgram p) s = .next (answered 0x51 s (.refuse .badField 1 0))) ∧
    ∀ p : BitVec 8, p.toNat < 32 →
      (programOf s p.toNat = none → exec (.deleteProgram p) s = .next (answered 0x51 s (.refuse .noSuch 1 0))) ∧
      (∀ r, programOf s p.toNat = some r →
        (∀ e, s.voices.find? (fun e => e.2.program == p.toNat) = some e →
          exec (.deleteProgram p) s = .next (answered 0x51 s (.refuse .inUse 1 (65536 + e.1)))) ∧
        ((∀ e ∈ s.voices, e.2.program ≠ p.toNat) →
          (∀ e, s.queues.find? (fun e => e.2.settings.defaultProgram == some p.toNat) = some e →
            exec (.deleteProgram p) s = .next (answered 0x51 s (.refuse .inUse 1 (2 * 65536 + e.1)))) ∧
          ((∀ e ∈ s.queues, e.2.settings.defaultProgram ≠ some p.toNat) →
            ∀ e, s.calls.find? (fun e => e.2.program == some p.toNat) = some e →
              exec (.deleteProgram p) s = .next (answered 0x51 s (.refuse .inUse 1 (3 * 65536 + handleOf s e.1))))) ∧
        ((∀ e ∈ s.voices, e.2.program ≠ p.toNat) → (∀ e ∈ s.queues, e.2.settings.defaultProgram ≠ some p.toNat) →
            (∀ e ∈ s.calls, e.2.program ≠ some p.toNat) →
          ∃ u, exec (.deleteProgram p) s = .next (answered 0x51 u (.accept false [f1 p.toNat, f1 (programClips r).length])) ∧
            programOf u p.toNat = none ∧ (∀ q, q ≠ p.toNat → programOf u q = programOf s q) ∧
            (∀ j c, clipOf s j = some c → clipOf u j = some { c with
              useCount :=
              c.useCount - (if j ∈ programClips r then 1 else 0) }) ∧
            { u with programs := s.programs, clips := s.clips } = s))

/-- Attaching a call with a program and no voice (R141, R142): in a calm queue the lowest FREE voice plays the program for it alone, from
the intro or the first loop clip, and its announcement is due after the first delay; else it joins the program's SHARED voice; else
the lowest FREE voice is SHARED from the first loop clip; else it is silent. A voice that is taken adds one to the use count of its first
clip (R121), and no other voice and no other call moves. -/
def Obligations.AttachingGivesAVoiceOrSilence : Prop :=
  ∀ (h p : Nat) (c : Call) (r : Program) (s : State), callOf s h = some c → c.voice = none →
    c.program = some p → programOf s p = some r →
    (∀ v, (queueOf s c.queue).surge = false → lowestFreeVoice s = some v →
      callOf (attach h s) h = some { c with
        voice := some v, awaitingVoice := false,
        announceDue := some (s.now + BitVec.ofNat 32 (queueOf s c.queue).settings.firstAnnouncementDelay) } ∧
      voiceOf (attach h s) v = some
      { program := p, mode := .private_ h, segment := if r.introClip = none then .loop else .intro,
        loopIndex := 0, clip := r.introClip.getD (r.loop.getD 0 0), offset := 0 } ∧
      (∀ w, w ≠ v → voiceOf (attach h s) w = voiceOf s w) ∧
      ∀ j, clipOf (attach h s) j = (clipOf s j).map (movedUse none (some (r.introClip.getD (r.loop.getD 0 0))) j)) ∧
    (∀ v x n, (queueOf s c.queue).surge = true ∨ lowestFreeVoice s = none → sharedVoiceOf s p = some v →
      voiceOf s v = some x → x.mode = .shared n →
      callOf (attach h s) h = some { c with voice := some v, awaitingVoice := false } ∧
      voiceOf (attach h s) v = some { x with mode := .shared (n + 1) } ∧
      (∀ w, w ≠ v → voiceOf (attach h s) w = voiceOf s w) ∧ (attach h s).clips = s.clips) ∧
    (∀ v, (queueOf s c.queue).surge = true → sharedVoiceOf s p = none → lowestFreeVoice s = some v →
      callOf (attach h s) h = some { c with voice := some v, awaitingVoice := false } ∧
      voiceOf (attach h s) v = some
      { program := p, mode := .shared 1, segment := .loop, loopIndex := 0,
        clip := r.loop.getD 0 0, offset := 0 } ∧
      (∀ w, w ≠ v → voiceOf (attach h s) w = voiceOf s w) ∧
      ∀ j, clipOf (attach h s) j = (clipOf s j).map (movedUse none (some (r.loop.getD 0 0)) j)) ∧
    (lowestFreeVoice s = none → sharedVoiceOf s p = none →
      callOf (attach h s) h = some { c with awaitingVoice := true } ∧ (attach h s).voices = s.voices ∧
      (attach h s).clips = s.clips) ∧
    (∀ k, slotOf k ≠ slotOf h → callOf (attach h s) k = callOf s k) ∧
    (∀ k, (clipOf (attach h s) k).map withoutUse = (clipOf s k).map withoutUse) ∧
    { attach h s with calls := s.calls, voices := s.voices, clips := s.clips } = s

/-- A voice that becomes FREE (R121, R143, R144, R145) gives up its clip, and when calls are silent it is SHARED at once for the program
of the silent call that came first, from the first loop clip, with every silent call of that program on it, and VOICE STARTED is queued;
with none silent it stays FREE. The use count of the clip given up falls by one and that of the clip taken rises by one. A call detached
from a SHARED voice that keeps listeners only takes one from their count. So every step keeps the voices and their listeners (R140,
R142, R153): a PRIVATE voice has its one call, a SHARED one as many as it counts, no program two of them, and no call is silent while a
voice is FREE. -/
def Obligations.FreedVoiceGoesToTheSilentCalls : Prop :=
  (∀ (v : Nat) (r : Voice) (s : State), voiceOf s v = some r → Canonical s →
    ((∀ e ∈ s.calls, e.2.awaitingVoice = false) → voiceOf (freeVoice v s) v = none ∧ (freeVoice v s).calls = s.calls ∧
      (freeVoice v s).notices = s.notices ∧ ∀ j, clipOf (freeVoice v s) j = (clipOf s j).map (movedUse (some r.clip) none j)) ∧
    (∀ e p x, e ∈ s.calls → e.2.awaitingVoice = true → e.2.program = some p → programOf s p = some x →
      (∀ f ∈ s.calls, f.2.awaitingVoice = true → f ≠ e → e.2.arrivalSeq < f.2.arrivalSeq) →
      voiceOf (freeVoice v s) v = some
      { program := p,
        mode := .shared (s.calls.countP fun f => f.2.awaitingVoice && f.2.program == some p), segment := .loop, loopIndex := 0,
        clip := x.loop.getD 0 0, offset := 0 } ∧
      (∀ h c, callOf s h = some c → callOf (freeVoice v s) h =
        some (if c.awaitingVoice = true ∧ c.program = some p then { c with voice := some v, awaitingVoice := false } else c)) ∧
      (∀ j, clipOf (freeVoice v s) j = (clipOf s j).map (movedUse (some r.clip) (some (x.loop.getD 0 0)) j)) ∧
      (s.notices.length < 256 → (freeVoice v s).notices = s.notices ++ [
      { frameClass := 4, kind := 0x86, body :=
        [f4 s.now.toNat, f1 v, f1 p, f2 (s.calls.countP fun f => f.2.awaitingVoice && f.2.program == some p)] }])) ∧
    (∀ w, w ≠ v → voiceOf (freeVoice v s) w = voiceOf s w) ∧ outsideAudio (freeVoice v s) = outsideAudio s) ∧
  (∀ (h v : Nat) (c : Call) (r : Voice) (s : State), callOf s h = some c → c.voice = some v → voiceOf s v = some r →
    let off := setCallRec s h { c with voice := none, announceDue := none }
    (∀ n, r.mode = .shared n → 1 < n → detach h s = setVoiceRec off v { r with mode := .shared (n - 1) }) ∧
    (r.mode = .shared 1 ∨ (∃ k, r.mode = .private_ k) → detach h s = freeVoice v off)) ∧
  ∀ s t : State, Canonical s → InRange s → Paired s → ProgramsNamed s → VoicesOk s → step s = .next t → VoicesOk t

/-! ### Invariants -/

/-- The named invariants hold at reset. -/
def Obligations.InvariantsHoldAtReset : Prop :=
  LinkBounded State.reset ∧ Canonical State.reset ∧ InRange State.reset ∧ AverageInRange State.reset ∧ PagesOk State.reset ∧
    SamplesOk State.reset ∧ Paired State.reset ∧ ExclusionsOk State.reset ∧ ReadyListOk State.reset ∧
    ListsOk State.reset ∧ NoPair State.reset ∧ ProgramsNamed State.reset ∧ UsesOk State.reset ∧ VoicesOk State.reset ∧
    LoadsOk State.reset

/-- Every step keeps every table, the sample memory among them, in the model's own canonical form (log 9): the indices strictly rising,
and in the tables of the queues and of the generation numbers nothing listed that an unlisted index reads as. A listed byte of the
sample memory may equal what an unlisted one reads as, for that is a free value. -/
def Obligations.TablesStayCanonical : Prop :=
  ∀ s t : State, Canonical s → step s = .next t → Canonical t

/-- Every step keeps every record at a number the part has, the queues that records name among the 64 (R1, R29, R78), and every
queue's AHT16 within 0 to 1,048,560 and its seed within 1 to 65,535 (R10, R99, R100). -/
def Obligations.NumbersStayInRange : Prop :=
  ∀ s t : State, InRange s → AverageInRange s → step s = .next t → InRange t ∧ AverageInRange t

/-- Every step keeps the clips within the memory and apart from each other by whole pages, and every listed byte within the memory
(R117, R120); the load cursor of a LOADING clip within its length and its excess count in 32 bits (R118); and, with every named program
defined (R137), every use count at the number of programs that refer to the clip plus the number of voices that play it, with only READY
clips in use, so that a LOADING clip has use count 0 and every clip a voice plays is READY (R121). -/
def Obligations.ClipsNeverShareAPage : Prop :=
  (∀ s t : State, Canonical s → PagesOk s → SamplesOk s → step s = .next t → PagesOk t ∧ SamplesOk t) ∧
    (∀ s t : State, Canonical s → LoadsOk s → step s = .next t → LoadsOk t) ∧
    ∀ s t : State, Canonical s → InRange s → ProgramsNamed s → UsesOk s → step s = .next t → ProgramsNamed t ∧ UsesOk t

/-- Every step keeps the pairing of calls and agents: a call is OFFERED to an agent exactly when that agent is OFFERED with it, a
CONNECTED call has exactly one agent TALKING with it, and an agent TALKING with a call has it CONNECTED (R52). And with them it keeps
the waiting lists: every WAITING or DIVERTING call stands once in the list of its queue, no other call is listed, and each list is in
ascending arrival sequence (R14). -/
def Obligations.CallsAndAgentsStayPaired : Prop :=
  (∀ s t : State, Canonical s → InRange s → Paired s → step s = .next t → Paired t) ∧
    ∀ s t : State, Canonical s → InRange s → Paired s → ListsOk s → step s = .next t → ListsOk t

/-- Every step keeps every exclusion list at four agents at most, none twice, and the agent a call is offered to not on it (R73). -/
def Obligations.ExclusionListsHoldFourDistinctAgents : Prop :=
  ∀ s t : State, Canonical s → InRange s → Paired s → ExclusionsOk s → step s = .next t → ExclusionsOk t

/-- Every step keeps the ready list: it holds every READY agent exactly once and no other, in ascending ready sequence, and every ready
sequence held was given out before the counter's present value, to one agent (R41, R43). And with the lists it leaves no pair: no READY
agent outside cool-down beside a WAITING call of an OPEN or DRAINING queue that it is skilled for and not excluded from (R53). -/
def Obligations.ReadyListHoldsTheReadyAgents : Prop :=
  (∀ s t : State, Canonical s → InRange s → Paired s → ReadyListOk s → step s = .next t → ReadyListOk t) ∧
    ∀ s t : State, Canonical s → InRange s → Paired s → ListsOk s → ReadyListOk s → NoPair s → step s = .next t → NoPair t
end

