-- ==== Sys2Proof/Laws/Table.lean ====
section
/-!
SUPPORT. Laws of the sparse tables: a read after a write, and that every operation keeps the indices rising.
-/

namespace Sys2Proof.Machine

variable {α : Type}

@[simp] theorem tableFind_nil (k : Nat) : tableFind ([] : Table α) k = none := rfl

/-! ### Read after write -/

@[simp] theorem tableFind_tableInsert_self (t : Table α) (k : Nat) (v : α) : tableFind (tableInsert t k v) k = some v := by
  fun_induction tableInsert t k v with
  | case1 => simp [tableFind]
  | case2 => simp [tableFind]
  | case3 => simp [tableFind]
  | case4 i w t k v h h' ih => simp [tableFind, ih, Ne.symm h']

theorem tableFind_tableInsert_of_ne (t : Table α) {k j : Nat} (v : α) (h : j ≠ k) :
    tableFind (tableInsert t k v) j = tableFind t j := by
  fun_induction tableInsert t k v with
  | case1 => simp [tableFind, Ne.symm h]
  | case2 => simp [tableFind, Ne.symm h]
  | case3 => simp_all [tableFind, Ne.symm h]
  | case4 i w t k v h1 h2 ih => simp [tableFind, ih h]

theorem tableFind_tableInsert (t : Table α) (k j : Nat) (v : α) :
    tableFind (tableInsert t k v) j = if j = k then some v else tableFind t j := by
  split
  · next h => simp [h]
  · next h => exact tableFind_tableInsert_of_ne t v h

theorem tableFind_tableErase (t : Table α) (k j : Nat) :
    tableFind (tableErase t k) j = if j = k then none else tableFind t j := by
  unfold tableErase
  induction t with
  | nil => simp
  | cons e t ih => by_cases h : e.1 = k <;> by_cases h' : e.1 = j <;> simp_all [tableFind]

@[simp] theorem tableFind_tableErase_self (t : Table α) (k : Nat) : tableFind (tableErase t k) k = none := by
  simp [tableFind_tableErase]

theorem tableFind_tableErase_of_ne (t : Table α) {k j : Nat} (h : j ≠ k) : tableFind (tableErase t k) j = tableFind t j := by
  simp [tableFind_tableErase, h]

/-- What a table reads as whose unlisted indices read as `d`, after a write. -/
theorem tablePut_getD [DecidableEq α] (d : α) (t : Table α) (k j : Nat) (v : α) :
    (tableFind (tablePut d t k v) j).getD d = if j = k then v else (tableFind t j).getD d := by
  unfold tablePut
  split <;> simp only [tableFind_tableErase, tableFind_tableInsert] <;> split <;> simp_all

/-! ### The canonical form -/

theorem tableRising_cons (e : Nat × α) (t : Table α) :
    tableRising (e :: t) = true ↔ (∀ f ∈ t, e.1 < f.1) ∧ tableRising t = true := by
  obtain ⟨i, v⟩ := e
  simp [tableRising, List.all_eq_true]

theorem tableRising_iff_pairwise (t : Table α) : tableRising t = true ↔ t.Pairwise (fun e f => e.1 < f.1) := by
  induction t with
  | nil => simp [tableRising]
  | cons e t ih => simp [tableRising_cons, ih]

theorem mem_tableInsert {t : Table α} {k : Nat} {v : α} {e : Nat × α} (h : e ∈ tableInsert t k v) : e = (k, v) ∨ e ∈ t := by
  fun_induction tableInsert t k v with
  | case1 => simpa using h
  | case2 => simpa using h
  | case3 => simp at h; aesop
  | case4 i w t k v h1 h2 ih => simp at h ⊢; rcases h with h | h; exact .inr (.inl h); exact (ih h).elim .inl (.inr ∘ .inr)

theorem tableRising_tableInsert {t : Table α} (k : Nat) (v : α) (h : tableRising t = true) :
    tableRising (tableInsert t k v) = true := by
  fun_induction tableInsert t k v with
  | case1 => simp [tableRising]
  | case2 i w t k v hk =>
    rw [tableRising_cons]
    refine ⟨fun f hf => ?_, h⟩
    rcases List.mem_cons.1 hf with rfl | hf
    · exact hk
    · exact lt_trans hk (((tableRising_cons _ _).1 h).1 f hf)
  | case3 => simpa [tableRising_cons] using h
  | case4 i w t k v h1 h2 ih =>
    rw [tableRising_cons] at h ⊢
    refine ⟨fun f hf => ?_, ih h.2⟩
    rcases mem_tableInsert hf with rfl | hf
    · show i < k; omega
    · exact h.1 f hf

theorem tableRising_filter {t : Table α} (p : Nat × α → Bool) (h : tableRising t = true) : tableRising (t.filter p) = true := by
  rw [tableRising_iff_pairwise] at h ⊢
  exact h.filter p

theorem tableRising_tableErase {t : Table α} (k : Nat) (h : tableRising t = true) : tableRising (tableErase t k) = true :=
  tableRising_filter _ h

theorem tableRising_tablePut [DecidableEq α] {t : Table α} (d : α) (k : Nat) (v : α) (h : tableRising t = true) :
    tableRising (tablePut d t k v) = true := by
  unfold tablePut
  split
  · exact tableRising_tableErase k h
  · exact tableRising_tableInsert k v h

/-- Changing values and no indices keeps the form. -/
theorem tableRising_map {β : Type} {t : Table α} (f : Nat × α → Nat × β) (hf : ∀ e, (f e).1 = e.1) (h : tableRising t = true) :
    tableRising (t.map f) = true := by
  rw [tableRising_iff_pairwise] at h ⊢
  exact List.pairwise_map.2 (h.imp fun {a b} hab => by simpa [hf] using hab)

/-- In a table in canonical form, what is listed is what is read. -/
theorem tableFind_eq_some_iff {t : Table α} (h : tableRising t = true) (k : Nat) (v : α) :
    tableFind t k = some v ↔ (k, v) ∈ t := by
  induction t with
  | nil => simp
  | cons e t ih =>
    obtain ⟨i, w⟩ := e
    have h' := (tableRising_cons _ _).1 h
    by_cases hk : i = k
    · subst hk
      simp only [tableFind, if_true, Option.some.injEq, List.mem_cons, Prod.mk.injEq, true_and]
      exact ⟨fun e => .inl e.symm, fun e => e.elim Eq.symm fun m => absurd (h'.1 _ m) (lt_irrefl i)⟩
    · simp only [tableFind, hk, if_false, ih h'.2, List.mem_cons, Prod.mk.injEq]
      exact ⟨.inr, fun e => e.elim (fun m => absurd m.1.symm hk) id⟩

theorem mem_of_tableFind {t : Table α} {k : Nat} {v : α} (h : tableFind t k = some v) : (k, v) ∈ t := by
  induction t with
  | nil => simp at h
  | cons e t ih =>
    obtain ⟨i, w⟩ := e
    by_cases hk : i = k
    · subst hk; simp_all [tableFind]
    · simp only [tableFind, hk, if_false] at h; exact List.mem_cons_of_mem _ (ih h)

/-- What is listed after a write to a table in canonical form: the entry written, and the others as they were. -/
theorem mem_tableInsert_iff {t : Table α} (h : tableRising t = true) (k : Nat) (v : α) (e : Nat × α) :
    e ∈ tableInsert t k v ↔ e = (k, v) ∨ (e ∈ t ∧ e.1 ≠ k) := by
  obtain ⟨i, w⟩ := e
  rw [← tableFind_eq_some_iff (tableRising_tableInsert k v h), tableFind_tableInsert, ← tableFind_eq_some_iff h]
  by_cases hk : i = k
  · simp [hk, eq_comm]
  · simp [hk]

theorem mem_tableErase_iff (t : Table α) (k : Nat) (e : Nat × α) : e ∈ tableErase t k ↔ e ∈ t ∧ e.1 ≠ k := by
  simp [tableErase]

/-- Changing values at every index by a function of index and value. -/
theorem tableFind_map {β : Type} (t : Table α) (f : Nat → α → β) (k : Nat) :
    tableFind (t.map fun e => (e.1, f e.1 e.2)) k = (tableFind t k).map (f k) := by
  induction t with
  | nil => rfl
  | cons e t ih => by_cases h : e.1 = k <;> simp_all [tableFind]

end Sys2Proof.Machine
end

