-- ==== Sys2Proof/Laws/State.lean ====
section
/-!
SUPPORT. The elementary updates of State: one lemma for each field and each record access that an update may or may not change, and
what is read after a write.
-/

namespace Sys2Proof.Machine

variable (s : State) (q a h k n j : Nat) (r : Queue) (v : Agent) (c : Call) (e : Clip) (x : Voice) (d : Option Time)
  (f : Counters → Counters)

/-! ### `setQueueRec` -/

@[simp] theorem setQueueRec_pending : (setQueueRec s q r).pending = s.pending := rfl
@[simp] theorem setQueueRec_clockRunning : (setQueueRec s q r).clockRunning = s.clockRunning := rfl
@[simp] theorem setQueueRec_resetHeld : (setQueueRec s q r).resetHeld = s.resetHeld := rfl
@[simp] theorem setQueueRec_unitAddress : (setQueueRec s q r).unitAddress = s.unitAddress := rfl
@[simp] theorem setQueueRec_rateStraps : (setQueueRec s q r).rateStraps = s.rateStraps := rfl
@[simp] theorem setQueueRec_powerOns : (setQueueRec s q r).powerOns = s.powerOns := rfl
@[simp] theorem setQueueRec_freeDraws : (setQueueRec s q r).freeDraws = s.freeDraws := rfl
@[simp] theorem setQueueRec_highway : (setQueueRec s q r).highway = s.highway := rfl
@[simp] theorem setQueueRec_framePhase : (setQueueRec s q r).framePhase = s.framePhase := rfl
@[simp] theorem setQueueRec_now : (setQueueRec s q r).now = s.now := rfl
@[simp] theorem setQueueRec_syncPresent : (setQueueRec s q r).syncPresent = s.syncPresent := rfl
@[simp] theorem setQueueRec_pulse : (setQueueRec s q r).pulse = s.pulse := rfl
@[simp] theorem setQueueRec_due : (setQueueRec s q r).due = s.due := rfl
@[simp] theorem setQueueRec_inService : (setQueueRec s q r).inService = s.inService := rfl
@[simp] theorem setQueueRec_receiver : (setQueueRec s q r).receiver = s.receiver := rfl
@[simp] theorem setQueueRec_held : (setQueueRec s q r).held = s.held := rfl
@[simp] theorem setQueueRec_replies : (setQueueRec s q r).replies = s.replies := rfl
@[simp] theorem setQueueRec_notices : (setQueueRec s q r).notices = s.notices := rfl
@[simp] theorem setQueueRec_noticesLost : (setQueueRec s q r).noticesLost = s.noticesLost := rfl
@[simp] theorem setQueueRec_badCheck : (setQueueRec s q r).badCheck = s.badCheck := rfl
@[simp] theorem setQueueRec_lengthErrors : (setQueueRec s q r).lengthErrors = s.lengthErrors := rfl
@[simp] theorem setQueueRec_gapErrors : (setQueueRec s q r).gapErrors = s.gapErrors := rfl
@[simp] theorem setQueueRec_overruns : (setQueueRec s q r).overruns = s.overruns := rfl
@[simp] theorem setQueueRec_sending : (setQueueRec s q r).sending = s.sending := rfl
@[simp] theorem setQueueRec_frameEnds : (setQueueRec s q r).frameEnds = s.frameEnds := rfl
@[simp] theorem setQueueRec_generations : (setQueueRec s q r).generations = s.generations := rfl
@[simp] theorem setQueueRec_arrivals : (setQueueRec s q r).arrivals = s.arrivals := rfl
@[simp] theorem setQueueRec_calls : (setQueueRec s q r).calls = s.calls := rfl
@[simp] theorem setQueueRec_queues : (setQueueRec s q r).queues = tablePut queueAtReset s.queues q r := rfl
@[simp] theorem setQueueRec_agents : (setQueueRec s q r).agents = s.agents := rfl
@[simp] theorem setQueueRec_readyList : (setQueueRec s q r).readyList = s.readyList := rfl
@[simp] theorem setQueueRec_readies : (setQueueRec s q r).readies = s.readies := rfl
@[simp] theorem setQueueRec_samples : (setQueueRec s q r).samples = s.samples := rfl
@[simp] theorem setQueueRec_clips : (setQueueRec s q r).clips = s.clips := rfl
@[simp] theorem setQueueRec_programs : (setQueueRec s q r).programs = s.programs := rfl
@[simp] theorem setQueueRec_voices : (setQueueRec s q r).voices = s.voices := rfl
@[simp] theorem setQueueRec_silence : (setQueueRec s q r).silence = s.silence := rfl
@[simp] theorem agentOf_setQueueRec : agentOf (setQueueRec s q r) j = agentOf s j := rfl
@[simp] theorem callOf_setQueueRec : callOf (setQueueRec s q r) j = callOf s j := rfl
@[simp] theorem generationOf_setQueueRec : generationOf (setQueueRec s q r) j = generationOf s j := rfl
@[simp] theorem handleOf_setQueueRec : handleOf (setQueueRec s q r) j = handleOf s j := rfl
@[simp] theorem clipOf_setQueueRec : clipOf (setQueueRec s q r) j = clipOf s j := rfl
@[simp] theorem programOf_setQueueRec : programOf (setQueueRec s q r) j = programOf s j := rfl
@[simp] theorem voiceOf_setQueueRec : voiceOf (setQueueRec s q r) j = voiceOf s j := rfl

/-! ### `setAgentRec` -/

@[simp] theorem setAgentRec_pending : (setAgentRec s a v).pending = s.pending := rfl
@[simp] theorem setAgentRec_clockRunning : (setAgentRec s a v).clockRunning = s.clockRunning := rfl
@[simp] theorem setAgentRec_resetHeld : (setAgentRec s a v).resetHeld = s.resetHeld := rfl
@[simp] theorem setAgentRec_unitAddress : (setAgentRec s a v).unitAddress = s.unitAddress := rfl
@[simp] theorem setAgentRec_rateStraps : (setAgentRec s a v).rateStraps = s.rateStraps := rfl
@[simp] theorem setAgentRec_powerOns : (setAgentRec s a v).powerOns = s.powerOns := rfl
@[simp] theorem setAgentRec_freeDraws : (setAgentRec s a v).freeDraws = s.freeDraws := rfl
@[simp] theorem setAgentRec_highway : (setAgentRec s a v).highway = s.highway := rfl
@[simp] theorem setAgentRec_framePhase : (setAgentRec s a v).framePhase = s.framePhase := rfl
@[simp] theorem setAgentRec_now : (setAgentRec s a v).now = s.now := rfl
@[simp] theorem setAgentRec_syncPresent : (setAgentRec s a v).syncPresent = s.syncPresent := rfl
@[simp] theorem setAgentRec_pulse : (setAgentRec s a v).pulse = s.pulse := rfl
@[simp] theorem setAgentRec_due : (setAgentRec s a v).due = s.due := rfl
@[simp] theorem setAgentRec_inService : (setAgentRec s a v).inService = s.inService := rfl
@[simp] theorem setAgentRec_receiver : (setAgentRec s a v).receiver = s.receiver := rfl
@[simp] theorem setAgentRec_held : (setAgentRec s a v).held = s.held := rfl
@[simp] theorem setAgentRec_replies : (setAgentRec s a v).replies = s.replies := rfl
@[simp] theorem setAgentRec_notices : (setAgentRec s a v).notices = s.notices := rfl
@[simp] theorem setAgentRec_noticesLost : (setAgentRec s a v).noticesLost = s.noticesLost := rfl
@[simp] theorem setAgentRec_badCheck : (setAgentRec s a v).badCheck = s.badCheck := rfl
@[simp] theorem setAgentRec_lengthErrors : (setAgentRec s a v).lengthErrors = s.lengthErrors := rfl
@[simp] theorem setAgentRec_gapErrors : (setAgentRec s a v).gapErrors = s.gapErrors := rfl
@[simp] theorem setAgentRec_overruns : (setAgentRec s a v).overruns = s.overruns := rfl
@[simp] theorem setAgentRec_sending : (setAgentRec s a v).sending = s.sending := rfl
@[simp] theorem setAgentRec_frameEnds : (setAgentRec s a v).frameEnds = s.frameEnds := rfl
@[simp] theorem setAgentRec_generations : (setAgentRec s a v).generations = s.generations := rfl
@[simp] theorem setAgentRec_arrivals : (setAgentRec s a v).arrivals = s.arrivals := rfl
@[simp] theorem setAgentRec_calls : (setAgentRec s a v).calls = s.calls := rfl
@[simp] theorem setAgentRec_queues : (setAgentRec s a v).queues = s.queues := rfl
@[simp] theorem setAgentRec_agents : (setAgentRec s a v).agents = tableInsert s.agents a v := rfl
@[simp] theorem setAgentRec_readyList : (setAgentRec s a v).readyList = s.readyList := rfl
@[simp] theorem setAgentRec_readies : (setAgentRec s a v).readies = s.readies := rfl
@[simp] theorem setAgentRec_samples : (setAgentRec s a v).samples = s.samples := rfl
@[simp] theorem setAgentRec_clips : (setAgentRec s a v).clips = s.clips := rfl
@[simp] theorem setAgentRec_programs : (setAgentRec s a v).programs = s.programs := rfl
@[simp] theorem setAgentRec_voices : (setAgentRec s a v).voices = s.voices := rfl
@[simp] theorem setAgentRec_silence : (setAgentRec s a v).silence = s.silence := rfl
@[simp] theorem queueOf_setAgentRec : queueOf (setAgentRec s a v) j = queueOf s j := rfl
@[simp] theorem callOf_setAgentRec : callOf (setAgentRec s a v) j = callOf s j := rfl
@[simp] theorem generationOf_setAgentRec : generationOf (setAgentRec s a v) j = generationOf s j := rfl
@[simp] theorem handleOf_setAgentRec : handleOf (setAgentRec s a v) j = handleOf s j := rfl
@[simp] theorem clipOf_setAgentRec : clipOf (setAgentRec s a v) j = clipOf s j := rfl
@[simp] theorem programOf_setAgentRec : programOf (setAgentRec s a v) j = programOf s j := rfl
@[simp] theorem voiceOf_setAgentRec : voiceOf (setAgentRec s a v) j = voiceOf s j := rfl

/-! ### `dropAgent` -/

@[simp] theorem dropAgent_pending : (dropAgent s a).pending = s.pending := rfl
@[simp] theorem dropAgent_clockRunning : (dropAgent s a).clockRunning = s.clockRunning := rfl
@[simp] theorem dropAgent_resetHeld : (dropAgent s a).resetHeld = s.resetHeld := rfl
@[simp] theorem dropAgent_unitAddress : (dropAgent s a).unitAddress = s.unitAddress := rfl
@[simp] theorem dropAgent_rateStraps : (dropAgent s a).rateStraps = s.rateStraps := rfl
@[simp] theorem dropAgent_powerOns : (dropAgent s a).powerOns = s.powerOns := rfl
@[simp] theorem dropAgent_freeDraws : (dropAgent s a).freeDraws = s.freeDraws := rfl
@[simp] theorem dropAgent_highway : (dropAgent s a).highway = s.highway := rfl
@[simp] theorem dropAgent_framePhase : (dropAgent s a).framePhase = s.framePhase := rfl
@[simp] theorem dropAgent_now : (dropAgent s a).now = s.now := rfl
@[simp] theorem dropAgent_syncPresent : (dropAgent s a).syncPresent = s.syncPresent := rfl
@[simp] theorem dropAgent_pulse : (dropAgent s a).pulse = s.pulse := rfl
@[simp] theorem dropAgent_due : (dropAgent s a).due = s.due := rfl
@[simp] theorem dropAgent_inService : (dropAgent s a).inService = s.inService := rfl
@[simp] theorem dropAgent_receiver : (dropAgent s a).receiver = s.receiver := rfl
@[simp] theorem dropAgent_held : (dropAgent s a).held = s.held := rfl
@[simp] theorem dropAgent_replies : (dropAgent s a).replies = s.replies := rfl
@[simp] theorem dropAgent_notices : (dropAgent s a).notices = s.notices := rfl
@[simp] theorem dropAgent_noticesLost : (dropAgent s a).noticesLost = s.noticesLost := rfl
@[simp] theorem dropAgent_badCheck : (dropAgent s a).badCheck = s.badCheck := rfl
@[simp] theorem dropAgent_lengthErrors : (dropAgent s a).lengthErrors = s.lengthErrors := rfl
@[simp] theorem dropAgent_gapErrors : (dropAgent s a).gapErrors = s.gapErrors := rfl
@[simp] theorem dropAgent_overruns : (dropAgent s a).overruns = s.overruns := rfl
@[simp] theorem dropAgent_sending : (dropAgent s a).sending = s.sending := rfl
@[simp] theorem dropAgent_frameEnds : (dropAgent s a).frameEnds = s.frameEnds := rfl
@[simp] theorem dropAgent_generations : (dropAgent s a).generations = s.generations := rfl
@[simp] theorem dropAgent_arrivals : (dropAgent s a).arrivals = s.arrivals := rfl
@[simp] theorem dropAgent_calls : (dropAgent s a).calls = s.calls := rfl
@[simp] theorem dropAgent_queues : (dropAgent s a).queues = s.queues := rfl
@[simp] theorem dropAgent_agents : (dropAgent s a).agents = tableErase s.agents a := rfl
@[simp] theorem dropAgent_readyList : (dropAgent s a).readyList = s.readyList := rfl
@[simp] theorem dropAgent_readies : (dropAgent s a).readies = s.readies := rfl
@[simp] theorem dropAgent_samples : (dropAgent s a).samples = s.samples := rfl
@[simp] theorem dropAgent_clips : (dropAgent s a).clips = s.clips := rfl
@[simp] theorem dropAgent_programs : (dropAgent s a).programs = s.programs := rfl
@[simp] theorem dropAgent_voices : (dropAgent s a).voices = s.voices := rfl
@[simp] theorem dropAgent_silence : (dropAgent s a).silence = s.silence := rfl
@[simp] theorem queueOf_dropAgent : queueOf (dropAgent s a) j = queueOf s j := rfl
@[simp] theorem callOf_dropAgent : callOf (dropAgent s a) j = callOf s j := rfl
@[simp] theorem generationOf_dropAgent : generationOf (dropAgent s a) j = generationOf s j := rfl
@[simp] theorem handleOf_dropAgent : handleOf (dropAgent s a) j = handleOf s j := rfl
@[simp] theorem clipOf_dropAgent : clipOf (dropAgent s a) j = clipOf s j := rfl
@[simp] theorem programOf_dropAgent : programOf (dropAgent s a) j = programOf s j := rfl
@[simp] theorem voiceOf_dropAgent : voiceOf (dropAgent s a) j = voiceOf s j := rfl

/-! ### `setCallRec` -/

@[simp] theorem setCallRec_pending : (setCallRec s h c).pending = s.pending := rfl
@[simp] theorem setCallRec_clockRunning : (setCallRec s h c).clockRunning = s.clockRunning := rfl
@[simp] theorem setCallRec_resetHeld : (setCallRec s h c).resetHeld = s.resetHeld := rfl
@[simp] theorem setCallRec_unitAddress : (setCallRec s h c).unitAddress = s.unitAddress := rfl
@[simp] theorem setCallRec_rateStraps : (setCallRec s h c).rateStraps = s.rateStraps := rfl
@[simp] theorem setCallRec_powerOns : (setCallRec s h c).powerOns = s.powerOns := rfl
@[simp] theorem setCallRec_freeDraws : (setCallRec s h c).freeDraws = s.freeDraws := rfl
@[simp] theorem setCallRec_highway : (setCallRec s h c).highway = s.highway := rfl
@[simp] theorem setCallRec_framePhase : (setCallRec s h c).framePhase = s.framePhase := rfl
@[simp] theorem setCallRec_now : (setCallRec s h c).now = s.now := rfl
@[simp] theorem setCallRec_syncPresent : (setCallRec s h c).syncPresent = s.syncPresent := rfl
@[simp] theorem setCallRec_pulse : (setCallRec s h c).pulse = s.pulse := rfl
@[simp] theorem setCallRec_due : (setCallRec s h c).due = s.due := rfl
@[simp] theorem setCallRec_inService : (setCallRec s h c).inService = s.inService := rfl
@[simp] theorem setCallRec_receiver : (setCallRec s h c).receiver = s.receiver := rfl
@[simp] theorem setCallRec_held : (setCallRec s h c).held = s.held := rfl
@[simp] theorem setCallRec_replies : (setCallRec s h c).replies = s.replies := rfl
@[simp] theorem setCallRec_notices : (setCallRec s h c).notices = s.notices := rfl
@[simp] theorem setCallRec_noticesLost : (setCallRec s h c).noticesLost = s.noticesLost := rfl
@[simp] theorem setCallRec_badCheck : (setCallRec s h c).badCheck = s.badCheck := rfl
@[simp] theorem setCallRec_lengthErrors : (setCallRec s h c).lengthErrors = s.lengthErrors := rfl
@[simp] theorem setCallRec_gapErrors : (setCallRec s h c).gapErrors = s.gapErrors := rfl
@[simp] theorem setCallRec_overruns : (setCallRec s h c).overruns = s.overruns := rfl
@[simp] theorem setCallRec_sending : (setCallRec s h c).sending = s.sending := rfl
@[simp] theorem setCallRec_frameEnds : (setCallRec s h c).frameEnds = s.frameEnds := rfl
@[simp] theorem setCallRec_generations : (setCallRec s h c).generations = s.generations := rfl
@[simp] theorem setCallRec_arrivals : (setCallRec s h c).arrivals = s.arrivals := rfl
@[simp] theorem setCallRec_calls : (setCallRec s h c).calls = tableInsert s.calls (slotOf h) c := rfl
@[simp] theorem setCallRec_queues : (setCallRec s h c).queues = s.queues := rfl
@[simp] theorem setCallRec_agents : (setCallRec s h c).agents = s.agents := rfl
@[simp] theorem setCallRec_readyList : (setCallRec s h c).readyList = s.readyList := rfl
@[simp] theorem setCallRec_readies : (setCallRec s h c).readies = s.readies := rfl
@[simp] theorem setCallRec_samples : (setCallRec s h c).samples = s.samples := rfl
@[simp] theorem setCallRec_clips : (setCallRec s h c).clips = s.clips := rfl
@[simp] theorem setCallRec_programs : (setCallRec s h c).programs = s.programs := rfl
@[simp] theorem setCallRec_voices : (setCallRec s h c).voices = s.voices := rfl
@[simp] theorem setCallRec_silence : (setCallRec s h c).silence = s.silence := rfl
@[simp] theorem queueOf_setCallRec : queueOf (setCallRec s h c) j = queueOf s j := rfl
@[simp] theorem agentOf_setCallRec : agentOf (setCallRec s h c) j = agentOf s j := rfl
@[simp] theorem generationOf_setCallRec : generationOf (setCallRec s h c) j = generationOf s j := rfl
@[simp] theorem handleOf_setCallRec : handleOf (setCallRec s h c) j = handleOf s j := rfl
@[simp] theorem clipOf_setCallRec : clipOf (setCallRec s h c) j = clipOf s j := rfl
@[simp] theorem programOf_setCallRec : programOf (setCallRec s h c) j = programOf s j := rfl
@[simp] theorem voiceOf_setCallRec : voiceOf (setCallRec s h c) j = voiceOf s j := rfl

/-! ### `freeCall` -/

@[simp] theorem freeCall_pending : (freeCall s h).pending = s.pending := rfl
@[simp] theorem freeCall_clockRunning : (freeCall s h).clockRunning = s.clockRunning := rfl
@[simp] theorem freeCall_resetHeld : (freeCall s h).resetHeld = s.resetHeld := rfl
@[simp] theorem freeCall_unitAddress : (freeCall s h).unitAddress = s.unitAddress := rfl
@[simp] theorem freeCall_rateStraps : (freeCall s h).rateStraps = s.rateStraps := rfl
@[simp] theorem freeCall_powerOns : (freeCall s h).powerOns = s.powerOns := rfl
@[simp] theorem freeCall_freeDraws : (freeCall s h).freeDraws = s.freeDraws := rfl
@[simp] theorem freeCall_highway : (freeCall s h).highway = s.highway := rfl
@[simp] theorem freeCall_framePhase : (freeCall s h).framePhase = s.framePhase := rfl
@[simp] theorem freeCall_now : (freeCall s h).now = s.now := rfl
@[simp] theorem freeCall_syncPresent : (freeCall s h).syncPresent = s.syncPresent := rfl
@[simp] theorem freeCall_pulse : (freeCall s h).pulse = s.pulse := rfl
@[simp] theorem freeCall_due : (freeCall s h).due = s.due := rfl
@[simp] theorem freeCall_inService : (freeCall s h).inService = s.inService := rfl
@[simp] theorem freeCall_receiver : (freeCall s h).receiver = s.receiver := rfl
@[simp] theorem freeCall_held : (freeCall s h).held = s.held := rfl
@[simp] theorem freeCall_replies : (freeCall s h).replies = s.replies := rfl
@[simp] theorem freeCall_notices : (freeCall s h).notices = s.notices := rfl
@[simp] theorem freeCall_noticesLost : (freeCall s h).noticesLost = s.noticesLost := rfl
@[simp] theorem freeCall_badCheck : (freeCall s h).badCheck = s.badCheck := rfl
@[simp] theorem freeCall_lengthErrors : (freeCall s h).lengthErrors = s.lengthErrors := rfl
@[simp] theorem freeCall_gapErrors : (freeCall s h).gapErrors = s.gapErrors := rfl
@[simp] theorem freeCall_overruns : (freeCall s h).overruns = s.overruns := rfl
@[simp] theorem freeCall_sending : (freeCall s h).sending = s.sending := rfl
@[simp] theorem freeCall_frameEnds : (freeCall s h).frameEnds = s.frameEnds := rfl
@[simp] theorem freeCall_generations : (freeCall s h).generations = tablePut 0 s.generations (slotOf h) ((generationOf s (slotOf h) + 1) % 32) := rfl
@[simp] theorem freeCall_arrivals : (freeCall s h).arrivals = s.arrivals := rfl
@[simp] theorem freeCall_calls : (freeCall s h).calls = tableErase s.calls (slotOf h) := rfl
@[simp] theorem freeCall_queues : (freeCall s h).queues = s.queues := rfl
@[simp] theorem freeCall_agents : (freeCall s h).agents = s.agents := rfl
@[simp] theorem freeCall_readyList : (freeCall s h).readyList = s.readyList := rfl
@[simp] theorem freeCall_readies : (freeCall s h).readies = s.readies := rfl
@[simp] theorem freeCall_samples : (freeCall s h).samples = s.samples := rfl
@[simp] theorem freeCall_clips : (freeCall s h).clips = s.clips := rfl
@[simp] theorem freeCall_programs : (freeCall s h).programs = s.programs := rfl
@[simp] theorem freeCall_voices : (freeCall s h).voices = s.voices := rfl
@[simp] theorem freeCall_silence : (freeCall s h).silence = s.silence := rfl
@[simp] theorem queueOf_freeCall : queueOf (freeCall s h) j = queueOf s j := rfl
@[simp] theorem agentOf_freeCall : agentOf (freeCall s h) j = agentOf s j := rfl
@[simp] theorem clipOf_freeCall : clipOf (freeCall s h) j = clipOf s j := rfl
@[simp] theorem programOf_freeCall : programOf (freeCall s h) j = programOf s j := rfl
@[simp] theorem voiceOf_freeCall : voiceOf (freeCall s h) j = voiceOf s j := rfl

/-! ### `setClipRec` -/

@[simp] theorem setClipRec_pending : (setClipRec s k e).pending = s.pending := rfl
@[simp] theorem setClipRec_clockRunning : (setClipRec s k e).clockRunning = s.clockRunning := rfl
@[simp] theorem setClipRec_resetHeld : (setClipRec s k e).resetHeld = s.resetHeld := rfl
@[simp] theorem setClipRec_unitAddress : (setClipRec s k e).unitAddress = s.unitAddress := rfl
@[simp] theorem setClipRec_rateStraps : (setClipRec s k e).rateStraps = s.rateStraps := rfl
@[simp] theorem setClipRec_powerOns : (setClipRec s k e).powerOns = s.powerOns := rfl
@[simp] theorem setClipRec_freeDraws : (setClipRec s k e).freeDraws = s.freeDraws := rfl
@[simp] theorem setClipRec_highway : (setClipRec s k e).highway = s.highway := rfl
@[simp] theorem setClipRec_framePhase : (setClipRec s k e).framePhase = s.framePhase := rfl
@[simp] theorem setClipRec_now : (setClipRec s k e).now = s.now := rfl
@[simp] theorem setClipRec_syncPresent : (setClipRec s k e).syncPresent = s.syncPresent := rfl
@[simp] theorem setClipRec_pulse : (setClipRec s k e).pulse = s.pulse := rfl
@[simp] theorem setClipRec_due : (setClipRec s k e).due = s.due := rfl
@[simp] theorem setClipRec_inService : (setClipRec s k e).inService = s.inService := rfl
@[simp] theorem setClipRec_receiver : (setClipRec s k e).receiver = s.receiver := rfl
@[simp] theorem setClipRec_held : (setClipRec s k e).held = s.held := rfl
@[simp] theorem setClipRec_replies : (setClipRec s k e).replies = s.replies := rfl
@[simp] theorem setClipRec_notices : (setClipRec s k e).notices = s.notices := rfl
@[simp] theorem setClipRec_noticesLost : (setClipRec s k e).noticesLost = s.noticesLost := rfl
@[simp] theorem setClipRec_badCheck : (setClipRec s k e).badCheck = s.badCheck := rfl
@[simp] theorem setClipRec_lengthErrors : (setClipRec s k e).lengthErrors = s.lengthErrors := rfl
@[simp] theorem setClipRec_gapErrors : (setClipRec s k e).gapErrors = s.gapErrors := rfl
@[simp] theorem setClipRec_overruns : (setClipRec s k e).overruns = s.overruns := rfl
@[simp] theorem setClipRec_sending : (setClipRec s k e).sending = s.sending := rfl
@[simp] theorem setClipRec_frameEnds : (setClipRec s k e).frameEnds = s.frameEnds := rfl
@[simp] theorem setClipRec_generations : (setClipRec s k e).generations = s.generations := rfl
@[simp] theorem setClipRec_arrivals : (setClipRec s k e).arrivals = s.arrivals := rfl
@[simp] theorem setClipRec_calls : (setClipRec s k e).calls = s.calls := rfl
@[simp] theorem setClipRec_queues : (setClipRec s k e).queues = s.queues := rfl
@[simp] theorem setClipRec_agents : (setClipRec s k e).agents = s.agents := rfl
@[simp] theorem setClipRec_readyList : (setClipRec s k e).readyList = s.readyList := rfl
@[simp] theorem setClipRec_readies : (setClipRec s k e).readies = s.readies := rfl
@[simp] theorem setClipRec_samples : (setClipRec s k e).samples = s.samples := rfl
@[simp] theorem setClipRec_clips : (setClipRec s k e).clips = tableInsert s.clips k e := rfl
@[simp] theorem setClipRec_programs : (setClipRec s k e).programs = s.programs := rfl
@[simp] theorem setClipRec_voices : (setClipRec s k e).voices = s.voices := rfl
@[simp] theorem setClipRec_silence : (setClipRec s k e).silence = s.silence := rfl
@[simp] theorem queueOf_setClipRec : queueOf (setClipRec s k e) j = queueOf s j := rfl
@[simp] theorem agentOf_setClipRec : agentOf (setClipRec s k e) j = agentOf s j := rfl
@[simp] theorem callOf_setClipRec : callOf (setClipRec s k e) j = callOf s j := rfl
@[simp] theorem generationOf_setClipRec : generationOf (setClipRec s k e) j = generationOf s j := rfl
@[simp] theorem handleOf_setClipRec : handleOf (setClipRec s k e) j = handleOf s j := rfl
@[simp] theorem programOf_setClipRec : programOf (setClipRec s k e) j = programOf s j := rfl
@[simp] theorem voiceOf_setClipRec : voiceOf (setClipRec s k e) j = voiceOf s j := rfl

/-! ### `dropClip` -/

@[simp] theorem dropClip_pending : (dropClip s k).pending = s.pending := rfl
@[simp] theorem dropClip_clockRunning : (dropClip s k).clockRunning = s.clockRunning := rfl
@[simp] theorem dropClip_resetHeld : (dropClip s k).resetHeld = s.resetHeld := rfl
@[simp] theorem dropClip_unitAddress : (dropClip s k).unitAddress = s.unitAddress := rfl
@[simp] theorem dropClip_rateStraps : (dropClip s k).rateStraps = s.rateStraps := rfl
@[simp] theorem dropClip_powerOns : (dropClip s k).powerOns = s.powerOns := rfl
@[simp] theorem dropClip_freeDraws : (dropClip s k).freeDraws = s.freeDraws := rfl
@[simp] theorem dropClip_highway : (dropClip s k).highway = s.highway := rfl
@[simp] theorem dropClip_framePhase : (dropClip s k).framePhase = s.framePhase := rfl
@[simp] theorem dropClip_now : (dropClip s k).now = s.now := rfl
@[simp] theorem dropClip_syncPresent : (dropClip s k).syncPresent = s.syncPresent := rfl
@[simp] theorem dropClip_pulse : (dropClip s k).pulse = s.pulse := rfl
@[simp] theorem dropClip_due : (dropClip s k).due = s.due := rfl
@[simp] theorem dropClip_inService : (dropClip s k).inService = s.inService := rfl
@[simp] theorem dropClip_receiver : (dropClip s k).receiver = s.receiver := rfl
@[simp] theorem dropClip_held : (dropClip s k).held = s.held := rfl
@[simp] theorem dropClip_replies : (dropClip s k).replies = s.replies := rfl
@[simp] theorem dropClip_notices : (dropClip s k).notices = s.notices := rfl
@[simp] theorem dropClip_noticesLost : (dropClip s k).noticesLost = s.noticesLost := rfl
@[simp] theorem dropClip_badCheck : (dropClip s k).badCheck = s.badCheck := rfl
@[simp] theorem dropClip_lengthErrors : (dropClip s k).lengthErrors = s.lengthErrors := rfl
@[simp] theorem dropClip_gapErrors : (dropClip s k).gapErrors = s.gapErrors := rfl
@[simp] theorem dropClip_overruns : (dropClip s k).overruns = s.overruns := rfl
@[simp] theorem dropClip_sending : (dropClip s k).sending = s.sending := rfl
@[simp] theorem dropClip_frameEnds : (dropClip s k).frameEnds = s.frameEnds := rfl
@[simp] theorem dropClip_generations : (dropClip s k).generations = s.generations := rfl
@[simp] theorem dropClip_arrivals : (dropClip s k).arrivals = s.arrivals := rfl
@[simp] theorem dropClip_calls : (dropClip s k).calls = s.calls := rfl
@[simp] theorem dropClip_queues : (dropClip s k).queues = s.queues := rfl
@[simp] theorem dropClip_agents : (dropClip s k).agents = s.agents := rfl
@[simp] theorem dropClip_readyList : (dropClip s k).readyList = s.readyList := rfl
@[simp] theorem dropClip_readies : (dropClip s k).readies = s.readies := rfl
@[simp] theorem dropClip_samples : (dropClip s k).samples = s.samples := rfl
@[simp] theorem dropClip_clips : (dropClip s k).clips = tableErase s.clips k := rfl
@[simp] theorem dropClip_programs : (dropClip s k).programs = s.programs := rfl
@[simp] theorem dropClip_voices : (dropClip s k).voices = s.voices := rfl
@[simp] theorem dropClip_silence : (dropClip s k).silence = s.silence := rfl
@[simp] theorem queueOf_dropClip : queueOf (dropClip s k) j = queueOf s j := rfl
@[simp] theorem agentOf_dropClip : agentOf (dropClip s k) j = agentOf s j := rfl
@[simp] theorem callOf_dropClip : callOf (dropClip s k) j = callOf s j := rfl
@[simp] theorem generationOf_dropClip : generationOf (dropClip s k) j = generationOf s j := rfl
@[simp] theorem handleOf_dropClip : handleOf (dropClip s k) j = handleOf s j := rfl
@[simp] theorem programOf_dropClip : programOf (dropClip s k) j = programOf s j := rfl
@[simp] theorem voiceOf_dropClip : voiceOf (dropClip s k) j = voiceOf s j := rfl

/-! ### `setVoiceRec` -/

@[simp] theorem setVoiceRec_pending : (setVoiceRec s k x).pending = s.pending := rfl
@[simp] theorem setVoiceRec_clockRunning : (setVoiceRec s k x).clockRunning = s.clockRunning := rfl
@[simp] theorem setVoiceRec_resetHeld : (setVoiceRec s k x).resetHeld = s.resetHeld := rfl
@[simp] theorem setVoiceRec_unitAddress : (setVoiceRec s k x).unitAddress = s.unitAddress := rfl
@[simp] theorem setVoiceRec_rateStraps : (setVoiceRec s k x).rateStraps = s.rateStraps := rfl
@[simp] theorem setVoiceRec_powerOns : (setVoiceRec s k x).powerOns = s.powerOns := rfl
@[simp] theorem setVoiceRec_freeDraws : (setVoiceRec s k x).freeDraws = s.freeDraws := rfl
@[simp] theorem setVoiceRec_highway : (setVoiceRec s k x).highway = s.highway := rfl
@[simp] theorem setVoiceRec_framePhase : (setVoiceRec s k x).framePhase = s.framePhase := rfl
@[simp] theorem setVoiceRec_now : (setVoiceRec s k x).now = s.now := rfl
@[simp] theorem setVoiceRec_syncPresent : (setVoiceRec s k x).syncPresent = s.syncPresent := rfl
@[simp] theorem setVoiceRec_pulse : (setVoiceRec s k x).pulse = s.pulse := rfl
@[simp] theorem setVoiceRec_due : (setVoiceRec s k x).due = s.due := rfl
@[simp] theorem setVoiceRec_inService : (setVoiceRec s k x).inService = s.inService := rfl
@[simp] theorem setVoiceRec_receiver : (setVoiceRec s k x).receiver = s.receiver := rfl
@[simp] theorem setVoiceRec_held : (setVoiceRec s k x).held = s.held := rfl
@[simp] theorem setVoiceRec_replies : (setVoiceRec s k x).replies = s.replies := rfl
@[simp] theorem setVoiceRec_notices : (setVoiceRec s k x).notices = s.notices := rfl
@[simp] theorem setVoiceRec_noticesLost : (setVoiceRec s k x).noticesLost = s.noticesLost := rfl
@[simp] theorem setVoiceRec_badCheck : (setVoiceRec s k x).badCheck = s.badCheck := rfl
@[simp] theorem setVoiceRec_lengthErrors : (setVoiceRec s k x).lengthErrors = s.lengthErrors := rfl
@[simp] theorem setVoiceRec_gapErrors : (setVoiceRec s k x).gapErrors = s.gapErrors := rfl
@[simp] theorem setVoiceRec_overruns : (setVoiceRec s k x).overruns = s.overruns := rfl
@[simp] theorem setVoiceRec_sending : (setVoiceRec s k x).sending = s.sending := rfl
@[simp] theorem setVoiceRec_frameEnds : (setVoiceRec s k x).frameEnds = s.frameEnds := rfl
@[simp] theorem setVoiceRec_generations : (setVoiceRec s k x).generations = s.generations := rfl
@[simp] theorem setVoiceRec_arrivals : (setVoiceRec s k x).arrivals = s.arrivals := rfl
@[simp] theorem setVoiceRec_calls : (setVoiceRec s k x).calls = s.calls := rfl
@[simp] theorem setVoiceRec_queues : (setVoiceRec s k x).queues = s.queues := rfl
@[simp] theorem setVoiceRec_agents : (setVoiceRec s k x).agents = s.agents := rfl
@[simp] theorem setVoiceRec_readyList : (setVoiceRec s k x).readyList = s.readyList := rfl
@[simp] theorem setVoiceRec_readies : (setVoiceRec s k x).readies = s.readies := rfl
@[simp] theorem setVoiceRec_samples : (setVoiceRec s k x).samples = s.samples := rfl
@[simp] theorem setVoiceRec_clips : (setVoiceRec s k x).clips = s.clips := rfl
@[simp] theorem setVoiceRec_programs : (setVoiceRec s k x).programs = s.programs := rfl
@[simp] theorem setVoiceRec_voices : (setVoiceRec s k x).voices = tableInsert s.voices k x := rfl
@[simp] theorem setVoiceRec_silence : (setVoiceRec s k x).silence = s.silence := rfl
@[simp] theorem queueOf_setVoiceRec : queueOf (setVoiceRec s k x) j = queueOf s j := rfl
@[simp] theorem agentOf_setVoiceRec : agentOf (setVoiceRec s k x) j = agentOf s j := rfl
@[simp] theorem callOf_setVoiceRec : callOf (setVoiceRec s k x) j = callOf s j := rfl
@[simp] theorem generationOf_setVoiceRec : generationOf (setVoiceRec s k x) j = generationOf s j := rfl
@[simp] theorem handleOf_setVoiceRec : handleOf (setVoiceRec s k x) j = handleOf s j := rfl
@[simp] theorem clipOf_setVoiceRec : clipOf (setVoiceRec s k x) j = clipOf s j := rfl
@[simp] theorem programOf_setVoiceRec : programOf (setVoiceRec s k x) j = programOf s j := rfl

/-! ### `dropVoice` -/

@[simp] theorem dropVoice_pending : (dropVoice s k).pending = s.pending := rfl
@[simp] theorem dropVoice_clockRunning : (dropVoice s k).clockRunning = s.clockRunning := rfl
@[simp] theorem dropVoice_resetHeld : (dropVoice s k).resetHeld = s.resetHeld := rfl
@[simp] theorem dropVoice_unitAddress : (dropVoice s k).unitAddress = s.unitAddress := rfl
@[simp] theorem dropVoice_rateStraps : (dropVoice s k).rateStraps = s.rateStraps := rfl
@[simp] theorem dropVoice_powerOns : (dropVoice s k).powerOns = s.powerOns := rfl
@[simp] theorem dropVoice_freeDraws : (dropVoice s k).freeDraws = s.freeDraws := rfl
@[simp] theorem dropVoice_highway : (dropVoice s k).highway = s.highway := rfl
@[simp] theorem dropVoice_framePhase : (dropVoice s k).framePhase = s.framePhase := rfl
@[simp] theorem dropVoice_now : (dropVoice s k).now = s.now := rfl
@[simp] theorem dropVoice_syncPresent : (dropVoice s k).syncPresent = s.syncPresent := rfl
@[simp] theorem dropVoice_pulse : (dropVoice s k).pulse = s.pulse := rfl
@[simp] theorem dropVoice_due : (dropVoice s k).due = s.due := rfl
@[simp] theorem dropVoice_inService : (dropVoice s k).inService = s.inService := rfl
@[simp] theorem dropVoice_receiver : (dropVoice s k).receiver = s.receiver := rfl
@[simp] theorem dropVoice_held : (dropVoice s k).held = s.held := rfl
@[simp] theorem dropVoice_replies : (dropVoice s k).replies = s.replies := rfl
@[simp] theorem dropVoice_notices : (dropVoice s k).notices = s.notices := rfl
@[simp] theorem dropVoice_noticesLost : (dropVoice s k).noticesLost = s.noticesLost := rfl
@[simp] theorem dropVoice_badCheck : (dropVoice s k).badCheck = s.badCheck := rfl
@[simp] theorem dropVoice_lengthErrors : (dropVoice s k).lengthErrors = s.lengthErrors := rfl
@[simp] theorem dropVoice_gapErrors : (dropVoice s k).gapErrors = s.gapErrors := rfl
@[simp] theorem dropVoice_overruns : (dropVoice s k).overruns = s.overruns := rfl
@[simp] theorem dropVoice_sending : (dropVoice s k).sending = s.sending := rfl
@[simp] theorem dropVoice_frameEnds : (dropVoice s k).frameEnds = s.frameEnds := rfl
@[simp] theorem dropVoice_generations : (dropVoice s k).generations = s.generations := rfl
@[simp] theorem dropVoice_arrivals : (dropVoice s k).arrivals = s.arrivals := rfl
@[simp] theorem dropVoice_calls : (dropVoice s k).calls = s.calls := rfl
@[simp] theorem dropVoice_queues : (dropVoice s k).queues = s.queues := rfl
@[simp] theorem dropVoice_agents : (dropVoice s k).agents = s.agents := rfl
@[simp] theorem dropVoice_readyList : (dropVoice s k).readyList = s.readyList := rfl
@[simp] theorem dropVoice_readies : (dropVoice s k).readies = s.readies := rfl
@[simp] theorem dropVoice_samples : (dropVoice s k).samples = s.samples := rfl
@[simp] theorem dropVoice_clips : (dropVoice s k).clips = s.clips := rfl
@[simp] theorem dropVoice_programs : (dropVoice s k).programs = s.programs := rfl
@[simp] theorem dropVoice_voices : (dropVoice s k).voices = tableErase s.voices k := rfl
@[simp] theorem dropVoice_silence : (dropVoice s k).silence = s.silence := rfl
@[simp] theorem queueOf_dropVoice : queueOf (dropVoice s k) j = queueOf s j := rfl
@[simp] theorem agentOf_dropVoice : agentOf (dropVoice s k) j = agentOf s j := rfl
@[simp] theorem callOf_dropVoice : callOf (dropVoice s k) j = callOf s j := rfl
@[simp] theorem generationOf_dropVoice : generationOf (dropVoice s k) j = generationOf s j := rfl
@[simp] theorem handleOf_dropVoice : handleOf (dropVoice s k) j = handleOf s j := rfl
@[simp] theorem clipOf_dropVoice : clipOf (dropVoice s k) j = clipOf s j := rfl
@[simp] theorem programOf_dropVoice : programOf (dropVoice s k) j = programOf s j := rfl

/-! ### `enterReady` -/

@[simp] theorem enterReady_pending : (enterReady s a v d).pending = s.pending := rfl
@[simp] theorem enterReady_clockRunning : (enterReady s a v d).clockRunning = s.clockRunning := rfl
@[simp] theorem enterReady_resetHeld : (enterReady s a v d).resetHeld = s.resetHeld := rfl
@[simp] theorem enterReady_unitAddress : (enterReady s a v d).unitAddress = s.unitAddress := rfl
@[simp] theorem enterReady_rateStraps : (enterReady s a v d).rateStraps = s.rateStraps := rfl
@[simp] theorem enterReady_powerOns : (enterReady s a v d).powerOns = s.powerOns := rfl
@[simp] theorem enterReady_freeDraws : (enterReady s a v d).freeDraws = s.freeDraws := rfl
@[simp] theorem enterReady_highway : (enterReady s a v d).highway = s.highway := rfl
@[simp] theorem enterReady_framePhase : (enterReady s a v d).framePhase = s.framePhase := rfl
@[simp] theorem enterReady_now : (enterReady s a v d).now = s.now := rfl
@[simp] theorem enterReady_syncPresent : (enterReady s a v d).syncPresent = s.syncPresent := rfl
@[simp] theorem enterReady_pulse : (enterReady s a v d).pulse = s.pulse := rfl
@[simp] theorem enterReady_due : (enterReady s a v d).due = s.due := rfl
@[simp] theorem enterReady_inService : (enterReady s a v d).inService = s.inService := rfl
@[simp] theorem enterReady_receiver : (enterReady s a v d).receiver = s.receiver := rfl
@[simp] theorem enterReady_held : (enterReady s a v d).held = s.held := rfl
@[simp] theorem enterReady_replies : (enterReady s a v d).replies = s.replies := rfl
@[simp] theorem enterReady_notices : (enterReady s a v d).notices = s.notices := rfl
@[simp] theorem enterReady_noticesLost : (enterReady s a v d).noticesLost = s.noticesLost := rfl
@[simp] theorem enterReady_badCheck : (enterReady s a v d).badCheck = s.badCheck := rfl
@[simp] theorem enterReady_lengthErrors : (enterReady s a v d).lengthErrors = s.lengthErrors := rfl
@[simp] theorem enterReady_gapErrors : (enterReady s a v d).gapErrors = s.gapErrors := rfl
@[simp] theorem enterReady_overruns : (enterReady s a v d).overruns = s.overruns := rfl
@[simp] theorem enterReady_sending : (enterReady s a v d).sending = s.sending := rfl
@[simp] theorem enterReady_frameEnds : (enterReady s a v d).frameEnds = s.frameEnds := rfl
@[simp] theorem enterReady_generations : (enterReady s a v d).generations = s.generations := rfl
@[simp] theorem enterReady_arrivals : (enterReady s a v d).arrivals = s.arrivals := rfl
@[simp] theorem enterReady_calls : (enterReady s a v d).calls = s.calls := rfl
@[simp] theorem enterReady_queues : (enterReady s a v d).queues = s.queues := rfl
@[simp] theorem enterReady_agents : (enterReady s a v d).agents = tableInsert s.agents a { v with status := .ready s.readies d } := rfl
@[simp] theorem enterReady_readyList : (enterReady s a v d).readyList = s.readyList ++ [a] := rfl
@[simp] theorem enterReady_readies : (enterReady s a v d).readies = s.readies + 1 := rfl
@[simp] theorem enterReady_samples : (enterReady s a v d).samples = s.samples := rfl
@[simp] theorem enterReady_clips : (enterReady s a v d).clips = s.clips := rfl
@[simp] theorem enterReady_programs : (enterReady s a v d).programs = s.programs := rfl
@[simp] theorem enterReady_voices : (enterReady s a v d).voices = s.voices := rfl
@[simp] theorem enterReady_silence : (enterReady s a v d).silence = s.silence := rfl
@[simp] theorem queueOf_enterReady : queueOf (enterReady s a v d) j = queueOf s j := rfl
@[simp] theorem callOf_enterReady : callOf (enterReady s a v d) j = callOf s j := rfl
@[simp] theorem generationOf_enterReady : generationOf (enterReady s a v d) j = generationOf s j := rfl
@[simp] theorem handleOf_enterReady : handleOf (enterReady s a v d) j = handleOf s j := rfl
@[simp] theorem clipOf_enterReady : clipOf (enterReady s a v d) j = clipOf s j := rfl
@[simp] theorem programOf_enterReady : programOf (enterReady s a v d) j = programOf s j := rfl
@[simp] theorem voiceOf_enterReady : voiceOf (enterReady s a v d) j = voiceOf s j := rfl

/-! ### `returnToPlace` -/

@[simp] theorem returnToPlace_pending : (returnToPlace s a v n).pending = s.pending := rfl
@[simp] theorem returnToPlace_clockRunning : (returnToPlace s a v n).clockRunning = s.clockRunning := rfl
@[simp] theorem returnToPlace_resetHeld : (returnToPlace s a v n).resetHeld = s.resetHeld := rfl
@[simp] theorem returnToPlace_unitAddress : (returnToPlace s a v n).unitAddress = s.unitAddress := rfl
@[simp] theorem returnToPlace_rateStraps : (returnToPlace s a v n).rateStraps = s.rateStraps := rfl
@[simp] theorem returnToPlace_powerOns : (returnToPlace s a v n).powerOns = s.powerOns := rfl
@[simp] theorem returnToPlace_freeDraws : (returnToPlace s a v n).freeDraws = s.freeDraws := rfl
@[simp] theorem returnToPlace_highway : (returnToPlace s a v n).highway = s.highway := rfl
@[simp] theorem returnToPlace_framePhase : (returnToPlace s a v n).framePhase = s.framePhase := rfl
@[simp] theorem returnToPlace_now : (returnToPlace s a v n).now = s.now := rfl
@[simp] theorem returnToPlace_syncPresent : (returnToPlace s a v n).syncPresent = s.syncPresent := rfl
@[simp] theorem returnToPlace_pulse : (returnToPlace s a v n).pulse = s.pulse := rfl
@[simp] theorem returnToPlace_due : (returnToPlace s a v n).due = s.due := rfl
@[simp] theorem returnToPlace_inService : (returnToPlace s a v n).inService = s.inService := rfl
@[simp] theorem returnToPlace_receiver : (returnToPlace s a v n).receiver = s.receiver := rfl
@[simp] theorem returnToPlace_held : (returnToPlace s a v n).held = s.held := rfl
@[simp] theorem returnToPlace_replies : (returnToPlace s a v n).replies = s.replies := rfl
@[simp] theorem returnToPlace_notices : (returnToPlace s a v n).notices = s.notices := rfl
@[simp] theorem returnToPlace_noticesLost : (returnToPlace s a v n).noticesLost = s.noticesLost := rfl
@[simp] theorem returnToPlace_badCheck : (returnToPlace s a v n).badCheck = s.badCheck := rfl
@[simp] theorem returnToPlace_lengthErrors : (returnToPlace s a v n).lengthErrors = s.lengthErrors := rfl
@[simp] theorem returnToPlace_gapErrors : (returnToPlace s a v n).gapErrors = s.gapErrors := rfl
@[simp] theorem returnToPlace_overruns : (returnToPlace s a v n).overruns = s.overruns := rfl
@[simp] theorem returnToPlace_sending : (returnToPlace s a v n).sending = s.sending := rfl
@[simp] theorem returnToPlace_frameEnds : (returnToPlace s a v n).frameEnds = s.frameEnds := rfl
@[simp] theorem returnToPlace_generations : (returnToPlace s a v n).generations = s.generations := rfl
@[simp] theorem returnToPlace_arrivals : (returnToPlace s a v n).arrivals = s.arrivals := rfl
@[simp] theorem returnToPlace_calls : (returnToPlace s a v n).calls = s.calls := rfl
@[simp] theorem returnToPlace_queues : (returnToPlace s a v n).queues = s.queues := rfl
@[simp] theorem returnToPlace_agents : (returnToPlace s a v n).agents = tableInsert s.agents a { v with status := .ready n none } := rfl
@[simp] theorem returnToPlace_readyList : (returnToPlace s a v n).readyList = readyInsert s a n s.readyList := rfl
@[simp] theorem returnToPlace_readies : (returnToPlace s a v n).readies = s.readies := rfl
@[simp] theorem returnToPlace_samples : (returnToPlace s a v n).samples = s.samples := rfl
@[simp] theorem returnToPlace_clips : (returnToPlace s a v n).clips = s.clips := rfl
@[simp] theorem returnToPlace_programs : (returnToPlace s a v n).programs = s.programs := rfl
@[simp] theorem returnToPlace_voices : (returnToPlace s a v n).voices = s.voices := rfl
@[simp] theorem returnToPlace_silence : (returnToPlace s a v n).silence = s.silence := rfl
@[simp] theorem queueOf_returnToPlace : queueOf (returnToPlace s a v n) j = queueOf s j := rfl
@[simp] theorem callOf_returnToPlace : callOf (returnToPlace s a v n) j = callOf s j := rfl
@[simp] theorem generationOf_returnToPlace : generationOf (returnToPlace s a v n) j = generationOf s j := rfl
@[simp] theorem handleOf_returnToPlace : handleOf (returnToPlace s a v n) j = handleOf s j := rfl
@[simp] theorem clipOf_returnToPlace : clipOf (returnToPlace s a v n) j = clipOf s j := rfl
@[simp] theorem programOf_returnToPlace : programOf (returnToPlace s a v n) j = programOf s j := rfl
@[simp] theorem voiceOf_returnToPlace : voiceOf (returnToPlace s a v n) j = voiceOf s j := rfl

/-! ### `leaveReady` -/

@[simp] theorem leaveReady_pending : (leaveReady s a).pending = s.pending := rfl
@[simp] theorem leaveReady_clockRunning : (leaveReady s a).clockRunning = s.clockRunning := rfl
@[simp] theorem leaveReady_resetHeld : (leaveReady s a).resetHeld = s.resetHeld := rfl
@[simp] theorem leaveReady_unitAddress : (leaveReady s a).unitAddress = s.unitAddress := rfl
@[simp] theorem leaveReady_rateStraps : (leaveReady s a).rateStraps = s.rateStraps := rfl
@[simp] theorem leaveReady_powerOns : (leaveReady s a).powerOns = s.powerOns := rfl
@[simp] theorem leaveReady_freeDraws : (leaveReady s a).freeDraws = s.freeDraws := rfl
@[simp] theorem leaveReady_highway : (leaveReady s a).highway = s.highway := rfl
@[simp] theorem leaveReady_framePhase : (leaveReady s a).framePhase = s.framePhase := rfl
@[simp] theorem leaveReady_now : (leaveReady s a).now = s.now := rfl
@[simp] theorem leaveReady_syncPresent : (leaveReady s a).syncPresent = s.syncPresent := rfl
@[simp] theorem leaveReady_pulse : (leaveReady s a).pulse = s.pulse := rfl
@[simp] theorem leaveReady_due : (leaveReady s a).due = s.due := rfl
@[simp] theorem leaveReady_inService : (leaveReady s a).inService = s.inService := rfl
@[simp] theorem leaveReady_receiver : (leaveReady s a).receiver = s.receiver := rfl
@[simp] theorem leaveReady_held : (leaveReady s a).held = s.held := rfl
@[simp] theorem leaveReady_replies : (leaveReady s a).replies = s.replies := rfl
@[simp] theorem leaveReady_notices : (leaveReady s a).notices = s.notices := rfl
@[simp] theorem leaveReady_noticesLost : (leaveReady s a).noticesLost = s.noticesLost := rfl
@[simp] theorem leaveReady_badCheck : (leaveReady s a).badCheck = s.badCheck := rfl
@[simp] theorem leaveReady_lengthErrors : (leaveReady s a).lengthErrors = s.lengthErrors := rfl
@[simp] theorem leaveReady_gapErrors : (leaveReady s a).gapErrors = s.gapErrors := rfl
@[simp] theorem leaveReady_overruns : (leaveReady s a).overruns = s.overruns := rfl
@[simp] theorem leaveReady_sending : (leaveReady s a).sending = s.sending := rfl
@[simp] theorem leaveReady_frameEnds : (leaveReady s a).frameEnds = s.frameEnds := rfl
@[simp] theorem leaveReady_generations : (leaveReady s a).generations = s.generations := rfl
@[simp] theorem leaveReady_arrivals : (leaveReady s a).arrivals = s.arrivals := rfl
@[simp] theorem leaveReady_calls : (leaveReady s a).calls = s.calls := rfl
@[simp] theorem leaveReady_queues : (leaveReady s a).queues = s.queues := rfl
@[simp] theorem leaveReady_agents : (leaveReady s a).agents = s.agents := rfl
@[simp] theorem leaveReady_readyList : (leaveReady s a).readyList = s.readyList.erase a := rfl
@[simp] theorem leaveReady_readies : (leaveReady s a).readies = s.readies := rfl
@[simp] theorem leaveReady_samples : (leaveReady s a).samples = s.samples := rfl
@[simp] theorem leaveReady_clips : (leaveReady s a).clips = s.clips := rfl
@[simp] theorem leaveReady_programs : (leaveReady s a).programs = s.programs := rfl
@[simp] theorem leaveReady_voices : (leaveReady s a).voices = s.voices := rfl
@[simp] theorem leaveReady_silence : (leaveReady s a).silence = s.silence := rfl
@[simp] theorem queueOf_leaveReady : queueOf (leaveReady s a) j = queueOf s j := rfl
@[simp] theorem agentOf_leaveReady : agentOf (leaveReady s a) j = agentOf s j := rfl
@[simp] theorem callOf_leaveReady : callOf (leaveReady s a) j = callOf s j := rfl
@[simp] theorem generationOf_leaveReady : generationOf (leaveReady s a) j = generationOf s j := rfl
@[simp] theorem handleOf_leaveReady : handleOf (leaveReady s a) j = handleOf s j := rfl
@[simp] theorem clipOf_leaveReady : clipOf (leaveReady s a) j = clipOf s j := rfl
@[simp] theorem programOf_leaveReady : programOf (leaveReady s a) j = programOf s j := rfl
@[simp] theorem voiceOf_leaveReady : voiceOf (leaveReady s a) j = voiceOf s j := rfl

/-! ### `count` -/

@[simp] theorem count_pending : (count s q f).pending = s.pending := rfl
@[simp] theorem count_clockRunning : (count s q f).clockRunning = s.clockRunning := rfl
@[simp] theorem count_resetHeld : (count s q f).resetHeld = s.resetHeld := rfl
@[simp] theorem count_unitAddress : (count s q f).unitAddress = s.unitAddress := rfl
@[simp] theorem count_rateStraps : (count s q f).rateStraps = s.rateStraps := rfl
@[simp] theorem count_powerOns : (count s q f).powerOns = s.powerOns := rfl
@[simp] theorem count_freeDraws : (count s q f).freeDraws = s.freeDraws := rfl
@[simp] theorem count_highway : (count s q f).highway = s.highway := rfl
@[simp] theorem count_framePhase : (count s q f).framePhase = s.framePhase := rfl
@[simp] theorem count_now : (count s q f).now = s.now := rfl
@[simp] theorem count_syncPresent : (count s q f).syncPresent = s.syncPresent := rfl
@[simp] theorem count_pulse : (count s q f).pulse = s.pulse := rfl
@[simp] theorem count_due : (count s q f).due = s.due := rfl
@[simp] theorem count_inService : (count s q f).inService = s.inService := rfl
@[simp] theorem count_receiver : (count s q f).receiver = s.receiver := rfl
@[simp] theorem count_held : (count s q f).held = s.held := rfl
@[simp] theorem count_replies : (count s q f).replies = s.replies := rfl
@[simp] theorem count_notices : (count s q f).notices = s.notices := rfl
@[simp] theorem count_noticesLost : (count s q f).noticesLost = s.noticesLost := rfl
@[simp] theorem count_badCheck : (count s q f).badCheck = s.badCheck := rfl
@[simp] theorem count_lengthErrors : (count s q f).lengthErrors = s.lengthErrors := rfl
@[simp] theorem count_gapErrors : (count s q f).gapErrors = s.gapErrors := rfl
@[simp] theorem count_overruns : (count s q f).overruns = s.overruns := rfl
@[simp] theorem count_sending : (count s q f).sending = s.sending := rfl
@[simp] theorem count_frameEnds : (count s q f).frameEnds = s.frameEnds := rfl
@[simp] theorem count_generations : (count s q f).generations = s.generations := rfl
@[simp] theorem count_arrivals : (count s q f).arrivals = s.arrivals := rfl
@[simp] theorem count_calls : (count s q f).calls = s.calls := rfl
@[simp] theorem count_queues : (count s q f).queues = tablePut queueAtReset s.queues q { queueOf s q with counters := f (queueOf s q).counters } := rfl
@[simp] theorem count_agents : (count s q f).agents = s.agents := rfl
@[simp] theorem count_readyList : (count s q f).readyList = s.readyList := rfl
@[simp] theorem count_readies : (count s q f).readies = s.readies := rfl
@[simp] theorem count_samples : (count s q f).samples = s.samples := rfl
@[simp] theorem count_clips : (count s q f).clips = s.clips := rfl
@[simp] theorem count_programs : (count s q f).programs = s.programs := rfl
@[simp] theorem count_voices : (count s q f).voices = s.voices := rfl
@[simp] theorem count_silence : (count s q f).silence = s.silence := rfl
@[simp] theorem agentOf_count : agentOf (count s q f) j = agentOf s j := rfl
@[simp] theorem callOf_count : callOf (count s q f) j = callOf s j := rfl
@[simp] theorem generationOf_count : generationOf (count s q f) j = generationOf s j := rfl
@[simp] theorem handleOf_count : handleOf (count s q f) j = handleOf s j := rfl
@[simp] theorem clipOf_count : clipOf (count s q f) j = clipOf s j := rfl
@[simp] theorem programOf_count : programOf (count s q f) j = programOf s j := rfl
@[simp] theorem voiceOf_count : voiceOf (count s q f) j = voiceOf s j := rfl

/-! ### `joinList` -/

@[simp] theorem joinList_pending : (joinList s h c).pending = s.pending := rfl
@[simp] theorem joinList_clockRunning : (joinList s h c).clockRunning = s.clockRunning := rfl
@[simp] theorem joinList_resetHeld : (joinList s h c).resetHeld = s.resetHeld := rfl
@[simp] theorem joinList_unitAddress : (joinList s h c).unitAddress = s.unitAddress := rfl
@[simp] theorem joinList_rateStraps : (joinList s h c).rateStraps = s.rateStraps := rfl
@[simp] theorem joinList_powerOns : (joinList s h c).powerOns = s.powerOns := rfl
@[simp] theorem joinList_freeDraws : (joinList s h c).freeDraws = s.freeDraws := rfl
@[simp] theorem joinList_highway : (joinList s h c).highway = s.highway := rfl
@[simp] theorem joinList_framePhase : (joinList s h c).framePhase = s.framePhase := rfl
@[simp] theorem joinList_now : (joinList s h c).now = s.now := rfl
@[simp] theorem joinList_syncPresent : (joinList s h c).syncPresent = s.syncPresent := rfl
@[simp] theorem joinList_pulse : (joinList s h c).pulse = s.pulse := rfl
@[simp] theorem joinList_due : (joinList s h c).due = s.due := rfl
@[simp] theorem joinList_inService : (joinList s h c).inService = s.inService := rfl
@[simp] theorem joinList_receiver : (joinList s h c).receiver = s.receiver := rfl
@[simp] theorem joinList_held : (joinList s h c).held = s.held := rfl
@[simp] theorem joinList_replies : (joinList s h c).replies = s.replies := rfl
@[simp] theorem joinList_notices : (joinList s h c).notices = s.notices := rfl
@[simp] theorem joinList_noticesLost : (joinList s h c).noticesLost = s.noticesLost := rfl
@[simp] theorem joinList_badCheck : (joinList s h c).badCheck = s.badCheck := rfl
@[simp] theorem joinList_lengthErrors : (joinList s h c).lengthErrors = s.lengthErrors := rfl
@[simp] theorem joinList_gapErrors : (joinList s h c).gapErrors = s.gapErrors := rfl
@[simp] theorem joinList_overruns : (joinList s h c).overruns = s.overruns := rfl
@[simp] theorem joinList_sending : (joinList s h c).sending = s.sending := rfl
@[simp] theorem joinList_frameEnds : (joinList s h c).frameEnds = s.frameEnds := rfl
@[simp] theorem joinList_generations : (joinList s h c).generations = s.generations := rfl
@[simp] theorem joinList_arrivals : (joinList s h c).arrivals = s.arrivals := rfl
@[simp] theorem joinList_calls : (joinList s h c).calls = s.calls := rfl
@[simp] theorem joinList_queues : (joinList s h c).queues = tablePut queueAtReset s.queues c.queue { queueOf s c.queue with waiting := arrivalInsert s h c.arrivalSeq (queueOf s c.queue).waiting } := rfl
@[simp] theorem joinList_agents : (joinList s h c).agents = s.agents := rfl
@[simp] theorem joinList_readyList : (joinList s h c).readyList = s.readyList := rfl
@[simp] theorem joinList_readies : (joinList s h c).readies = s.readies := rfl
@[simp] theorem joinList_samples : (joinList s h c).samples = s.samples := rfl
@[simp] theorem joinList_clips : (joinList s h c).clips = s.clips := rfl
@[simp] theorem joinList_programs : (joinList s h c).programs = s.programs := rfl
@[simp] theorem joinList_voices : (joinList s h c).voices = s.voices := rfl
@[simp] theorem joinList_silence : (joinList s h c).silence = s.silence := rfl
@[simp] theorem agentOf_joinList : agentOf (joinList s h c) j = agentOf s j := rfl
@[simp] theorem callOf_joinList : callOf (joinList s h c) j = callOf s j := rfl
@[simp] theorem generationOf_joinList : generationOf (joinList s h c) j = generationOf s j := rfl
@[simp] theorem handleOf_joinList : handleOf (joinList s h c) j = handleOf s j := rfl
@[simp] theorem clipOf_joinList : clipOf (joinList s h c) j = clipOf s j := rfl
@[simp] theorem programOf_joinList : programOf (joinList s h c) j = programOf s j := rfl
@[simp] theorem voiceOf_joinList : voiceOf (joinList s h c) j = voiceOf s j := rfl

/-! ### `leaveList` -/

@[simp] theorem leaveList_pending : (leaveList s h q).pending = s.pending := rfl
@[simp] theorem leaveList_clockRunning : (leaveList s h q).clockRunning = s.clockRunning := rfl
@[simp] theorem leaveList_resetHeld : (leaveList s h q).resetHeld = s.resetHeld := rfl
@[simp] theorem leaveList_unitAddress : (leaveList s h q).unitAddress = s.unitAddress := rfl
@[simp] theorem leaveList_rateStraps : (leaveList s h q).rateStraps = s.rateStraps := rfl
@[simp] theorem leaveList_powerOns : (leaveList s h q).powerOns = s.powerOns := rfl
@[simp] theorem leaveList_freeDraws : (leaveList s h q).freeDraws = s.freeDraws := rfl
@[simp] theorem leaveList_highway : (leaveList s h q).highway = s.highway := rfl
@[simp] theorem leaveList_framePhase : (leaveList s h q).framePhase = s.framePhase := rfl
@[simp] theorem leaveList_now : (leaveList s h q).now = s.now := rfl
@[simp] theorem leaveList_syncPresent : (leaveList s h q).syncPresent = s.syncPresent := rfl
@[simp] theorem leaveList_pulse : (leaveList s h q).pulse = s.pulse := rfl
@[simp] theorem leaveList_due : (leaveList s h q).due = s.due := rfl
@[simp] theorem leaveList_inService : (leaveList s h q).inService = s.inService := rfl
@[simp] theorem leaveList_receiver : (leaveList s h q).receiver = s.receiver := rfl
@[simp] theorem leaveList_held : (leaveList s h q).held = s.held := rfl
@[simp] theorem leaveList_replies : (leaveList s h q).replies = s.replies := rfl
@[simp] theorem leaveList_notices : (leaveList s h q).notices = s.notices := rfl
@[simp] theorem leaveList_noticesLost : (leaveList s h q).noticesLost = s.noticesLost := rfl
@[simp] theorem leaveList_badCheck : (leaveList s h q).badCheck = s.badCheck := rfl
@[simp] theorem leaveList_lengthErrors : (leaveList s h q).lengthErrors = s.lengthErrors := rfl
@[simp] theorem leaveList_gapErrors : (leaveList s h q).gapErrors = s.gapErrors := rfl
@[simp] theorem leaveList_overruns : (leaveList s h q).overruns = s.overruns := rfl
@[simp] theorem leaveList_sending : (leaveList s h q).sending = s.sending := rfl
@[simp] theorem leaveList_frameEnds : (leaveList s h q).frameEnds = s.frameEnds := rfl
@[simp] theorem leaveList_generations : (leaveList s h q).generations = s.generations := rfl
@[simp] theorem leaveList_arrivals : (leaveList s h q).arrivals = s.arrivals := rfl
@[simp] theorem leaveList_calls : (leaveList s h q).calls = s.calls := rfl
@[simp] theorem leaveList_queues : (leaveList s h q).queues = tablePut queueAtReset s.queues q { queueOf s q with waiting := (queueOf s q).waiting.erase h } := rfl
@[simp] theorem leaveList_agents : (leaveList s h q).agents = s.agents := rfl
@[simp] theorem leaveList_readyList : (leaveList s h q).readyList = s.readyList := rfl
@[simp] theorem leaveList_readies : (leaveList s h q).readies = s.readies := rfl
@[simp] theorem leaveList_samples : (leaveList s h q).samples = s.samples := rfl
@[simp] theorem leaveList_clips : (leaveList s h q).clips = s.clips := rfl
@[simp] theorem leaveList_programs : (leaveList s h q).programs = s.programs := rfl
@[simp] theorem leaveList_voices : (leaveList s h q).voices = s.voices := rfl
@[simp] theorem leaveList_silence : (leaveList s h q).silence = s.silence := rfl
@[simp] theorem agentOf_leaveList : agentOf (leaveList s h q) j = agentOf s j := rfl
@[simp] theorem callOf_leaveList : callOf (leaveList s h q) j = callOf s j := rfl
@[simp] theorem generationOf_leaveList : generationOf (leaveList s h q) j = generationOf s j := rfl
@[simp] theorem handleOf_leaveList : handleOf (leaveList s h q) j = handleOf s j := rfl
@[simp] theorem clipOf_leaveList : clipOf (leaveList s h q) j = clipOf s j := rfl
@[simp] theorem programOf_leaveList : programOf (leaveList s h q) j = programOf s j := rfl
@[simp] theorem voiceOf_leaveList : voiceOf (leaveList s h q) j = voiceOf s j := rfl

/-! ### `takeSample` -/

@[simp] theorem takeSample_pending : (takeSample s q n).pending = s.pending := rfl
@[simp] theorem takeSample_clockRunning : (takeSample s q n).clockRunning = s.clockRunning := rfl
@[simp] theorem takeSample_resetHeld : (takeSample s q n).resetHeld = s.resetHeld := rfl
@[simp] theorem takeSample_unitAddress : (takeSample s q n).unitAddress = s.unitAddress := rfl
@[simp] theorem takeSample_rateStraps : (takeSample s q n).rateStraps = s.rateStraps := rfl
@[simp] theorem takeSample_powerOns : (takeSample s q n).powerOns = s.powerOns := rfl
@[simp] theorem takeSample_freeDraws : (takeSample s q n).freeDraws = s.freeDraws := rfl
@[simp] theorem takeSample_highway : (takeSample s q n).highway = s.highway := rfl
@[simp] theorem takeSample_framePhase : (takeSample s q n).framePhase = s.framePhase := rfl
@[simp] theorem takeSample_now : (takeSample s q n).now = s.now := rfl
@[simp] theorem takeSample_syncPresent : (takeSample s q n).syncPresent = s.syncPresent := rfl
@[simp] theorem takeSample_pulse : (takeSample s q n).pulse = s.pulse := rfl
@[simp] theorem takeSample_due : (takeSample s q n).due = s.due := rfl
@[simp] theorem takeSample_inService : (takeSample s q n).inService = s.inService := rfl
@[simp] theorem takeSample_receiver : (takeSample s q n).receiver = s.receiver := rfl
@[simp] theorem takeSample_held : (takeSample s q n).held = s.held := rfl
@[simp] theorem takeSample_replies : (takeSample s q n).replies = s.replies := rfl
@[simp] theorem takeSample_notices : (takeSample s q n).notices = s.notices := rfl
@[simp] theorem takeSample_noticesLost : (takeSample s q n).noticesLost = s.noticesLost := rfl
@[simp] theorem takeSample_badCheck : (takeSample s q n).badCheck = s.badCheck := rfl
@[simp] theorem takeSample_lengthErrors : (takeSample s q n).lengthErrors = s.lengthErrors := rfl
@[simp] theorem takeSample_gapErrors : (takeSample s q n).gapErrors = s.gapErrors := rfl
@[simp] theorem takeSample_overruns : (takeSample s q n).overruns = s.overruns := rfl
@[simp] theorem takeSample_sending : (takeSample s q n).sending = s.sending := rfl
@[simp] theorem takeSample_frameEnds : (takeSample s q n).frameEnds = s.frameEnds := rfl
@[simp] theorem takeSample_generations : (takeSample s q n).generations = s.generations := rfl
@[simp] theorem takeSample_arrivals : (takeSample s q n).arrivals = s.arrivals := rfl
@[simp] theorem takeSample_calls : (takeSample s q n).calls = s.calls := rfl
@[simp] theorem takeSample_queues : (takeSample s q n).queues = tablePut queueAtReset s.queues q { queueOf s q with aht16 := foldSample (queueOf s q).aht16 (queueOf s q).settings.smoothingShift n } := rfl
@[simp] theorem takeSample_agents : (takeSample s q n).agents = s.agents := rfl
@[simp] theorem takeSample_readyList : (takeSample s q n).readyList = s.readyList := rfl
@[simp] theorem takeSample_readies : (takeSample s q n).readies = s.readies := rfl
@[simp] theorem takeSample_samples : (takeSample s q n).samples = s.samples := rfl
@[simp] theorem takeSample_clips : (takeSample s q n).clips = s.clips := rfl
@[simp] theorem takeSample_programs : (takeSample s q n).programs = s.programs := rfl
@[simp] theorem takeSample_voices : (takeSample s q n).voices = s.voices := rfl
@[simp] theorem takeSample_silence : (takeSample s q n).silence = s.silence := rfl
@[simp] theorem agentOf_takeSample : agentOf (takeSample s q n) j = agentOf s j := rfl
@[simp] theorem callOf_takeSample : callOf (takeSample s q n) j = callOf s j := rfl
@[simp] theorem generationOf_takeSample : generationOf (takeSample s q n) j = generationOf s j := rfl
@[simp] theorem handleOf_takeSample : handleOf (takeSample s q n) j = handleOf s j := rfl
@[simp] theorem clipOf_takeSample : clipOf (takeSample s q n) j = clipOf s j := rfl
@[simp] theorem programOf_takeSample : programOf (takeSample s q n) j = programOf s j := rfl
@[simp] theorem voiceOf_takeSample : voiceOf (takeSample s q n) j = voiceOf s j := rfl
/-! ### Reads after writes -/

@[simp] theorem queueOf_setQueueRec : queueOf (setQueueRec s q r) j = if j = q then r else queueOf s j :=
  tablePut_getD queueAtReset s.queues q j r

@[simp] theorem queueOf_count :
    queueOf (count s q f) j = if j = q then { queueOf s q with counters := f (queueOf s q).counters } else queueOf s j :=
  queueOf_setQueueRec s q j _

@[simp] theorem queueOf_joinList :
    queueOf (joinList s h c) j =
      if j = c.queue then { queueOf s c.queue with waiting := arrivalInsert s h c.arrivalSeq (queueOf s c.queue).waiting }
      else queueOf s j :=
  queueOf_setQueueRec s c.queue j _

@[simp] theorem queueOf_leaveList :
    queueOf (leaveList s h q) j =
      if j = q then { queueOf s q with waiting := (queueOf s q).waiting.erase h } else queueOf s j :=
  queueOf_setQueueRec s q j _

@[simp] theorem queueOf_takeSample :
    queueOf (takeSample s q n) j =
      if j = q then { queueOf s q with aht16 := foldSample (queueOf s q).aht16 (queueOf s q).settings.smoothingShift n }
      else queueOf s j :=
  queueOf_setQueueRec s q j _

@[simp] theorem agentOf_setAgentRec : agentOf (setAgentRec s a v) j = if j = a then some v else agentOf s j :=
  tableFind_tableInsert s.agents a j v

@[simp] theorem agentOf_dropAgent : agentOf (dropAgent s a) j = if j = a then none else agentOf s j :=
  tableFind_tableErase s.agents a j

@[simp] theorem agentOf_enterReady :
    agentOf (enterReady s a v d) j = if j = a then some { v with status := .ready s.readies d } else agentOf s j :=
  tableFind_tableInsert s.agents a j _

@[simp] theorem agentOf_returnToPlace :
    agentOf (returnToPlace s a v n) j = if j = a then some { v with status := .ready n none } else agentOf s j :=
  tableFind_tableInsert s.agents a j _

@[simp] theorem clipOf_setClipRec : clipOf (setClipRec s k e) j = if j = k then some e else clipOf s j :=
  tableFind_tableInsert s.clips k j e

@[simp] theorem clipOf_dropClip : clipOf (dropClip s k) j = if j = k then none else clipOf s j :=
  tableFind_tableErase s.clips k j

@[simp] theorem voiceOf_setVoiceRec : voiceOf (setVoiceRec s k x) j = if j = k then some x else voiceOf s j :=
  tableFind_tableInsert s.voices k j x

@[simp] theorem voiceOf_dropVoice : voiceOf (dropVoice s k) j = if j = k then none else voiceOf s j :=
  tableFind_tableErase s.voices k j

/-- A handle names a call exactly when its slot is in use and carries its generation. -/
theorem callOf_eq_some : callOf s h = some c ↔
    generationOf s (slotOf h) = h / Config.callSlots ∧ tableFind s.calls (slotOf h) = some c := by
  unfold callOf
  split <;> simp_all

/-- Writing the record of a call that is in use. -/
theorem callOf_setCallRec_self {s : State} {h : Nat} {b : Call} (hb : callOf s h = some b) (c : Call) :
    callOf (setCallRec s h c) h = some c := by
  rw [callOf_eq_some] at hb ⊢
  exact ⟨hb.1, tableFind_tableInsert_self _ _ _⟩

theorem callOf_setCallRec_of_ne {h k : Nat} (c : Call) (hk : slotOf k ≠ slotOf h) :
    callOf (setCallRec s h c) k = callOf s k := by
  simp only [callOf, generationOf_setCallRec, setCallRec_calls, tableFind_tableInsert_of_ne _ _ hk]

theorem generationOf_freeCall :
    generationOf (freeCall s h) j = if j = slotOf h then (generationOf s (slotOf h) + 1) % 32 else generationOf s j :=
  tablePut_getD 0 s.generations (slotOf h) j _

theorem callOf_freeCall_of_ne {h k : Nat} (hk : slotOf k ≠ slotOf h) : callOf (freeCall s h) k = callOf s k := by
  simp only [callOf, generationOf_freeCall, freeCall_calls, tableFind_tableErase_of_ne _ hk, hk, if_false]

theorem callOf_freeCall_of_eq {h k : Nat} (hk : slotOf k = slotOf h) : callOf (freeCall s h) k = none := by
  simp [callOf, hk]

end Sys2Proof.Machine
end

