-- ==== Sys2Proof/Laws/Matching.lean ====
section
/-!
SUPPORT. What the shared operations of matching can do: notices, the surge monitor, offers and their ends, and the wraps' steps.
`outsideMatching` of a state is everything they leave alone.
-/

namespace Sys2Proof.Machine

/-! ### What `outsideMatching` holds -/

theorem outsideMatching_eq_iff (s t : State) : outsideMatching s = outsideMatching t ↔
    sendingBlanked s = sendingBlanked t ∧ { s with
      calls := t.calls, queues := t.queues, agents := t.agents, readyList := t.readyList, readies := t.readies,
      notices := t.notices, noticesLost := t.noticesLost, sending := t.sending, frameEnds := t.frameEnds, due := t.due } = t := by
  cases s; cases t; simp only [outsideMatching, State.mk.injEq, true_and]; tauto

@[simp] theorem outsideMatching_setQueueRec (s : State) (q : Nat) (r : Queue) :
    outsideMatching (setQueueRec s q r) = outsideMatching s := rfl
@[simp] theorem outsideMatching_setAgentRec (s : State) (a : Nat) (v : Agent) :
    outsideMatching (setAgentRec s a v) = outsideMatching s := rfl
@[simp] theorem outsideMatching_dropAgent (s : State) (a : Nat) : outsideMatching (dropAgent s a) = outsideMatching s := rfl
@[simp] theorem outsideMatching_setCallRec (s : State) (h : Nat) (c : Call) :
    outsideMatching (setCallRec s h c) = outsideMatching s := rfl
@[simp] theorem outsideMatching_enterReady (s : State) (a : Nat) (v : Agent) (d : Option Time) :
    outsideMatching (enterReady s a v d) = outsideMatching s := rfl
@[simp] theorem outsideMatching_returnToPlace (s : State) (a : Nat) (v : Agent) (n : Nat) :
    outsideMatching (returnToPlace s a v n) = outsideMatching s := rfl
@[simp] theorem outsideMatching_leaveReady (s : State) (a : Nat) : outsideMatching (leaveReady s a) = outsideMatching s := rfl
@[simp] theorem outsideMatching_count (s : State) (q : Nat) (f : Counters → Counters) :
    outsideMatching (count s q f) = outsideMatching s := rfl
@[simp] theorem outsideMatching_joinList (s : State) (h : Nat) (c : Call) :
    outsideMatching (joinList s h c) = outsideMatching s := rfl
@[simp] theorem outsideMatching_leaveList (s : State) (h q : Nat) : outsideMatching (leaveList s h q) = outsideMatching s := rfl
@[simp] theorem outsideMatching_takeSample (s : State) (q n : Nat) : outsideMatching (takeSample s q n) = outsideMatching s := rfl
@[simp] theorem outsideMatching_trimWraps (s : State) (q : Nat) : outsideMatching (trimWraps s q) = outsideMatching s := rfl

/-! ### Notices (R187) -/

/-- All that raising a notice can do: it joins at the tail; or, of 256 waiting, the head leaves for the transmitter and it joins
behind the others; or it is lost. -/
theorem notify_cases (kind : Nat) (body : List LinkField) (s : State) :
    (s.notices.length < 256 ∧ notify kind body s =
      { s with notices := s.notices ++ [{ frameClass := 4, kind := kind, body := f4 s.now.toNat :: body }] }) ∨
    (∃ f x rest, s.sending = some f ∧ s.replies = [] ∧ s.notices = x :: rest ∧ 255 ≤ rest.length ∧ notify kind body s =
      { s with
        sending := some x, frameEnds := s.frameEnds + 1,
        notices := rest ++ [{ frameClass := 4, kind := kind, body := f4 s.now.toNat :: body }] }) ∨
    (256 ≤ s.notices.length ∧ notify kind body s = { s with noticesLost := true, frameEnds := s.frameEnds + 1 }) := by
  unfold notify
  dsimp only
  split
  · next h => exact .inl ⟨h, rfl⟩
  · next h =>
    have hl : 256 ≤ s.notices.length := Nat.not_lt.1 h
    split
    · next he =>
      simp only [Bool.and_eq_true, List.isEmpty_iff] at he
      obtain ⟨f, hf⟩ := Option.isSome_iff_exists.1 he.1.1
      cases hn : s.notices with
      | nil => simp [hn] at hl
      | cons x rest =>
        have hr : 255 ≤ rest.length := by rw [hn, List.length_cons] at hl; omega
        exact .inr (.inl ⟨f, x, rest, hf, he.1.2, rfl, hr, rfl⟩)
    · exact .inr (.inr ⟨hl, rfl⟩)

theorem notify_of_lt {s : State} (h : s.notices.length < 256) (kind : Nat) (body : List LinkField) :
    notify kind body s =
      { s with notices := s.notices ++ [{ frameClass := 4, kind := kind, body := f4 s.now.toNat :: body }] } := if_pos h

/-- A notice changes the notices, the notices-lost flag, the frame being sent and the count of open moments alone. -/
theorem notify_frame (kind : Nat) (body : List LinkField) (s : State) :
    { notify kind body s with
      notices := s.notices, noticesLost := s.noticesLost, sending := s.sending, frameEnds := s.frameEnds } = s := by
  rcases notify_cases kind body s with ⟨-, e⟩ | ⟨f, x, rest, -, -, -, -, e⟩ | ⟨-, e⟩ <;> rw [e]

/-- A transmitter that is busy stays busy, and one that is idle stays idle. -/
@[simp] theorem notify_sendingBlanked (kind : Nat) (body : List LinkField) (s : State) :
    sendingBlanked (notify kind body s) = sendingBlanked s := by
  rcases notify_cases kind body s with ⟨-, e⟩ | ⟨f, x, rest, hf, -, -, -, e⟩ | ⟨-, e⟩ <;> rw [e]
  · rfl
  · simp [sendingBlanked, hf]
  · rfl

/-- A state read through anything but the notices is the same after a notice. -/
theorem notify_read {β : Type} (g : State → β)
    (hg : ∀ (s : State) n b x e, g { s with notices := n, noticesLost := b, sending := x, frameEnds := e } = g s)
    (kind : Nat) (body : List LinkField) (s : State) : g (notify kind body s) = g s := by
  rw [← hg (notify kind body s) s.notices s.noticesLost s.sending s.frameEnds, notify_frame]

@[simp] theorem notify_calls (kind body s) : (notify kind body s).calls = s.calls := notify_read _ (fun _ _ _ _ _ => rfl) ..
@[simp] theorem notify_queues (kind body s) : (notify kind body s).queues = s.queues := notify_read _ (fun _ _ _ _ _ => rfl) ..
@[simp] theorem notify_agents (kind body s) : (notify kind body s).agents = s.agents := notify_read _ (fun _ _ _ _ _ => rfl) ..
@[simp] theorem notify_clips (kind body s) : (notify kind body s).clips = s.clips := notify_read _ (fun _ _ _ _ _ => rfl) ..
@[simp] theorem notify_voices (kind body s) : (notify kind body s).voices = s.voices := notify_read _ (fun _ _ _ _ _ => rfl) ..
@[simp] theorem notify_programs (kind body s) : (notify kind body s).programs = s.programs := notify_read _ (fun _ _ _ _ _ => rfl) ..
@[simp] theorem notify_readyList (kind body s) : (notify kind body s).readyList = s.readyList := notify_read _ (fun _ _ _ _ _ => rfl) ..
@[simp] theorem notify_readies (kind body s) : (notify kind body s).readies = s.readies := notify_read _ (fun _ _ _ _ _ => rfl) ..
@[simp] theorem notify_now (kind body s) : (notify kind body s).now = s.now := notify_read _ (fun _ _ _ _ _ => rfl) ..
@[simp] theorem notify_due (kind body s) : (notify kind body s).due = s.due := notify_read _ (fun _ _ _ _ _ => rfl) ..
@[simp] theorem notify_generations (kind body s) : (notify kind body s).generations = s.generations :=
  notify_read _ (fun _ _ _ _ _ => rfl) ..
@[simp] theorem queueOf_notify (kind body s q) : queueOf (notify kind body s) q = queueOf s q := by simp [queueOf]
@[simp] theorem agentOf_notify (kind body s a) : agentOf (notify kind body s) a = agentOf s a := by simp [agentOf]
@[simp] theorem generationOf_notify (kind body s k) : generationOf (notify kind body s) k = generationOf s k := by
  simp [generationOf]
@[simp] theorem callOf_notify (kind body s h) : callOf (notify kind body s) h = callOf s h := by simp [callOf]
@[simp] theorem clipOf_notify (kind body s k) : clipOf (notify kind body s) k = clipOf s k := by simp [clipOf]
@[simp] theorem voiceOf_notify (kind body s v) : voiceOf (notify kind body s) v = voiceOf s v := by simp [voiceOf]
@[simp] theorem programOf_notify (kind body s p) : programOf (notify kind body s) p = programOf s p := by simp [programOf]
@[simp] theorem outsideMatching_notify (kind body s) : outsideMatching (notify kind body s) = outsideMatching s := by
  unfold outsideMatching
  rw [notify_sendingBlanked]
  exact notify_read (fun t => { t with
    calls := [], queues := [], agents := [], readyList := [], readies := 0, notices := [], noticesLost := false,
    sending := sendingBlanked s, frameEnds := 0, due := noWork }) (fun _ _ _ _ _ => rfl) ..

/-- A notice that finds a place stands last. -/
theorem notify_getLast {s : State} (h : s.notices.length < 256) (kind : Nat) (body : List LinkField) :
    (notify kind body s).notices.getLast? = some { frameClass := 4, kind := kind, body := f4 s.now.toNat :: body } := by
  simp [notify_of_lt h]

theorem notify_length_le (kind body s) : (notify kind body s).notices.length ≤ s.notices.length + 1 := by
  rcases notify_cases kind body s with ⟨-, e⟩ | ⟨f, x, rest, -, -, h, -, e⟩ | ⟨-, e⟩ <;> rw [e] <;> simp [*]

/-- The notice queue holds no more than its 256 places (R187). -/
theorem notify_length_bound {s : State} (h : s.notices.length ≤ 256) (kind body) :
    (notify kind body s).notices.length ≤ 256 := by
  rcases notify_cases kind body s with ⟨hl, e⟩ | ⟨f, x, rest, -, -, hn, -, e⟩ | ⟨-, e⟩ <;> rw [e]
  · simpa using hl
  · simpa [hn] using h
  · exact h

/-! ### The surge monitor (R93, R109 to R114) -/

@[simp] theorem withoutDeadline_trimmed (q : Nat) (limit : Time) (v : Agent) :
    withoutDeadline (trimmed q limit v) = withoutDeadline v := by
  obtain ⟨st, _, _, _, _⟩ := v
  cases st with
  | wrap w p => simp only [trimmed]; split <;> simp [withoutDeadline]
  | notReady r => rfl
  | ready n d => rfl
  | offered h n => rfl
  | talking h p => rfl

/-- A trim changes wrap deadlines alone. -/
theorem agentOf_trimWraps (s : State) (q a : Nat) : agentOf (trimWraps s q) a =
    (agentOf s a).map (trimmed q (timeAfter s.now (queueOf s q).settings.surgeWrapAllowance)) := by
  exact tableFind_map s.agents (fun _ => trimmed q (timeAfter s.now (queueOf s q).settings.surgeWrapAllowance)) a

theorem outsideMatching_surgeNotice (q b m n s) : outsideMatching (surgeNotice q b m n s) = outsideMatching s :=
  outsideMatching_notify ..

/-- Everything an evaluation of queue `q` can do: the surge flag of that queue takes its value, a wrap's deadline may be trimmed and
its signal withdrawn, and a notice may be queued. -/
theorem evalSurge_spec (q : Nat) (s : State) :
    (∀ j, queueOf (evalSurge q s) j = if j = q then { queueOf s q with
      surge := if (queueOf s q).surge then !exitMet s q else countMet s q || waitMet s q } else queueOf s j) ∧
    (∀ a, (agentOf (evalSurge q s) a).map withoutDeadline = (agentOf s a).map withoutDeadline) ∧
    (evalSurge q s).calls = s.calls ∧ (evalSurge q s).readyList = s.readyList ∧ (evalSurge q s).readies = s.readies ∧
    (evalSurge q s).due.offers = s.due.offers ∧ (evalSurge q s).due.coolDowns = s.due.coolDowns ∧
    (evalSurge q s).due.surge = s.due.surge ∧ (evalSurge q s).notices.length ≤ s.notices.length + 1 ∧
    outsideMatching (evalSurge q s) = outsideMatching s := by
  have same : ∀ b, (queueOf s q).surge = b → ∀ j, queueOf s j = if j = q then { queueOf s q with surge := b } else queueOf s j := by
    intro b hb j; split
    · next h => subst h; simp [← hb]
    · rfl
  unfold evalSurge
  split
  · next hs =>
    split
    · next he =>
      simp only [leaveSurge, surgeNotice, queueOf_notify, queueOf_setQueueRec, agentOf_notify, agentOf_setQueueRec, notify_calls,
        setQueueRec_calls, notify_readyList, setQueueRec_readyList, notify_readies, setQueueRec_readies, notify_due,
        setQueueRec_due, outsideMatching_notify, outsideMatching_setQueueRec, he, if_true, Bool.not_true, implies_true,
        true_and, and_true]
      exact notify_length_le ..
    · next he => simpa [he, hs] using same true hs
  · next hs =>
    rw [Bool.not_eq_true] at hs
    split
    · next he =>
      simp only [enterSurge]
      split
      · simp only [surgeNotice, queueOf_notify, agentOf_notify, notify_calls, notify_readyList, notify_readies, notify_due,
          outsideMatching_notify, outsideMatching_trimWraps, outsideMatching_setQueueRec, agentOf_trimWraps, Option.map_map]
        refine ⟨fun j => ?_, fun a => ?_, rfl, rfl, rfl, rfl, rfl, rfl, notify_length_le .., trivial⟩
        · exact (queueOf_setQueueRec ..).trans (by simp [he])
        · congr 1; funext v; simp
      · simp only [surgeNotice, queueOf_notify, agentOf_notify, notify_calls, notify_readyList, notify_readies, notify_due,
          outsideMatching_notify, outsideMatching_setQueueRec, queueOf_setQueueRec, agentOf_setQueueRec, he]
        refine ⟨fun j => ?_, fun a => trivial, rfl, rfl, rfl, rfl, rfl, rfl, notify_length_le .., trivial⟩
        simp
    · next he => simpa [he, hs] using same false hs

/-- An agent that is in no wrap is not touched by what leaves everything but deadlines alone. -/
theorem eq_of_withoutDeadline {o : Option Agent} {v : Agent} (h : o.map withoutDeadline = some (withoutDeadline v))
    (hv : wrapOf v = none) : o = some v := by
  obtain ⟨u, rfl, hu⟩ := Option.map_eq_some_iff.1 h
  obtain ⟨st, _, _, _, _⟩ := u
  obtain ⟨st', _, _, _, _⟩ := v
  cases st <;> cases st' <;> simp_all [withoutDeadline, wrapOf]

@[simp] theorem outsideMatching_evalSurge (q : Nat) (s : State) : outsideMatching (evalSurge q s) = outsideMatching s :=
  (evalSurge_spec q s).2.2.2.2.2.2.2.2.2
@[simp] theorem evalSurge_calls (q : Nat) (s : State) : (evalSurge q s).calls = s.calls := (evalSurge_spec q s).2.2.1
@[simp] theorem evalSurge_readyList (q : Nat) (s : State) : (evalSurge q s).readyList = s.readyList := (evalSurge_spec q s).2.2.2.1
@[simp] theorem evalSurge_readies (q : Nat) (s : State) : (evalSurge q s).readies = s.readies := (evalSurge_spec q s).2.2.2.2.1
@[simp] theorem evalSurge_generations (q : Nat) (s : State) : (evalSurge q s).generations = s.generations := by
  simpa [outsideMatching] using congrArg State.generations (outsideMatching_evalSurge q s)
@[simp] theorem evalSurge_now (q : Nat) (s : State) : (evalSurge q s).now = s.now := by
  simpa [outsideMatching] using congrArg State.now (outsideMatching_evalSurge q s)
@[simp] theorem generationOf_evalSurge (q : Nat) (s : State) (k : Nat) : generationOf (evalSurge q s) k = generationOf s k := by
  simp only [generationOf, evalSurge_generations]
@[simp] theorem callOf_evalSurge (q : Nat) (s : State) (h : Nat) : callOf (evalSurge q s) h = callOf s h := by
  simp only [callOf, generationOf_evalSurge, evalSurge_calls]
theorem queueOf_evalSurge_of_ne (s : State) {q j : Nat} (h : j ≠ q) : queueOf (evalSurge q s) j = queueOf s j := by
  rw [(evalSurge_spec q s).1, if_neg h]

/-- An agent in no wrap is not touched by an evaluation. -/
theorem agentOf_evalSurge_of_not_wrap {s : State} {a : Nat} {v : Agent} (h : agentOf s a = some v) (hv : wrapOf v = none) (q : Nat) :
    agentOf (evalSurge q s) a = some v :=
  eq_of_withoutDeadline (by rw [(evalSurge_spec q s).2.1, h]; rfl) hv

/-! ### Offers (R54 to R62) -/

/-- The offer of a call in use to an agent that is logged in. -/
theorem makeOffer_eq {h a : Nat} {s : State} {c : Call} {v : Agent} (hc : callOf s h = some c) (hv : agentOf s a = some v)
    (rotate : Bool) :
    makeOffer h a rotate s =
      (let deadline := offerDeadline s c.queue
       let c' := { c with status := .offered a deadline, offerCount := min 255 (c.offerCount + 1) }
       let s1 := setCallRec (leaveList s h c.queue) h c'
       let s2 := setAgentRec (leaveReady s1 a) a { v with status := .offered h (readySeqOf s a) }
       let s3 := if rotate then setQueueRec s2 c.queue { queueOf s2 c.queue with cursor := a } else s2
       offerNotice h a c' deadline (evalSurge c.queue s3)) := by
  simp only [makeOffer, hc, hv]

/-- Without a call or an agent there is no offer. -/
theorem makeOffer_eq_self {h a : Nat} {s : State} (hn : callOf s h = none ∨ agentOf s a = none) (rotate : Bool) :
    makeOffer h a rotate s = s := by
  unfold makeOffer
  split
  · next h1 h2 => exact absurd hn (by simp [h1, h2])
  · rfl

@[simp] theorem outsideMatching_makeOffer (h a : Nat) (rotate : Bool) (s : State) :
    outsideMatching (makeOffer h a rotate s) = outsideMatching s := by
  unfold makeOffer
  split
  · simp only [offerNotice, outsideMatching_notify, outsideMatching_evalSurge]
    split <;> simp
  · rfl

/-- All that call-side matching can do: nothing, or the offer of the call, WAITING in an offering queue, to a candidate. -/
theorem matchCall_cases (h : Nat) (s : State) :
    matchCall h s = s ∨ ∃ c a, callOf s h = some c ∧ c.status = .waiting ∧ offering (queueOf s c.queue).state = true ∧
      chooseAgent s c = some a ∧
      matchCall h s = makeOffer h a ((queueOf s c.queue).settings.policy == .rotate) s := by
  unfold matchCall
  split
  · exact .inl rfl
  · next c hc =>
    split
    · next hw =>
      split
      · exact .inl rfl
      · next a ha => simp [isWaiting] at hw; exact .inr ⟨c, a, hc, hw.1, hw.2, ha, rfl⟩
    · exact .inl rfl

/-- All that agent-side arbitration can do: nothing, or the offer of the best call the agent could take. -/
theorem matchAgent_cases (a : Nat) (s : State) :
    matchAgent a s = s ∨ ∃ v slot c, agentOf s a = some v ∧ bestCall s a v s.calls = some (slot, c) ∧
      matchAgent a s = makeOffer (handleOf s slot) a false s := by
  unfold matchAgent
  split
  · exact .inl rfl
  · next v hv =>
    split
    · exact .inl rfl
    · next slot c hb => exact .inr ⟨v, slot, c, hv, hb, rfl⟩

/-- The best call is one of the calls, and one the agent could take. -/
theorem bestCall_mem {s : State} {a : Nat} {v : Agent} {t : Table Call} {e : Nat × Call} (h : bestCall s a v t = some e) :
    e ∈ t ∧ takeable s a v e.2 = true := by
  induction t generalizing e with
  | nil => simp [bestCall] at h
  | cons f t ih =>
    obtain ⟨slot, c⟩ := f
    cases hb : bestCall s a v t with
    | none =>
      simp only [bestCall, hb] at h
      split at h
      · next ht => cases h; exact ⟨List.mem_cons_self, ht⟩
      · cases h
    | some g =>
      simp only [bestCall, hb] at h
      split at h
      · next ht => cases h; exact ⟨List.mem_cons_self, ((Bool.and_eq_true _ _).mp ht).1⟩
      · cases h; exact ⟨List.mem_cons_of_mem _ (ih hb).1, (ih hb).2⟩

@[simp] theorem outsideMatching_matchCall (h : Nat) (s : State) : outsideMatching (matchCall h s) = outsideMatching s := by
  rcases matchCall_cases h s with e | ⟨c, a, -, -, -, -, e⟩ <;> rw [e]
  simp

@[simp] theorem outsideMatching_matchAgent (a : Nat) (s : State) : outsideMatching (matchAgent a s) = outsideMatching s := by
  rcases matchAgent_cases a s with e | ⟨v, k, c, -, -, e⟩ <;> rw [e]
  simp

@[simp] theorem outsideMatching_offerAgent (a : Nat) (s : State) : outsideMatching (offerAgent a s) = outsideMatching s := by
  unfold offerAgent; split <;> simp

@[simp] theorem outsideMatching_reopeningPass (q : Nat) (s : State) :
    outsideMatching (reopeningPass q s) = outsideMatching s := by
  unfold reopeningPass
  generalize (rankOrder s q).map (·.1) = l
  induction l generalizing s with
  | nil => rfl
  | cons h l ih => rw [List.foldl_cons, ih, outsideMatching_matchCall]

@[simp] theorem outsideMatching_returnCall (h a : Nat) (c : Call) (s : State) :
    outsideMatching (returnCall h a c s) = outsideMatching s := by
  simp [returnCall]

/-- A new place in a waiting list keeps the others, and adds the one. -/
theorem mem_arrivalInsert (s : State) (h seq k : Nat) (l : List Nat) : k ∈ arrivalInsert s h seq l ↔ k = h ∨ k ∈ l := by
  induction l with
  | nil => simp [arrivalInsert]
  | cons x l ih => simp only [arrivalInsert]; split <;> simp_all; tauto

theorem mem_readyInsert (s : State) (a seq k : Nat) (l : List Nat) : k ∈ readyInsert s a seq l ↔ k = a ∨ k ∈ l := by
  induction l with
  | nil => simp [readyInsert]
  | cons x l ih => simp only [readyInsert]; split <;> simp_all; tauto

/-! ### Wraps (R84, R85) -/

@[simp] theorem outsideMatching_enterOutcome (s : State) (a : Nat) (v : Agent) (o : WrapOutcome) :
    outsideMatching (enterOutcome s a v o) = outsideMatching s := by
  cases o <;> rfl

@[simp] theorem outsideMatching_endWrap (a : Nat) (v : Agent) (w : WrapRecord) (o : WrapOutcome) (expired : Bool) (s : State) :
    outsideMatching (endWrap a v w o expired s) = outsideMatching s := by
  cases o <;> cases expired <;> simp [endWrap, wrapExpiredNotice]

/-- A queue's average moves toward sixteen times the sample (R98): it never passes it. -/
theorem foldSample_le (old k sample m : Nat) (h : old ≤ m) (h' : sample * 16 ≤ m) : foldSample old k sample ≤ m := by
  unfold foldSample
  have hp : (0 : Int) < ((2 ^ k : Nat) : Int) := by positivity
  have h1 : (((sample * 16 : Nat) : Int) - (old : Int)) / ((2 ^ k : Nat) : Int) ≤ m - old := by
    by_cases hd : (0 : Int) ≤ ((sample * 16 : Nat) : Int) - old
    · exact (Int.ediv_le_self _ hd).trans (by omega)
    · exact ((Int.ediv_neg_of_neg_of_pos (by omega) hp).le).trans (by omega)
  simp only [Int.toNat_le]
  omega

end Sys2Proof.Machine
end

