-- ==== Sys2Proof/Laws/Audio.lean ====
section
/-!
SUPPORT. What the shared operations of the audio side can do (07): they write voices, use counts, notices, and of a call only what the
Playout Unit writes.
-/

namespace Sys2Proof.Machine

/-- From `s` to `t` the audio side alone has moved. -/
def AudioOnly (s t : State) : Prop :=
  outsideAudio t = outsideAudio s ∧
    (∀ slot, (tableFind t.calls slot).map withoutAudio = (tableFind s.calls slot).map withoutAudio) ∧
    ∀ k, (clipOf t k).map withoutUse = (clipOf s k).map withoutUse

theorem AudioOnly.refl (s : State) : AudioOnly s s := ⟨rfl, fun _ => rfl, fun _ => rfl⟩

theorem AudioOnly.trans {s t u : State} (h : AudioOnly s t) (h' : AudioOnly t u) : AudioOnly s u :=
  ⟨h'.1.trans h.1, fun k => (h'.2.1 k).trans (h.2.1 k), fun k => (h'.2.2 k).trans (h.2.2 k)⟩

theorem AudioOnly.generations {s t : State} (h : AudioOnly s t) : t.generations = s.generations := by
  simpa [outsideAudio] using congrArg State.generations h.1

theorem AudioOnly.queues {s t : State} (h : AudioOnly s t) : t.queues = s.queues := by
  simpa [outsideAudio] using congrArg State.queues h.1

theorem AudioOnly.agents {s t : State} (h : AudioOnly s t) : t.agents = s.agents := by
  simpa [outsideAudio] using congrArg State.agents h.1

theorem AudioOnly.programs {s t : State} (h : AudioOnly s t) : t.programs = s.programs := by
  simpa [outsideAudio] using congrArg State.programs h.1

theorem AudioOnly.now {s t : State} (h : AudioOnly s t) : t.now = s.now := by
  simpa [outsideAudio] using congrArg State.now h.1

/-- A handle names the same call, but for what the Playout Unit writes. -/
theorem AudioOnly.callOf {s t : State} (h : AudioOnly s t) (k : Nat) :
    (callOf t k).map withoutAudio = (callOf s k).map withoutAudio := by
  have hg : generationOf t (slotOf k) = generationOf s (slotOf k) := by simp only [generationOf, h.generations]
  unfold Machine.callOf
  rw [hg]
  split
  · exact h.2.1 _
  · rfl

/-! ### Elementary writes -/

theorem outsideAudio_notify (kind body s) : outsideAudio (notify kind body s) = outsideAudio s := by
  unfold outsideAudio
  rw [notify_sendingBlanked]
  exact notify_read (fun t => { t with
    calls := [], voices := [], clips := [], notices := [], noticesLost := false, sending := sendingBlanked s,
    frameEnds := 0 }) (fun _ _ _ _ _ => rfl) ..

theorem audioOnly_notify (kind body s) : AudioOnly s (notify kind body s) :=
  ⟨outsideAudio_notify .., fun _ => by simp, fun _ => by simp⟩

theorem audioOnly_setVoiceRec (s : State) (v : Nat) (r : Voice) : AudioOnly s (setVoiceRec s v r) :=
  ⟨rfl, fun _ => rfl, fun _ => rfl⟩

theorem audioOnly_dropVoice (s : State) (v : Nat) : AudioOnly s (dropVoice s v) := ⟨rfl, fun _ => rfl, fun _ => rfl⟩

/-- Writing of a call in use what the Playout Unit writes. -/
theorem audioOnly_setCallRec {s : State} {h : Nat} {b c : Call} (hb : callOf s h = some b)
    (hc : withoutAudio c = withoutAudio b) : AudioOnly s (setCallRec s h c) := by
  refine ⟨rfl, fun slot => ?_, fun _ => rfl⟩
  rw [setCallRec_calls, tableFind_tableInsert]
  split
  · next e => rw [e, (callOf_eq_some s h b |>.1 hb).2]; simp [hc]
  · rfl

theorem audioOnly_changeUse (s : State) (k : Nat) (f : Nat → Nat) : AudioOnly s (changeUse s k f) := by
  unfold changeUse
  split
  · next c hc =>
    refine ⟨rfl, fun _ => rfl, fun j => ?_⟩
    rw [clipOf_setClipRec]
    split
    · next e => rw [e, hc]; rfl
    · rfl
  · exact .refl s

theorem audioOnly_takeUse (s : State) (k : Nat) : AudioOnly s (takeUse s k) := audioOnly_changeUse ..
theorem audioOnly_giveUse (s : State) (k : Nat) : AudioOnly s (giveUse s k) := audioOnly_changeUse ..

theorem audioOnly_moveUse (s : State) (old new : Nat) : AudioOnly s (moveUse s old new) := by
  unfold moveUse
  split
  · exact .refl s
  · exact (audioOnly_giveUse s old).trans (audioOnly_takeUse ..)

theorem audioOnly_startVoice (s v p mode segment i k) : AudioOnly s (startVoice s v p mode segment i k) :=
  (audioOnly_setVoiceRec ..).trans (audioOnly_takeUse ..)

theorem audioOnly_nextClip (v r segment i k s) : AudioOnly s (nextClip v r segment i k s) :=
  (audioOnly_moveUse ..).trans (audioOnly_setVoiceRec ..)

/-! ### Attaching and detaching (R141 to R145) -/

theorem audioOnly_attach (h : Nat) (s : State) : AudioOnly s (attach h s) := by
  unfold attach
  split
  · exact .refl s
  · next c hc =>
    split
    · exact .refl s
    · next p prog hp =>
      have w : ∀ (v : Option Nat) (b : Bool) (d : Option Time),
          AudioOnly s (setCallRec s h { c with voice := v, awaitingVoice := b, announceDue := d }) :=
        fun v b d => audioOnly_setCallRec hc rfl
      dsimp only
      split
      · exact (w _ _ _).trans (audioOnly_startVoice ..)
      · split
        · split
          · exact (w _ _ _).trans (audioOnly_setVoiceRec ..)
          · exact .refl s
        · exact .refl s
      · exact (w _ _ _).trans (audioOnly_startVoice ..)
      · exact w _ _ _

theorem audioOnly_handVoice (v : Nat) (s : State) : AudioOnly s (handVoice v s) := by
  unfold handVoice
  split
  · exact .refl s
  · next p hp =>
    dsimp only
    refine AudioOnly.trans ?_ (audioOnly_notify ..)
    refine AudioOnly.trans ?_ (audioOnly_startVoice ..)
    refine ⟨rfl, fun slot => ?_, fun _ => rfl⟩
    have e := tableFind_map s.calls
      (fun _ c => if silentFor p c then { c with voice := some v, awaitingVoice := false } else c) slot
    have e' : (s.calls.map fun e => if silentFor p e.2 then (e.1, { e.2 with voice := some v, awaitingVoice := false }) else e) =
        s.calls.map fun e => (e.1, if silentFor p e.2 then { e.2 with voice := some v, awaitingVoice := false } else e.2) := by
      refine List.map_congr_left fun e _ => ?_
      split <;> rfl
    dsimp only at e' e ⊢
    rw [e', e, Option.map_map]
    congr 1
    funext c
    simp only [Function.comp_apply]
    split <;> rfl

theorem audioOnly_freeVoice (v : Nat) (s : State) : AudioOnly s (freeVoice v s) := by
  unfold freeVoice
  split
  · exact .refl s
  · exact (audioOnly_dropVoice ..).trans ((audioOnly_giveUse ..).trans (audioOnly_handVoice ..))

/-- Taking a call that is on a voice off it (R145): a SHARED voice that keeps listeners is left with one fewer, and any other becomes
FREE. -/
theorem detach_of_voice {h v : Nat} {c : Call} {r : Voice} {s : State} (hc : callOf s h = some c) (hv : c.voice = some v)
    (hr : voiceOf s v = some r) :
    let off := setCallRec s h { c with voice := none, announceDue := none }
    detach h s = match r.mode with
      | .shared (n + 2) => setVoiceRec off v { r with mode := .shared (n + 1) }
      | _ => freeVoice v off := by
  have hr' : voiceOf (setCallRec s h { c with voice := none, announceDue := none }) v = some r := hr
  simp only [detach, hc, hv, hr']
  split
  · next m => rw [m]
  · next n m =>
    rw [m]
    match n with
    | 0 | 1 => rfl
    | n + 2 => rfl

theorem audioOnly_detach (h : Nat) (s : State) : AudioOnly s (detach h s) := by
  unfold detach
  split
  · exact .refl s
  · next c hc =>
    split
    · exact .refl s
    · next v hv =>
      have w : AudioOnly s (setCallRec s h { c with voice := none, announceDue := none }) := audioOnly_setCallRec hc rfl
      dsimp only
      split
      · exact w
      · split
        · exact w.trans (audioOnly_freeVoice ..)
        · split
          · exact w.trans (audioOnly_freeVoice ..)
          · exact w.trans (audioOnly_setVoiceRec ..)

theorem audioOnly_clearAwaiting (h : Nat) (s : State) : AudioOnly s (clearAwaiting h s) := by
  unfold clearAwaiting
  split
  · exact .refl s
  · next c hc => exact audioOnly_setCallRec hc rfl

/-! ### Playing (R146 to R154) -/

/-- A call that is DIVERTING but for what the Playout Unit writes is DIVERTING. -/
theorem withoutAudio_diverted {c d : Call} (h : withoutAudio d = withoutAudio c) (hc : isDiverting c = true) (b : Bool) :
    withoutAudio { d with status := .diverting b } = withoutAudio d := by
  obtain ⟨_, st, _, _, _, _, _, _, _, _, _, _, _, _⟩ := c
  obtain ⟨_, st', _, _, _, _, _, _, _, _, _, _, _, _⟩ := d
  cases st <;> simp [isDiverting] at hc
  cases st' <;> simp_all [withoutAudio]

theorem audioOnly_divertDone (h : Nat) (b : Bool) (s : State) : AudioOnly s (divertDone h b s) := by
  unfold divertDone
  split
  · exact .refl s
  · next c hc =>
    split
    · next hd =>
      have w := (audioOnly_notify 0x87 [f2 h, f4 c.tag.toNat, f1 c.queue, f1 (bit b)] s).trans (audioOnly_detach h _)
      dsimp only
      split
      · exact w
      · next d hd' =>
        refine w.trans (audioOnly_setCallRec hd' (withoutAudio_diverted (c := c) ?_ hd true))
        simpa [hd', hc] using w.callOf h
    · exact .refl s

theorem audioOnly_renewDue (h : Nat) (s : State) : AudioOnly s (renewDue h s) := by
  unfold renewDue
  split
  · exact .refl s
  · next c hc => exact audioOnly_setCallRec hc rfl

theorem audioOnly_nextLoop (v r p s) : AudioOnly s (nextLoop v r p s) := audioOnly_nextClip ..

theorem audioOnly_privateLoopEnd (v r p h s) : AudioOnly s (privateLoopEnd v r p h s) := by
  unfold privateLoopEnd
  split
  · exact audioOnly_nextLoop ..
  · split
    · split
      · exact audioOnly_nextClip ..
      · exact (audioOnly_renewDue ..).trans (audioOnly_nextLoop ..)
    · exact audioOnly_nextLoop ..

theorem audioOnly_clipEnd (v r s) : AudioOnly s (clipEnd v r s) := by
  unfold clipEnd
  split
  · exact .refl s
  · split
    · exact audioOnly_nextClip ..
    · split
      · exact audioOnly_privateLoopEnd ..
      · exact audioOnly_nextLoop ..
    · dsimp only
      split
      · exact (audioOnly_renewDue ..).trans (audioOnly_nextClip ..)
      · exact audioOnly_nextClip ..
    · split
      · exact audioOnly_divertDone ..
      · exact .refl s

theorem audioOnly_playVoice (s : State) (v : Nat) : AudioOnly s (playVoice s v) := by
  unfold playVoice
  split
  · exact .refl s
  · split
    · exact audioOnly_setVoiceRec ..
    · exact audioOnly_clipEnd ..

theorem audioOnly_foldl_playVoice (l : List Nat) (s : State) : AudioOnly s (l.foldl playVoice s) := by
  induction l generalizing s with
  | nil => exact .refl s
  | cons v l ih => exact (audioOnly_playVoice s v).trans (ih _)

/-- A frame drives the slots and, but for them, moves the audio side alone. -/
theorem audioOnly_playFrame (order : List Nat) (s : State) :
    AudioOnly { s with highway := .driven ((List.range Config.voices).map (slotByte s)) } (playFrame order s) :=
  audioOnly_foldl_playVoice ..

/-! ### The voices of a frame, one after the other (R146) -/

@[simp] theorem mem_inOrder {all order : List Nat} {v : Nat} : v ∈ inOrder all order ↔ v ∈ all := by
  simp only [inOrder, List.mem_append, List.mem_dedup, List.mem_filter, List.contains_iff_mem, Bool.not_eq_true', ← Bool.not_eq_true]
  tauto

theorem nodup_inOrder {all : List Nat} (h : all.Nodup) (order : List Nat) : (inOrder all order).Nodup := by
  refine List.Nodup.append (List.nodup_dedup _) (h.filter _) fun v h1 h2 => ?_
  simp only [List.mem_dedup, List.mem_filter, List.contains_iff_mem, Bool.not_eq_true', ← Bool.not_eq_true] at h1 h2
  exact h2.2 h1.1

/-! ### The highway's bits (R157) -/

@[simp] theorem slotBits_length (b : Byte) : (slotBits b).length = 8 := rfl

theorem slotBits_getElem? (b : Byte) {i : Nat} (h : i < 8) : (slotBits b)[i]? = some (b.getLsbD (7 - i)) := by
  simp [slotBits, h]

end Sys2Proof.Machine
end

