-- ==== Sys2Proof/Laws/Orders.lean ====
section
/-!
SUPPORT. What an order's handling can do: it never touches the link, the time base, the pins or the queue of waiting commands.
-/

namespace Sys2Proof.Machine

/-- What no order's handling touches: everything outside the records, the notices, the boundary's due work, the engine state, the
silence byte, the sample memory and the programs. -/
def outsideOrders (s : State) : State :=
  { outsideTraffic s with inService := false, silence := 0, samples := [], programs := [] }

@[simp] theorem outsideOrders_outsideMatching (s : State) : outsideOrders (outsideMatching s) = outsideOrders s := by
  cases h : s.sending <;> simp [outsideOrders, outsideTraffic, outsideMatching, sendingBlanked, h]

@[simp] theorem outsideOrders_outsideAudio (s : State) : outsideOrders (outsideAudio s) = outsideOrders s := by
  cases h : s.sending <;> simp [outsideOrders, outsideTraffic, outsideMatching, outsideAudio, sendingBlanked, h]

theorem outsideOrders_of_matching {s t : State} (h : outsideMatching s = outsideMatching t) : outsideOrders s = outsideOrders t := by
  simpa using congrArg outsideOrders h

theorem outsideOrders_of_audio {s t : State} (h : AudioOnly s t) : outsideOrders t = outsideOrders s := by
  simpa using congrArg outsideOrders h.1

@[simp] theorem outsideOrders_notify (kind body s) : outsideOrders (notify kind body s) = outsideOrders s :=
  outsideOrders_of_matching (outsideMatching_notify ..)
@[simp] theorem outsideOrders_evalSurge (q s) : outsideOrders (evalSurge q s) = outsideOrders s :=
  outsideOrders_of_matching (outsideMatching_evalSurge ..)
@[simp] theorem outsideOrders_matchCall (h s) : outsideOrders (matchCall h s) = outsideOrders s :=
  outsideOrders_of_matching (outsideMatching_matchCall ..)
@[simp] theorem outsideOrders_matchAgent (a s) : outsideOrders (matchAgent a s) = outsideOrders s :=
  outsideOrders_of_matching (outsideMatching_matchAgent ..)
@[simp] theorem outsideOrders_offerAgent (a s) : outsideOrders (offerAgent a s) = outsideOrders s :=
  outsideOrders_of_matching (outsideMatching_offerAgent ..)
@[simp] theorem outsideOrders_reopeningPass (q s) : outsideOrders (reopeningPass q s) = outsideOrders s :=
  outsideOrders_of_matching (outsideMatching_reopeningPass ..)
@[simp] theorem outsideOrders_returnCall (h a c s) : outsideOrders (returnCall h a c s) = outsideOrders s :=
  outsideOrders_of_matching (outsideMatching_returnCall ..)
@[simp] theorem outsideOrders_endWrap (a v w o e s) : outsideOrders (endWrap a v w o e s) = outsideOrders s :=
  outsideOrders_of_matching (outsideMatching_endWrap ..)
@[simp] theorem outsideOrders_attach (h s) : outsideOrders (attach h s) = outsideOrders s :=
  outsideOrders_of_audio (audioOnly_attach ..)
@[simp] theorem outsideOrders_detach (h s) : outsideOrders (detach h s) = outsideOrders s :=
  outsideOrders_of_audio (audioOnly_detach ..)
@[simp] theorem outsideOrders_clearAwaiting (h s) : outsideOrders (clearAwaiting h s) = outsideOrders s :=
  outsideOrders_of_audio (audioOnly_clearAwaiting ..)
@[simp] theorem outsideOrders_divertDone (h b s) : outsideOrders (divertDone h b s) = outsideOrders s :=
  outsideOrders_of_audio (audioOnly_divertDone ..)
@[simp] theorem outsideOrders_nextClip (v r g i k s) : outsideOrders (nextClip v r g i k s) = outsideOrders s :=
  outsideOrders_of_audio (audioOnly_nextClip ..)
@[simp] theorem outsideOrders_startVoice (s v p m g i k) : outsideOrders (startVoice s v p m g i k) = outsideOrders s :=
  outsideOrders_of_audio (audioOnly_startVoice ..)
@[simp] theorem outsideOrders_giveUse (s k) : outsideOrders (giveUse s k) = outsideOrders s :=
  outsideOrders_of_audio (audioOnly_giveUse ..)
@[simp] theorem outsideOrders_takeUse (s k) : outsideOrders (takeUse s k) = outsideOrders s :=
  outsideOrders_of_audio (audioOnly_takeUse ..)
@[simp] theorem outsideOrders_setQueueRec (s q r) : outsideOrders (setQueueRec s q r) = outsideOrders s := rfl
@[simp] theorem outsideOrders_setAgentRec (s a v) : outsideOrders (setAgentRec s a v) = outsideOrders s := rfl
@[simp] theorem outsideOrders_dropAgent (s a) : outsideOrders (dropAgent s a) = outsideOrders s := rfl
@[simp] theorem outsideOrders_setCallRec (s h c) : outsideOrders (setCallRec s h c) = outsideOrders s := rfl
@[simp] theorem outsideOrders_freeCall (s h) : outsideOrders (freeCall s h) = outsideOrders s := rfl
@[simp] theorem outsideOrders_setClipRec (s k c) : outsideOrders (setClipRec s k c) = outsideOrders s := rfl
@[simp] theorem outsideOrders_dropClip (s k) : outsideOrders (dropClip s k) = outsideOrders s := rfl
@[simp] theorem outsideOrders_enterReady (s a v d) : outsideOrders (enterReady s a v d) = outsideOrders s := rfl
@[simp] theorem outsideOrders_returnToPlace (s a v n) : outsideOrders (returnToPlace s a v n) = outsideOrders s := rfl
@[simp] theorem outsideOrders_leaveReady (s a) : outsideOrders (leaveReady s a) = outsideOrders s := rfl
@[simp] theorem outsideOrders_count (s q f) : outsideOrders (count s q f) = outsideOrders s := rfl
@[simp] theorem outsideOrders_leaveList (s h q) : outsideOrders (leaveList s h q) = outsideOrders s := rfl
@[simp] theorem outsideOrders_withdrawnNotice (h a c n s) : outsideOrders (withdrawnNotice h a c n s) = outsideOrders s :=
  outsideOrders_notify ..

/-- Folds of what no order's handling sees. -/
theorem outsideOrders_foldl {β : Type} (g : State → β → State) (hg : ∀ s b, outsideOrders (g s b) = outsideOrders s) (l : List β)
    (s : State) : outsideOrders (l.foldl g s) = outsideOrders s := by
  induction l generalizing s with
  | nil => rfl
  | cons b l ih => rw [List.foldl_cons, ih, hg]

@[simp] theorem outsideOrders_moveReferences (s old new) : outsideOrders (moveReferences s old new) = outsideOrders s := by
  unfold moveReferences
  rw [outsideOrders_foldl _ (fun s k => outsideOrders_takeUse s k), outsideOrders_foldl _ fun s k => outsideOrders_giveUse s k]

/-! ### The checks that several orders share -/

@[simp] theorem badField_fst (s i) : (badField s i).1 = s := rfl
@[simp] theorem wrongState_fst (s i d) : (wrongState s i d).1 = s := rfl
@[simp] theorem noSuchCall_fst (s h) : (noSuchCall s h).1 = s := rfl
@[simp] theorem wrongAgentState_fst (s a) : (wrongAgentState s a).1 = s := rfl

theorem outsideOrders_serviceOnly {g : State → State × Answer} (hg : ∀ s, outsideOrders (g s).1 = outsideOrders s) (s : State) :
    outsideOrders (serviceOnly g s).1 = outsideOrders s := by
  unfold serviceOnly; split
  · exact hg s
  · rfl

theorem outsideOrders_withCall {g : Call → State → State × Answer} (hg : ∀ c s, outsideOrders (g c s).1 = outsideOrders s)
    (h : BitVec 16) (s : State) : outsideOrders (withCall h g s).1 = outsideOrders s := by
  unfold withCall; split
  · exact hg _ s
  · rfl

theorem outsideOrders_withOffer {g : State → State × Answer} (hg : ∀ s, outsideOrders (g s).1 = outsideOrders s) (h a c)
    (s : State) : outsideOrders (withOffer h a c g s).1 = outsideOrders s := by
  simp only [withOffer]; split
  · split
    · exact hg s
    · rfl
  all_goals rfl

theorem outsideOrders_withWrap {g : Agent → WrapRecord → Option Nat → State → State × Answer}
    (hg : ∀ v w p s, outsideOrders (g v w p s).1 = outsideOrders s) (a : Nat) (s : State) :
    outsideOrders (withWrap a g s).1 = outsideOrders s := by
  unfold withWrap; split
  · rfl
  · split
    · exact hg _ _ _ s
    all_goals rfl

theorem outsideOrders_withLoading {g : Clip → Nat → Byte → Nat → State → State × Answer}
    (hg : ∀ c n x m s, outsideOrders (g c n x m s).1 = outsideOrders s) (k : Nat) (s : State) :
    outsideOrders (withLoading k g s).1 = outsideOrders s := by
  unfold withLoading; split
  · rfl
  · split
    · exact hg _ _ _ _ s
    all_goals rfl

/-! ### Each order -/

theorem outsideOrders_handleStartService (b s) : outsideOrders (handleStartService b s).1 = outsideOrders s := by
  unfold handleStartService; split <;> rfl

theorem outsideOrders_handleStopService (s) : outsideOrders (handleStopService s).1 = outsideOrders s := by
  unfold handleStopService; split
  · rfl
  · split <;> rfl

theorem outsideOrders_clearAll (s) : outsideOrders (clearAll s) = outsideOrders s := by
  have h : ∀ (t : State) (d : DueWork), outsideOrders { programUseOnly t with
      agents := [], readyList := [], voices := [], notices := [], noticesLost := false, inService := false, due := d } =
      outsideOrders t := fun t d => rfl
  have hq : outsideOrders (clearQueues (freeAllCalls s)) = outsideOrders (freeAllCalls s) :=
    outsideOrders_foldl (fun t q => setQueueRec t q (clearedQueue t.now (queueOf t q)))
      (fun s q => outsideOrders_setQueueRec s q _) _ _
  have hc : outsideOrders (freeAllCalls s) = outsideOrders s :=
    outsideOrders_foldl (fun t slot => freeCall t slot) (fun s k => outsideOrders_freeCall s k) _ _
  exact (h _ _).trans (hq.trans hc)

theorem outsideOrders_handleSetQueue (f s) : outsideOrders (handleSetQueue f s).1 = outsideOrders s := by
  unfold handleSetQueue; split <;> rfl

theorem outsideOrders_handleSetQueueState (q st s) : outsideOrders (handleSetQueueState q st s).1 = outsideOrders s := by
  simp only [handleSetQueueState]; split
  · rfl
  · split
    · rfl
    · dsimp only; split <;> simp

theorem handleReadQueue_fst (q s) : (handleReadQueue q s).1 = s := by
  simp only [handleReadQueue]; split <;> rfl

theorem outsideOrders_handleReadQueueStatistics (q c s) :
    outsideOrders (handleReadQueueStatistics q c s).1 = outsideOrders s := by
  simp only [handleReadQueueStatistics]; split
  · rfl
  · split
    · rfl
    · dsimp only; split <;> rfl

theorem handleReadWaiting_fst (q f n s) : (handleReadWaiting q f n s).1 = s := by
  simp only [handleReadWaiting]; repeat' split
  all_goals rfl

theorem outsideOrders_admit (slot c s) : outsideOrders (admitCall slot c s) = outsideOrders s := by
  simp only [admitCall]; split <;> simp only [outsideOrders_count, outsideOrders_setQueueRec] <;> rfl

theorem outsideOrders_handleEnqueue (t q o p k g s) : outsideOrders (handleEnqueue t q o p k g s).1 = outsideOrders s := by
  simp only [handleEnqueue]
  repeat' split
  all_goals simp [outsideOrders_admit]

theorem outsideOrders_removeCall (h cause c s) : outsideOrders (removeCall h cause c s) = outsideOrders s := by
  have hp : outsideOrders (leavePlace h c s) = outsideOrders s := by
    unfold leavePlace withdrawRemoved
    split
    · dsimp only; split <;> simp
    all_goals simp
  simp only [removeCall]
  split <;> simp [hp]

theorem outsideOrders_handleRemove (h cause s) : outsideOrders (handleRemove h cause s).1 = outsideOrders s := by
  refine outsideOrders_withCall (fun c s => ?_) h s
  split
  · rfl
  · split
    · rfl
    all_goals exact outsideOrders_removeCall ..

theorem outsideOrders_connectCall (h a c s) : outsideOrders (connectCall h a c s) = outsideOrders s := by
  simp only [connectCall, outsideOrders_detach, outsideOrders_clearAwaiting, outsideOrders_count]
  split <;> simp

theorem outsideOrders_handleAnswer (h a s) : outsideOrders (handleAnswer h a s).1 = outsideOrders s := by
  refine outsideOrders_withCall (fun c s => ?_) h s
  split
  · rfl
  · exact outsideOrders_withOffer (fun s => outsideOrders_connectCall ..) ..

theorem outsideOrders_refuseCall (h a r c s) : outsideOrders (refuseCall h a r c s) = outsideOrders s := by
  simp only [refuseCall, outsideOrders_offerAgent, outsideOrders_matchCall, refusingAgent]
  split
  · simp
  · split <;> simp

theorem outsideOrders_handleRefuseOffer (h a p r s) : outsideOrders (handleRefuseOffer h a p r s).1 = outsideOrders s := by
  refine outsideOrders_withCall (fun c s => ?_) h s
  split
  · rfl
  · split
    · rfl
    · split
      · rfl
      · refine outsideOrders_withOffer (fun s => ?_) _ _ _ s
        exact outsideOrders_refuseCall _ _ _ _ _

theorem outsideOrders_releaseCall (h a v c t s) : outsideOrders (releaseCall h a v c t s) = outsideOrders s := by
  simp only [releaseCall, expireWrap]
  split <;> simp

theorem outsideOrders_handleRelease (h s) : outsideOrders (handleRelease h s).1 = outsideOrders s := by
  refine outsideOrders_withCall (fun c s => ?_) h s
  split
  case h_4 =>
    dsimp only
    split
    · exact outsideOrders_releaseCall ..
    · rfl
  all_goals simp

theorem outsideOrders_divertExit (h c s) : outsideOrders (divertExit h c s) = outsideOrders s := by
  simp only [divertExit, divertFromShared]
  repeat' split
  all_goals first | exact outsideOrders_nextClip .. | exact outsideOrders_divertDone .. | skip
  · exact (outsideOrders_startVoice ..).trans (outsideOrders_detach ..)
  · simp

theorem outsideOrders_handleDivert (h s) : outsideOrders (handleDivert h s).1 = outsideOrders s := by
  refine outsideOrders_withCall (fun c s => ?_) h s
  split
  case h_4 => exact outsideOrders_divertExit ..
  all_goals simp

theorem outsideOrders_handleCancelDivert (h s) : outsideOrders (handleCancelDivert h s).1 = outsideOrders s := by
  refine outsideOrders_withCall (fun c s => ?_) h s
  split
  case h_4 =>
    simp only [outsideOrders_matchCall, cancelVoice]
    split
    · split <;> simp
    · simp
  all_goals simp

theorem handleReadCall_fst (h s) : (handleReadCall h s).1 = s := by
  simp only [handleReadCall, withCall]; split <;> rfl

theorem outsideOrders_handleLogin (a k u i r s) : outsideOrders (handleLogin a k u i r s).1 = outsideOrders s := by
  simp only [handleLogin]
  repeat' split
  all_goals simp

theorem outsideOrders_withdrawAgent (a h v r s) : outsideOrders (withdrawAgent a h v r s) = outsideOrders s := by
  simp only [withdrawAgent]
  split <;> cases r <;> simp

theorem outsideOrders_handleLogout (a s) : outsideOrders (handleLogout a s).1 = outsideOrders s := by
  simp only [handleLogout, logoutAgent]
  repeat' split
  all_goals simp [outsideOrders_withdrawAgent]

theorem outsideOrders_handleSetReady (a s) : outsideOrders (handleSetReady a s).1 = outsideOrders s := by
  simp only [handleSetReady]
  repeat' split
  all_goals simp

theorem outsideOrders_handleSetNotReady (a r s) : outsideOrders (handleSetNotReady a r s).1 = outsideOrders s := by
  simp only [handleSetNotReady, notReadyAgent]
  repeat' split
  all_goals simp [outsideOrders_withdrawAgent]

theorem outsideOrders_handleSetSkills (a k s) : outsideOrders (handleSetSkills a k s).1 = outsideOrders s := by
  simp only [handleSetSkills]
  repeat' split
  all_goals simp

theorem outsideOrders_handleWrapDone (a o c r s) : outsideOrders (handleWrapDone a o c r s).1 = outsideOrders s := by
  simp only [handleWrapDone]
  split_ifs
  all_goals try simp only [badField_fst]
  refine outsideOrders_withWrap (fun v w p s => ?_) _ s
  split
  · rfl
  · exact outsideOrders_endWrap ..

theorem outsideOrders_handleSetDisposition (a c s) : outsideOrders (handleSetDisposition a c s).1 = outsideOrders s := by
  simp only [handleSetDisposition]
  split_ifs
  all_goals try simp only [badField_fst]
  refine outsideOrders_withWrap (fun v w p s => ?_) _ s
  exact outsideOrders_setAgentRec _ _ _

theorem outsideOrders_handleExtendWrap (a s) : outsideOrders (handleExtendWrap a s).1 = outsideOrders s := by
  simp only [handleExtendWrap]
  split_ifs
  all_goals try simp only [badField_fst]
  refine outsideOrders_withWrap (fun v w p s => ?_) _ s
  split_ifs <;> rfl

theorem handleReadAgent_fst (a s) : (handleReadAgent a s).1 = s := by
  simp only [handleReadAgent]
  split_ifs
  · rfl
  · split <;> rfl

theorem handleReadAgentStates_fst (a n s) : (handleReadAgentStates a n s).1 = s := by
  simp only [handleReadAgentStates]
  split_ifs <;> rfl

theorem outsideOrders_handleOpenClipLoad (k p n s) : outsideOrders (handleOpenClipLoad k p n s).1 = outsideOrders s := by
  simp only [handleOpenClipLoad]
  split_ifs
  all_goals try rfl
  split <;> rfl

theorem outsideOrders_handleClipData (k o d s) : outsideOrders (handleClipData k o d s).1 = outsideOrders s := by
  simp only [handleClipData]
  split
  · rfl
  · refine outsideOrders_withLoading (fun c n x m s => ?_) _ s
    split
    · rfl
    · rfl

theorem outsideOrders_handleCloseClipLoad (k x s) : outsideOrders (handleCloseClipLoad k x s).1 = outsideOrders s :=
  outsideOrders_withLoading (fun _ _ _ _ s => outsideOrders_setClipRec s _ _) _ s

theorem outsideOrders_handleAbortClipLoad (k s) : outsideOrders (handleAbortClipLoad k s).1 = outsideOrders s :=
  outsideOrders_withLoading (fun _ _ _ _ s => outsideOrders_dropClip s _) _ s

theorem outsideOrders_handleFreeClip (k s) : outsideOrders (handleFreeClip k s).1 = outsideOrders s := by
  simp only [handleFreeClip]
  split
  · rfl
  · split
    · rfl
    · split <;> rfl
    · rfl

theorem handleReadClip_fst (k o n s) : (handleReadClip k o n s).1 = s := by
  simp only [handleReadClip]
  split
  · rfl
  · split
    · rfl
    all_goals split_ifs <;> rfl

theorem handleReadClipEntry_fst (k s) : (handleReadClipEntry k s).1 = s := by
  simp only [handleReadClipEntry]
  split <;> rfl

theorem outsideOrders_handleSetProgram (f s) : outsideOrders (handleSetProgram f s).1 = outsideOrders s := by
  simp only [handleSetProgram]
  split_ifs
  · rfl
  · split
    · rfl
    · exact outsideOrders_moveReferences s _ _

theorem outsideOrders_handleDeleteProgram (p s) : outsideOrders (handleDeleteProgram p s).1 = outsideOrders s := by
  simp only [handleDeleteProgram]
  split_ifs
  · rfl
  · split
    · rfl
    · split
      · rfl
      · exact outsideOrders_moveReferences s _ _

theorem handleReadProgram_fst (p s) : (handleReadProgram p s).1 = s := by
  simp only [handleReadProgram]
  split_ifs <;> rfl

theorem handleReadVoice_fst (v s) : (handleReadVoice v s).1 = s := by
  simp only [handleReadVoice]
  split_ifs
  · rfl
  · split <;> rfl

end Sys2Proof.Machine
end

