-- ==== Sys2Proof/Laws/Link.lean ====
section
/-!
SUPPORT. What the Link Interface does around the orders: the reply, the transmitter, the receive buffers and the hand-over.
-/

namespace Sys2Proof.Machine

/-! ### The hand-over of one frame (R181 to R184) -/

/-- What the hand-over of a frame does to the link: at most one reply more, and nothing else. -/
def HandedOver (s t : State) : Prop :=
  { outsideOrders t with replies := s.replies } = outsideOrders s ∧ ∃ rs, t.replies = s.replies ++ rs ∧ rs.length ≤ 1

theorem HandedOver.held {s t : State} (h : HandedOver s t) : t.held = s.held := by
  simpa [outsideOrders, outsideTraffic, outsideMatching] using congrArg State.held h.1
theorem HandedOver.sending {s t : State} (h : HandedOver s t) : t.sending.isSome = s.sending.isSome := by
  have e := congrArg State.sending h.1
  simp only [outsideOrders, outsideTraffic, outsideMatching] at e
  simpa [sendingBlanked] using congrArg Option.isSome e
theorem HandedOver.pending {s t : State} (h : HandedOver s t) : t.pending = s.pending := by
  simpa [outsideOrders, outsideTraffic, outsideMatching] using congrArg State.pending h.1
theorem HandedOver.overruns {s t : State} (h : HandedOver s t) : t.overruns = s.overruns := by
  simpa [outsideOrders, outsideTraffic, outsideMatching] using congrArg State.overruns h.1
theorem HandedOver.length_le {s t : State} (h : HandedOver s t) : t.replies.length ≤ s.replies.length + 1 := by
  obtain ⟨rs, hr, hl⟩ := h.2
  rw [hr, List.length_append]; omega

theorem handedOver_refl (s : State) : HandedOver s s := ⟨rfl, [], by simp, by simp⟩

/-- A handling that ends without a reply. -/
theorem handedOver_of_eq {s t : State} (h : outsideOrders t = outsideOrders s) : HandedOver s t := by
  have hr : t.replies = s.replies := by
    simpa [outsideOrders, outsideTraffic, outsideMatching] using congrArg State.replies h
  refine ⟨?_, [], by simp [hr], by simp⟩
  rw [← h, ← hr]
  rfl

/-- A handling that ends with its reply. -/
theorem handedOver_conclude (kind : Nat) {r : State × Answer} {s : State} (h : outsideOrders r.1 = outsideOrders s) :
    HandedOver s (conclude kind r) := by
  have hr : r.1.replies = s.replies := by
    simpa [outsideOrders, outsideTraffic, outsideMatching] using congrArg State.replies h
  refine ⟨?_, [replyFrame r.1 kind r.2], by simp [conclude, hr], by simp⟩
  rw [← h, ← hr]
  rfl

theorem handedOver_concludeTo (dest : Dest) (kind : Nat) {r : State × Answer} {s : State}
    (h : outsideOrders r.1 = outsideOrders s) : HandedOver s (concludeTo dest kind r) := by
  cases dest
  · exact handedOver_conclude kind h
  · exact handedOver_of_eq h

/-- Everything the hand-over of an order does outside the records of its owner: at most one reply. -/
theorem handedOver_handOverOrder (c : Instr) (s : State) : HandedOver s (handOverOrder c s) := by
  have service {g : State → State × Answer} (k : Nat) (h : ∀ t, outsideOrders (g t).1 = outsideOrders t) :
      HandedOver s (conclude k (serviceOnly g s)) := handedOver_conclude k (outsideOrders_serviceOnly h s)
  have same {r : State × Answer} (k : Nat) (h : r.1 = s) : HandedOver s (conclude k r) :=
    handedOver_conclude k (congrArg outsideOrders h)
  cases c with
  | startService d b => exact handedOver_concludeTo _ _ (outsideOrders_handleStartService b s)
  | stopService d => exact handedOver_concludeTo _ _ (outsideOrders_handleStopService s)
  | clearService d => exact handedOver_concludeTo _ _ (outsideOrders_clearAll s)
  | readEngine => exact handedOver_conclude 0x04 rfl
  | setQueue f => exact handedOver_conclude _ (outsideOrders_handleSetQueue f s)
  | setQueueState d q st => exact handedOver_concludeTo _ _ (outsideOrders_handleSetQueueState q st s)
  | readQueue q => exact same _ (handleReadQueue_fst q s)
  | readQueueStatistics q b => exact handedOver_conclude _ (outsideOrders_handleReadQueueStatistics q b s)
  | readWaiting q f n => exact same _ (handleReadWaiting_fst q f n s)
  | enqueue t q o p k g => exact service _ (outsideOrders_handleEnqueue t q o p k g)
  | remove h b => exact service _ (outsideOrders_handleRemove h b)
  | answer h a => exact service _ (outsideOrders_handleAnswer h a)
  | refuseOffer h a p r => exact service _ (outsideOrders_handleRefuseOffer h a p r)
  | release h => exact service _ (outsideOrders_handleRelease h)
  | divert h => exact service _ (outsideOrders_handleDivert h)
  | cancelDivert h => exact service _ (outsideOrders_handleCancelDivert h)
  | readCall h => exact same _ (handleReadCall_fst h s)
  | login a k u i r => exact service _ (outsideOrders_handleLogin a k u i r)
  | logout a => exact service _ (outsideOrders_handleLogout a)
  | setReady a => exact service _ (outsideOrders_handleSetReady a)
  | setNotReady a r => exact service _ (outsideOrders_handleSetNotReady a r)
  | setSkills a k => exact service _ (outsideOrders_handleSetSkills a k)
  | wrapDone a o c r => exact service _ (outsideOrders_handleWrapDone a o c r)
  | setDisposition a c => exact service _ (outsideOrders_handleSetDisposition a c)
  | extendWrap a => exact service _ (outsideOrders_handleExtendWrap a)
  | readAgent a => exact same _ (handleReadAgent_fst a s)
  | readAgentStates a n => exact same _ (handleReadAgentStates_fst a n s)
  | openClipLoad k p n => exact handedOver_conclude _ (outsideOrders_handleOpenClipLoad k p n s)
  | clipData k o d => exact handedOver_conclude _ (outsideOrders_handleClipData k o d s)
  | closeClipLoad k x => exact handedOver_conclude _ (outsideOrders_handleCloseClipLoad k x s)
  | abortClipLoad k => exact handedOver_conclude _ (outsideOrders_handleAbortClipLoad k s)
  | freeClip k => exact handedOver_conclude _ (outsideOrders_handleFreeClip k s)
  | readClip k o n => exact same _ (handleReadClip_fst k o n s)
  | readClipEntry k => exact same _ (handleReadClipEntry_fst k s)
  | setProgram f => exact handedOver_conclude _ (outsideOrders_handleSetProgram f s)
  | deleteProgram p => exact handedOver_conclude _ (outsideOrders_handleDeleteProgram p s)
  | readProgram p => exact same _ (handleReadProgram_fst p s)
  | readVoice v => exact same _ (handleReadVoice_fst v s)
  | unknownKind k b => exact same _ rfl
  | _ => exact handedOver_refl s

theorem handedOver_handOver (h : HeldFrame) (s : State) : HandedOver s (handOver h s) := by
  cases h with
  | order c => exact handedOver_handOverOrder c s
  | badLength k m n => exact handedOver_conclude _ rfl

/-! ### The transmitter (R188) -/

/-- A transmitter with nothing to take, or busy, does nothing. -/
theorem transmit_eq_self {s : State} (h : s.sending.isSome = true ∨ (s.replies = [] ∧ s.notices = [])) : transmit s = s := by
  unfold transmit
  split
  · rfl
  · next hs => rw [hs] at h; simp at h; simp [h.1, h.2]

theorem transmit_of_reply {s : State} {r : OutFrame} {rs : List OutFrame} (h : s.sending = none) (hr : s.replies = r :: rs) :
    transmit s = { s with sending := some r, replies := rs } := by
  simp [transmit, h, hr]

theorem transmit_of_notice {s : State} {n : OutFrame} {ns : List OutFrame} (h : s.sending = none) (hr : s.replies = [])
    (hn : s.notices = n :: ns) : transmit s = { s with sending := some n, notices := ns } := by
  simp [transmit, h, hr, hn]

/-- All that the transmitter can do: nothing, or the taking of the reply or of the notice at the head. -/
theorem transmit_cases (s : State) :
    (transmit s = s ∧ (s.sending.isSome = true ∨ (s.replies = [] ∧ s.notices = []))) ∨
    (∃ r rs, s.sending = none ∧ s.replies = r :: rs ∧ transmit s = { s with sending := some r, replies := rs }) ∨
    ∃ n ns, s.sending = none ∧ s.replies = [] ∧ s.notices = n :: ns ∧
      transmit s = { s with sending := some n, notices := ns } := by
  cases hs : s.sending with
  | some f => exact .inl ⟨transmit_eq_self (.inl (by simp [hs])), .inl rfl⟩
  | none =>
    cases hr : s.replies with
    | cons r rs => exact .inr (.inl ⟨r, rs, rfl, rfl, transmit_of_reply hs hr⟩)
    | nil =>
      cases hn : s.notices with
      | cons n ns => exact .inr (.inr ⟨n, ns, rfl, rfl, rfl, by rw [transmit_of_notice hs hr hn, hr]⟩)
      | nil => exact .inl ⟨transmit_eq_self (.inr ⟨hr, hn⟩), .inr ⟨rfl, rfl⟩⟩

/-- After it, the transmitter is busy or nothing waits. -/
theorem transmit_busy (s : State) :
    (transmit s).sending.isSome = true ∨ ((transmit s).replies = [] ∧ (transmit s).notices = []) := by
  rcases transmit_cases s with ⟨e, h⟩ | ⟨r, rs, -, -, e⟩ | ⟨n, ns, -, -, -, e⟩ <;> rw [e]
  · exact h
  · exact .inl rfl
  · exact .inl rfl

/-- The transmitter moves frames between the queues and itself, and touches nothing else. -/
theorem transmit_frame (s : State) :
    { transmit s with sending := s.sending, replies := s.replies, notices := s.notices } = s := by
  rcases transmit_cases s with ⟨e, -⟩ | ⟨r, rs, -, -, e⟩ | ⟨n, ns, -, -, -, e⟩ <;> rw [e]

theorem transmit_held (s : State) : (transmit s).held = s.held := by
  simpa using congrArg State.held (transmit_frame s)

theorem transmit_lengths (s : State) :
    (transmit s).replies.length ≤ s.replies.length ∧ (transmit s).notices.length ≤ s.notices.length := by
  rcases transmit_cases s with ⟨e, -⟩ | ⟨r, rs, -, h, e⟩ | ⟨n, ns, -, -, h, e⟩
  · rw [e]; exact ⟨le_rfl, le_rfl⟩
  · rw [e]; simp [h]
  · rw [e]; simp [h]

/-! ### Settling (R180) -/

theorem settled_iff (s : State) : settled s = true ↔
    (s.sending.isSome = true ∨ (s.replies = [] ∧ s.notices = [])) ∧ (s.held = [] ∨ 4 ≤ s.replies.length) := by
  simp only [settled, Bool.and_eq_true, Bool.or_eq_true, decide_eq_true_eq, List.isEmpty_iff]

/-- A settled state has nothing to settle. -/
theorem settle_eq_self {s : State} (h : settled s = true) : settle s = s := by
  rw [settled_iff] at h
  unfold settle
  cases hh : s.held with
  | nil => exact transmit_eq_self h.1
  | cons f fs =>
    simp only [List.length_cons, drain, transmit_eq_self h.1, hh]
    rw [if_neg]
    simp [hh, Config.replyPlaces] at h ⊢
    exact h.2

/-- With nothing held, settling is the transmitter's turn. -/
theorem settle_of_held_nil {s : State} (h : s.held = []) : settle s = transmit s := by simp [settle, h, drain]

/-- A hand-over run with fuel enough leaves the link settled, holding no more than before. -/
theorem drain_spec (fuel : Nat) (s : State) (hf : s.held.length ≤ fuel) :
    settled (drain fuel s) = true ∧ (drain fuel s).held.length ≤ s.held.length ∧
      (s.replies.length ≤ 4 → (drain fuel s).replies.length ≤ 4) := by
  induction fuel generalizing s with
  | zero =>
    have h0 : s.held = [] := by simpa using hf
    refine ⟨(settled_iff _).2 ⟨transmit_busy s, .inl ?_⟩, ?_, fun h => (transmit_lengths s).1.trans h⟩
    · exact (transmit_held s).trans h0
    · exact (congrArg List.length (transmit_held s)).le
  | succ fuel ih =>
    simp only [drain]
    split
    · next h0 =>
      exact ⟨(settled_iff _).2 ⟨transmit_busy s, .inl h0⟩, (congrArg List.length (transmit_held s)).le,
        fun h => (transmit_lengths s).1.trans h⟩
    · next f rest h0 =>
      have hl : s.held.length = rest.length + 1 := by rw [← transmit_held, h0]; rfl
      split
      · next hr =>
        have ho := handedOver_handOver f { transmit s with held := rest }
        have e : (handOver f { transmit s with held := rest }).held = rest := ho.held
        obtain ⟨h1, h2, h3⟩ := ih (handOver f { transmit s with held := rest }) (by rw [e]; omega)
        refine ⟨h1, h2.trans (by rw [e]; omega), fun h => h3 (ho.length_le.trans ?_)⟩
        simpa [Config.replyPlaces] using hr
      · next hr =>
        refine ⟨(settled_iff _).2 ⟨transmit_busy s, .inr ?_⟩, (congrArg List.length (transmit_held s)).le,
          fun h => (transmit_lengths s).1.trans h⟩
        simpa [Config.replyPlaces] using hr

theorem settled_settle (s : State) : settled (settle s) = true := (drain_spec _ s le_rfl).1

/-! ### An order that is taken at once -/

/-- What `takes` says. -/
theorem takes_iff (s : State) : takes s = true ↔ running s = true ∧ s.held = [] ∧ s.replies.length < 4 ∧
    (s.sending.isSome = true ∨ (s.replies = [] ∧ s.notices = [])) := by
  simp only [takes, Bool.and_eq_true, Bool.or_eq_true, decide_eq_true_eq, List.isEmpty_iff, and_assoc]

/-- An order that is taken at once is handed over, and the transmitter has its turn. -/
theorem takeOrder_of_takes {s : State} (h : takes s = true) (c : Instr) : takeOrder c s = transmit (handOverOrder c s) := by
  obtain ⟨hr, hh, hl, ht⟩ := (takes_iff s).1 h
  have e : transmit { s with held := [.order c] } = { s with held := [.order c] } := transmit_eq_self ht
  have e' : { s with held := [] } = s := by rw [← hh]
  simp [takeOrder, hr, arrive, hh, settle, drain, e, hl, e', handOver, Config.receiveBuffers, Config.replyPlaces]

/-- An order that is taken at once is answered. -/
theorem transmit_conclude (kind : Nat) (t : State) (a : Answer) : transmit (conclude kind (t, a)) = answered kind t a := rfl

theorem transmit_concludeTo (dest : Dest) (kind : Nat) (t : State) (a : Answer) :
    transmit (concludeTo dest kind (t, a)) = ended dest kind t a := by
  cases dest <;> rfl

end Sys2Proof.Machine
end

