-- ==== Sys2Proof/Laws/Memory.lean ====
section
/-!
SUPPORT. The sample memory (R117): every operation on it keeps its canonical form, and what is read after a write.
-/

namespace Sys2Proof.Machine

theorem wf_reset : Memory.wf State.reset.samples = true := rfl

theorem wf_writeBytes {m : Table Byte} (addr : Nat) (bs : List Byte) (h : Memory.wf m = true) :
    Memory.wf (writeBytes m addr bs) = true := by
  induction bs generalizing m addr with
  | nil => exact h
  | cons b bs ih => exact ih (addr + 1) (tableRising_tableInsert addr b h)

/-- What a byte reads as after a write: the byte written there, or else what it was. -/
theorem tableFind_writeBytes (m : Table Byte) (addr i : Nat) (bs : List Byte) :
    tableFind (writeBytes m addr bs) i = if addr ≤ i ∧ i < addr + bs.length then bs[i - addr]? else tableFind m i := by
  induction bs generalizing m addr with
  | nil => simp [writeBytes]
  | cons b bs ih =>
    rw [writeBytes, ih, tableFind_tableInsert]
    simp only [List.length_cons]
    by_cases hi : i = addr
    · subst hi; simp
    · by_cases h : addr + 1 ≤ i ∧ i < addr + 1 + bs.length
      · rw [if_pos h, if_pos (by omega), show i - addr = (i - (addr + 1)) + 1 by omega]; simp
      · rw [if_neg h, if_neg hi, if_neg (by omega)]

/-- A listed byte is written at an address of the write, or was listed. -/
theorem mem_writeBytes {m : Table Byte} {addr : Nat} {bs : List Byte} {e : Nat × Byte} (h : e ∈ writeBytes m addr bs) :
    e ∈ m ∨ (addr ≤ e.1 ∧ e.1 < addr + bs.length) := by
  induction bs generalizing m addr with
  | nil => exact .inl h
  | cons b bs ih =>
    rcases ih h with h | h
    · rcases mem_tableInsert h with rfl | h
      · exact .inr ⟨le_rfl, by simp⟩
      · exact .inl h
    · exact .inr ⟨by omega, by simp only [List.length_cons]; omega⟩

/-- The bytes of an address that a write does not reach. -/
theorem sampleAt_writeBytes_of_not_mem (s : State) (addr i : Nat) (bs : List Byte) (h : i < addr ∨ addr + bs.length ≤ i) :
    sampleAt { s with samples := writeBytes s.samples addr bs } i = sampleAt s i := by
  simp only [sampleAt, tableFind_writeBytes]
  rw [if_neg (by omega)]

end Sys2Proof.Machine
end

