-- ==== Sys2Proof/Laws/PerInstr.lean ====
section
/-!
SUPPORT. Statements for every command, made by one lemma for each constructor.

`FrameFits`: the frame of a well-formed order fits the link (R175), and its body length is the one its kind requires, but for the two
commands that stand for frames the link checks stop (R181, R182).
-/

namespace Sys2Proof.Laws

def FrameFits.Statement (c : Instr) : Prop :=
  c.wellFormed = true → ∀ dest kind body, orderFrame c = some (dest, kind, body) →
    body.length ≤ 250 ∧
      (lengthRight kind.toNat body.length = true ∨ requiredLength kind.toNat = none ∨
        (dest = .broadcast ∧ (broadcastKind kind.toNat && lengthRight kind.toNat body.length) = false))

theorem length_beBytes (n v : Nat) : (beBytes n v).length = n := by
  induction n generalizing v with
  | zero => rfl
  | succ n ih => simp [beBytes, ih]

theorem FrameFits.powerOn (addressStraps : BitVec 4) (rateStraps : BitVec 2) : Statement (.powerOn addressStraps rateStraps) := by
  intro _ _ _ _ h; simp [orderFrame] at h

theorem FrameFits.resetPinAssert : Statement .resetPinAssert := by
  intro _ _ _ _ h; simp [orderFrame] at h

theorem FrameFits.resetPinRelease (addressStraps : BitVec 4) (rateStraps : BitVec 2) : Statement (.resetPinRelease addressStraps rateStraps) := by
  intro _ _ _ _ h; simp [orderFrame] at h

theorem FrameFits.refclkStop : Statement .refclkStop := by
  intro _ _ _ _ h; simp [orderFrame] at h

theorem FrameFits.refclkReturn : Statement .refclkReturn := by
  intro _ _ _ _ h; simp [orderFrame] at h

theorem FrameFits.highwayFrame (order : List Nat) : Statement (.highwayFrame order) := by
  intro _ _ _ _ h; simp [orderFrame] at h

theorem FrameFits.timeUnitBoundary : Statement .timeUnitBoundary := by
  intro _ _ _ _ h; simp [orderFrame] at h

theorem FrameFits.offerExpiry (handle : BitVec 16) : Statement (.offerExpiry handle) := by
  intro _ _ _ _ h; simp [orderFrame] at h

theorem FrameFits.wrapExpiry (agent : BitVec 16) : Statement (.wrapExpiry agent) := by
  intro _ _ _ _ h; simp [orderFrame] at h

theorem FrameFits.coolDownEnd (agent : BitVec 16) : Statement (.coolDownEnd agent) := by
  intro _ _ _ _ h; simp [orderFrame] at h

theorem FrameFits.surgeWholeSecondEvaluation (order : List Nat) : Statement (.surgeWholeSecondEvaluation order) := by
  intro _ _ _ _ h; simp [orderFrame] at h

theorem FrameFits.syncLoss : Statement .syncLoss := by
  intro _ _ _ _ h; simp [orderFrame] at h

theorem FrameFits.characterReceived (data : BitVec 8) (stopHigh : Bool) : Statement (.characterReceived data stopHigh) := by
  intro _ _ _ _ h; simp [orderFrame] at h

theorem FrameFits.frameReceived (address : BitVec 8) (frameClass : BitVec 8) (kind : BitVec 8) (body : List (BitVec 8)) (crc : BitVec 16) : Statement (.frameReceived address frameClass kind body crc) := by
  intro _ _ _ _ h; simp [orderFrame] at h

theorem FrameFits.gapLimit : Statement .gapLimit := by
  intro _ _ _ _ h; simp [orderFrame] at h

theorem FrameFits.frameSent : Statement .frameSent := by
  intro _ _ _ _ h; simp [orderFrame] at h

theorem FrameFits.unknownKind (kind : BitVec 8) (body : List (BitVec 8)) : Statement (.unknownKind kind body) := by
  intro w d k b h
  simp only [orderFrame, Option.some.injEq, Prod.mk.injEq] at h
  obtain ⟨rfl, rfl, rfl⟩ := h
  simp only [Instr.wellFormed, Bool.and_eq_true, bodyOk, decide_eq_true_eq, Option.isNone_iff_eq_none] at w
  exact ⟨w.2, .inr (.inl w.1)⟩

theorem FrameFits.broadcastDropped (kind : BitVec 8) (body : List (BitVec 8)) : Statement (.broadcastDropped kind body) := by
  intro w d k b h
  simp only [orderFrame, Option.some.injEq, Prod.mk.injEq] at h
  obtain ⟨rfl, rfl, rfl⟩ := h
  simp only [Instr.wellFormed, Bool.and_eq_true, Bool.not_eq_true', bodyOk, decide_eq_true_eq] at w
  exact ⟨w.2, .inr (.inr ⟨rfl, w.1⟩)⟩

theorem FrameFits.startService (dest : Dest) (silence : BitVec 8) : Statement (.startService dest silence) := by
  intro _ d k b h
  simp only [orderFrame, Option.some.injEq, Prod.mk.injEq] at h
  obtain ⟨rfl, rfl, rfl⟩ := h
  simp [lengthRight, requiredLength]

theorem FrameFits.stopService (dest : Dest) : Statement (.stopService dest) := by
  intro _ d k b h
  simp only [orderFrame, Option.some.injEq, Prod.mk.injEq] at h
  obtain ⟨rfl, rfl, rfl⟩ := h
  simp [lengthRight, requiredLength]

theorem FrameFits.clearService (dest : Dest) : Statement (.clearService dest) := by
  intro _ d k b h
  simp only [orderFrame, Option.some.injEq, Prod.mk.injEq] at h
  obtain ⟨rfl, rfl, rfl⟩ := h
  simp [lengthRight, requiredLength]

theorem FrameFits.readEngine : Statement .readEngine := by
  intro _ d k b h
  simp only [orderFrame, Option.some.injEq, Prod.mk.injEq] at h
  obtain ⟨rfl, rfl, rfl⟩ := h
  simp [lengthRight, requiredLength]

theorem FrameFits.setQueue (fields : QueueFields) : Statement (.setQueue fields) := by
  intro _ d k b h
  simp only [orderFrame, Option.some.injEq, Prod.mk.injEq] at h
  obtain ⟨rfl, rfl, rfl⟩ := h
  have hl : (queueBody fields).length = 44 := by
    rw [queueBody, List.length_flatMap]
    simp only [length_beBytes, List.map]
    rfl
  rw [hl]; decide

theorem FrameFits.setQueueState (dest : Dest) (queue : BitVec 8) (state : BitVec 8) : Statement (.setQueueState dest queue state) := by
  intro _ d k b h
  simp only [orderFrame, Option.some.injEq, Prod.mk.injEq] at h
  obtain ⟨rfl, rfl, rfl⟩ := h
  simp [lengthRight, requiredLength]

theorem FrameFits.readQueue (queue : BitVec 8) : Statement (.readQueue queue) := by
  intro _ d k b h
  simp only [orderFrame, Option.some.injEq, Prod.mk.injEq] at h
  obtain ⟨rfl, rfl, rfl⟩ := h
  simp [lengthRight, requiredLength]

theorem FrameFits.readQueueStatistics (queue : BitVec 8) (clear : BitVec 8) : Statement (.readQueueStatistics queue clear) := by
  intro _ d k b h
  simp only [orderFrame, Option.some.injEq, Prod.mk.injEq] at h
  obtain ⟨rfl, rfl, rfl⟩ := h
  simp [lengthRight, requiredLength]

theorem FrameFits.readWaiting (queue : BitVec 8) (firstRank : BitVec 16) (count : BitVec 8) : Statement (.readWaiting queue firstRank count) := by
  intro _ d k b h
  simp only [orderFrame, Option.some.injEq, Prod.mk.injEq] at h
  obtain ⟨rfl, rfl, rfl⟩ := h
  simp [length_beBytes, lengthRight, requiredLength]

theorem FrameFits.enqueue (tag : BitVec 32) (queue : BitVec 8) (options : BitVec 8) (priority : BitVec 8) (extraSkills : BitVec 32) (program : BitVec 8) : Statement (.enqueue tag queue options priority extraSkills program) := by
  intro _ d k b h
  simp only [orderFrame, Option.some.injEq, Prod.mk.injEq] at h
  obtain ⟨rfl, rfl, rfl⟩ := h
  simp [length_beBytes, lengthRight, requiredLength]

theorem FrameFits.remove (handle : BitVec 16) (cause : BitVec 8) : Statement (.remove handle cause) := by
  intro _ d k b h
  simp only [orderFrame, Option.some.injEq, Prod.mk.injEq] at h
  obtain ⟨rfl, rfl, rfl⟩ := h
  simp [length_beBytes, lengthRight, requiredLength]

theorem FrameFits.answer (handle : BitVec 16) (agent : BitVec 16) : Statement (.answer handle agent) := by
  intro _ d k b h
  simp only [orderFrame, Option.some.injEq, Prod.mk.injEq] at h
  obtain ⟨rfl, rfl, rfl⟩ := h
  simp [length_beBytes, lengthRight, requiredLength]

theorem FrameFits.refuseOffer (handle : BitVec 16) (agent : BitVec 16) (reasonPresent : BitVec 8) (reason : BitVec 8) : Statement (.refuseOffer handle agent reasonPresent reason) := by
  intro _ d k b h
  simp only [orderFrame, Option.some.injEq, Prod.mk.injEq] at h
  obtain ⟨rfl, rfl, rfl⟩ := h
  simp [length_beBytes, lengthRight, requiredLength]

theorem FrameFits.release (handle : BitVec 16) : Statement (.release handle) := by
  intro _ d k b h
  simp only [orderFrame, Option.some.injEq, Prod.mk.injEq] at h
  obtain ⟨rfl, rfl, rfl⟩ := h
  simp [length_beBytes, lengthRight, requiredLength]

theorem FrameFits.divert (handle : BitVec 16) : Statement (.divert handle) := by
  intro _ d k b h
  simp only [orderFrame, Option.some.injEq, Prod.mk.injEq] at h
  obtain ⟨rfl, rfl, rfl⟩ := h
  simp [length_beBytes, lengthRight, requiredLength]

theorem FrameFits.cancelDivert (handle : BitVec 16) : Statement (.cancelDivert handle) := by
  intro _ d k b h
  simp only [orderFrame, Option.some.injEq, Prod.mk.injEq] at h
  obtain ⟨rfl, rfl, rfl⟩ := h
  simp [length_beBytes, lengthRight, requiredLength]

theorem FrameFits.readCall (handle : BitVec 16) : Statement (.readCall handle) := by
  intro _ d k b h
  simp only [orderFrame, Option.some.injEq, Prod.mk.injEq] at h
  obtain ⟨rfl, rfl, rfl⟩ := h
  simp [length_beBytes, lengthRight, requiredLength]

theorem FrameFits.login (agent : BitVec 16) (skills : BitVec 32) (autoReady : BitVec 8) (initialState : BitVec 8) (reason : BitVec 8) : Statement (.login agent skills autoReady initialState reason) := by
  intro _ d k b h
  simp only [orderFrame, Option.some.injEq, Prod.mk.injEq] at h
  obtain ⟨rfl, rfl, rfl⟩ := h
  simp [length_beBytes, lengthRight, requiredLength]

theorem FrameFits.logout (agent : BitVec 16) : Statement (.logout agent) := by
  intro _ d k b h
  simp only [orderFrame, Option.some.injEq, Prod.mk.injEq] at h
  obtain ⟨rfl, rfl, rfl⟩ := h
  simp [length_beBytes, lengthRight, requiredLength]

theorem FrameFits.setReady (agent : BitVec 16) : Statement (.setReady agent) := by
  intro _ d k b h
  simp only [orderFrame, Option.some.injEq, Prod.mk.injEq] at h
  obtain ⟨rfl, rfl, rfl⟩ := h
  simp [length_beBytes, lengthRight, requiredLength]

theorem FrameFits.setNotReady (agent : BitVec 16) (reason : BitVec 8) : Statement (.setNotReady agent reason) := by
  intro _ d k b h
  simp only [orderFrame, Option.some.injEq, Prod.mk.injEq] at h
  obtain ⟨rfl, rfl, rfl⟩ := h
  simp [length_beBytes, lengthRight, requiredLength]

theorem FrameFits.setSkills (agent : BitVec 16) (skills : BitVec 32) : Statement (.setSkills agent skills) := by
  intro _ d k b h
  simp only [orderFrame, Option.some.injEq, Prod.mk.injEq] at h
  obtain ⟨rfl, rfl, rfl⟩ := h
  simp [length_beBytes, lengthRight, requiredLength]

theorem FrameFits.wrapDone (agent : BitVec 16) (options : BitVec 8) (code : BitVec 16) (reason : BitVec 8) : Statement (.wrapDone agent options code reason) := by
  intro _ d k b h
  simp only [orderFrame, Option.some.injEq, Prod.mk.injEq] at h
  obtain ⟨rfl, rfl, rfl⟩ := h
  simp [length_beBytes, lengthRight, requiredLength]

theorem FrameFits.setDisposition (agent : BitVec 16) (code : BitVec 16) : Statement (.setDisposition agent code) := by
  intro _ d k b h
  simp only [orderFrame, Option.some.injEq, Prod.mk.injEq] at h
  obtain ⟨rfl, rfl, rfl⟩ := h
  simp [length_beBytes, lengthRight, requiredLength]

theorem FrameFits.extendWrap (agent : BitVec 16) : Statement (.extendWrap agent) := by
  intro _ d k b h
  simp only [orderFrame, Option.some.injEq, Prod.mk.injEq] at h
  obtain ⟨rfl, rfl, rfl⟩ := h
  simp [length_beBytes, lengthRight, requiredLength]

theorem FrameFits.readAgent (agent : BitVec 16) : Statement (.readAgent agent) := by
  intro _ d k b h
  simp only [orderFrame, Option.some.injEq, Prod.mk.injEq] at h
  obtain ⟨rfl, rfl, rfl⟩ := h
  simp [length_beBytes, lengthRight, requiredLength]

theorem FrameFits.readAgentStates (firstAgent : BitVec 16) (count : BitVec 8) : Statement (.readAgentStates firstAgent count) := by
  intro _ d k b h
  simp only [orderFrame, Option.some.injEq, Prod.mk.injEq] at h
  obtain ⟨rfl, rfl, rfl⟩ := h
  simp [length_beBytes, lengthRight, requiredLength]

theorem FrameFits.openClipLoad (clip : BitVec 8) (startPage : BitVec 16) (length : BitVec 32) : Statement (.openClipLoad clip startPage length) := by
  intro _ d k b h
  simp only [orderFrame, Option.some.injEq, Prod.mk.injEq] at h
  obtain ⟨rfl, rfl, rfl⟩ := h
  simp [length_beBytes, lengthRight, requiredLength]

theorem FrameFits.clipData (clip : BitVec 8) (offset : BitVec 32) (data : List (BitVec 8)) : Statement (.clipData clip offset data) := by
  intro w d k b h
  simp only [orderFrame, Option.some.injEq, Prod.mk.injEq] at h
  obtain ⟨rfl, rfl, rfl⟩ := h
  simp only [Instr.wellFormed, decide_eq_true_eq] at w
  simp [length_beBytes, lengthRight]; omega

theorem FrameFits.closeClipLoad (clip : BitVec 8) (expectedXor : BitVec 8) : Statement (.closeClipLoad clip expectedXor) := by
  intro _ d k b h
  simp only [orderFrame, Option.some.injEq, Prod.mk.injEq] at h
  obtain ⟨rfl, rfl, rfl⟩ := h
  simp [lengthRight, requiredLength]

theorem FrameFits.abortClipLoad (clip : BitVec 8) : Statement (.abortClipLoad clip) := by
  intro _ d k b h
  simp only [orderFrame, Option.some.injEq, Prod.mk.injEq] at h
  obtain ⟨rfl, rfl, rfl⟩ := h
  simp [lengthRight, requiredLength]

theorem FrameFits.freeClip (clip : BitVec 8) : Statement (.freeClip clip) := by
  intro _ d k b h
  simp only [orderFrame, Option.some.injEq, Prod.mk.injEq] at h
  obtain ⟨rfl, rfl, rfl⟩ := h
  simp [lengthRight, requiredLength]

theorem FrameFits.readClip (clip : BitVec 8) (offset : BitVec 32) (count : BitVec 8) : Statement (.readClip clip offset count) := by
  intro _ d k b h
  simp only [orderFrame, Option.some.injEq, Prod.mk.injEq] at h
  obtain ⟨rfl, rfl, rfl⟩ := h
  simp [length_beBytes, lengthRight, requiredLength]

theorem FrameFits.readClipEntry (clip : BitVec 8) : Statement (.readClipEntry clip) := by
  intro _ d k b h
  simp only [orderFrame, Option.some.injEq, Prod.mk.injEq] at h
  obtain ⟨rfl, rfl, rfl⟩ := h
  simp [lengthRight, requiredLength]

theorem FrameFits.setProgram (fields : ProgramFields) : Statement (.setProgram fields) := by
  intro w d k b h
  simp only [orderFrame, Option.some.injEq, Prod.mk.injEq] at h
  obtain ⟨rfl, rfl, rfl⟩ := h
  simp only [Instr.wellFormed, decide_eq_true_eq] at w
  have hb : (fields.bands.flatMap fun b => beBytes 2 b.1.toNat ++ [b.2]).length = 24 := by
    simp [List.length_flatMap, length_beBytes, w.2]
  have hl : (programBody fields).length = 40 := by
    simp only [programBody, List.length_append, List.length_cons, List.length_nil, w.1, hb]
  rw [hl]; decide

theorem FrameFits.deleteProgram (program : BitVec 8) : Statement (.deleteProgram program) := by
  intro _ d k b h
  simp only [orderFrame, Option.some.injEq, Prod.mk.injEq] at h
  obtain ⟨rfl, rfl, rfl⟩ := h
  simp [lengthRight, requiredLength]

theorem FrameFits.readProgram (program : BitVec 8) : Statement (.readProgram program) := by
  intro _ d k b h
  simp only [orderFrame, Option.some.injEq, Prod.mk.injEq] at h
  obtain ⟨rfl, rfl, rfl⟩ := h
  simp [lengthRight, requiredLength]

theorem FrameFits.readVoice (voice : BitVec 8) : Statement (.readVoice voice) := by
  intro _ d k b h
  simp only [orderFrame, Option.some.injEq, Prod.mk.injEq] at h
  obtain ⟨rfl, rfl, rfl⟩ := h
  simp [lengthRight, requiredLength]

end Sys2Proof.Laws
end

