-- ==== Sys2Proof/Tests/Slice0.lean ====
section
/-!
SUPPORT. Tests: what WellFormed refuses, figures and worked examples of the spec, and for every statement with hypotheses a concrete
state and operands that meet them, clause by clause.
-/

namespace Sys2Proof.Tests

open Sys2Proof.Machine

/-! ### WellFormed refuses -/

theorem test_wellFormed_frame_order_range : (Instr.highwayFrame [128]).wellFormed = false := by decide
theorem test_wellFormed_frame_order_twice : (Instr.highwayFrame [5, 5]).wellFormed = false := by decide
theorem test_wellFormed_surge_order : (Instr.surgeWholeSecondEvaluation [64]).wellFormed = false := by decide
theorem test_wellFormed_frame_body : (Instr.frameReceived 1 1 4 (List.replicate 251 0) 0).wellFormed = false := by
  decide +kernel
theorem test_wellFormed_unknown_kind : (Instr.unknownKind 0x04 []).wellFormed = false := by decide
theorem test_wellFormed_broadcast : (Instr.broadcastDropped 0x03 []).wellFormed = false := by decide
theorem test_wellFormed_clip_data : (Instr.clipData 0 0 []).wellFormed = false ∧
    (Instr.clipData 0 0 (List.replicate 241 0)).wellFormed = false := by
  decide +kernel
def oneClipProgram : ProgramFields :=
  { program := 0, options := 0, introClip := 0, exitClip := 0, overClip := 0, noEstimateClip := 0, loopCount := 1,
    loop := List.replicate 8 0, bandCount := 0, bands := List.replicate 8 (0, 0) }
theorem test_wellFormed_program : (Instr.setProgram oneClipProgram).wellFormed = true ∧
    (Instr.setProgram { oneClipProgram with loop := [0] }).wellFormed = false := by decide

/-! ### Figures of the spec -/

/-- The check figure of R175: the text "123456789". -/
theorem test_crc_check_figure : crcOf [0x31, 0x32, 0x33, 0x34, 0x35, 0x36, 0x37, 0x38, 0x39] = 0x29B1 := by decide +kernel

/-- 05, the table under R99: samples of 1800 tu with k = 4. -/
theorem test_average_rounds_down : foldSample 28785 4 1800 = 28785 ∧ foldSample 28815 4 1800 = 28814 ∧
    foldSample 28814 4 1800 = 28813 ∧ foldSample 28700 4 1800 = 28706 := by decide

/-- 05, "Worked figures: three samples": 2400, 900 and 1200 tu after 28,800 with k = 3 give 26,943. -/
theorem test_average_three_samples : foldSample (foldSample (foldSample 28800 3 2400) 3 900) 3 1200 = 26943 := by decide

/-- SET QUEUE's body is 44 bytes and SET PROGRAM's 40 (09, the kind-code table); a handle goes high byte first. -/
theorem test_frame_bytes : orderFrame (.answer 0x1234 0x0105) = some (.unit, 0x22, [0x12, 0x34, 0x01, 0x05]) ∧
    readFrame .unit 0x22 [0x12, 0x34, 0x01, 0x05] = .order (.answer 0x1234 0x0105) := by decide

/-- 01.2.3: the capacity is bytes 10 and 11 of SET QUEUE's body, the smoothing shift byte 43. -/
theorem test_queue_body : (queueFieldsOf ((List.range 44).map (BitVec.ofNat 8))).capacity = 0x0A0B ∧
    (queueFieldsOf ((List.range 44).map (BitVec.ofNat 8))).smoothingShift = 43 := by decide

/-- R181, R182: a wrong length is held to be refused; a broadcast of READ ENGINE is dropped. -/
theorem test_link_checks : readFrame .unit 0x12 [] = .badLength 0x12 1 0 ∧
    readFrame .broadcast 0x04 [] = .order (.broadcastDropped 0x04 []) := by decide

/-- 07, the example of R139: bands of 1,200, 3,000, 6,000 and 9,000 with an over clip and no no-estimate clip. -/
theorem test_announcement_bands :
    let p : Program :=
      { introClip := none, exitClip := none, overClip := some 9, noEstimateClip := none, loop := [0],
        bands := [(1200, 1), (3000, 2), (6000, 3), (9000, 4)] }
    announcementClip p 1200 = some 1 ∧ announcementClip p 5193 = some 3 ∧ announcementClip p 9001 = some 9 ∧
      announcementClip p 65535 = none := by decide

/-- 06, the example of R120: clip 0 of length 5,000 at page 0 holds pages 0 to 9. -/
theorem test_pages : pagesOf 5000 = 10 ∧ pagesMeet 0 10 9 1 = true ∧ pagesMeet 0 10 11 1 = false := by decide

/-- R179: the 65,536th bad-check frame wraps the counter to 0. -/
theorem test_counter_wraps : exec (.characterReceived 0 false) { State.reset with receiver := .inFrame [], badCheck := 0xFFFF } =
    .next State.reset := rfl

/-- R174: the start bit, 0x4B with the least significant bit first, the stop bit; read back with a low stop bit it is no good. -/
theorem test_character_bits : characterBits 0x4B = [false, true, true, false, true, false, false, true, false, true] ∧
    characterByte [false, true, true, false, true, false, false, true, false, false] = 0x4B ∧
    stopBit [false, true, true, false, true, false, false, true, false, false] = false := by decide

/-- R157: most significant bit first, the other way round than on TXD; timeslot 1 follows timeslot 0. -/
theorem test_highway_bits : slotBits 0x4B = [false, true, false, false, true, false, true, true] ∧
    hwdoBits { State.reset with highway := .driven [0x80, 0x01] } =
      some [true, false, false, false, false, false, false, false, false, false, false, false, false, false, false, true] ∧
    hwdoBits State.reset = none := by decide

/-- R187: a notice that finds 256 waiting is lost with the flag set, or stands last and the head has gone to the transmitter. -/
theorem test_full_notices (s : State) (f n : OutFrame) (ns : List OutFrame) (h : s.sending = some f) (hr : s.replies = [])
    (hn : s.notices = n :: ns) (hl : ns.length = 255) :
    (notify 1 [] s).noticesLost = true ∨
      (notify 1 [] s).sending = some n ∧ (notify 1 [] s).notices = ns ++ [⟨4, 1, [f4 s.now.toNat]⟩] := by
  cases e : Config.frameEndsInside s.frameEnds <;> simp [notify, h, hr, hn, hl, e, Config.noticePlaces]

/-! ### A small engine with one of everything -/

/-- Twelve agents for the figures of R102, in a queue with the average 26,943. -/
def figures : State :=
  { State.reset with
    queues := [(0, { queueAtReset with aht16 := 26943 })],
    agents := (List.range 12).map fun a => (a, { status := .ready a none, skills := 0, autoReady := true, misses := 0, answered := 0 }) }

/-- 05, "Worked figures: estimates". -/
theorem test_ewt_figures : ewt figures 0 1 = 141 ∧ ewt figures 0 12 = 1684 ∧ ewt figures 0 37 = 5193 := by decide

def aCall (status : CallStatus) (seq : Nat) : Call :=
  { tag := 0, status := status, queue := 0, originQueue := none, basePriority := 20, extraSkills := none, arrivalSeq := seq,
    arrivalTime := 0, program := some 0, voice := none, awaitingVoice := false, exclusion := [], announceDue := none,
    offerCount := 0 }

def anAgent (status : AgentStatus) (skills : Mask) : Agent :=
  { status := status, skills := skills, autoReady := true, misses := 0, answered := 0 }

def aWrap : WrapRecord :=
  { queue := 0, talkTime := 1200, start := 700, deadline := 1000, extensions := 0, disposition := none }

def aProgram : Program :=
  { introClip := some 0, exitClip := some 0, overClip := some 0, noEstimateClip := none, loop := [0], bands := [] }

def aVoice (mode : VoiceMode) (segment : Segment) (offset : Nat) : Voice :=
  { program := 0, mode := mode, segment := segment, loopIndex := 0, clip := 0, offset := offset }

/-- Calls 0 WAITING, 1 OFFERED to agent 1, 2 CONNECTED with agent 2, 3 DIVERTING on voice 0; agents 0 READY, 3 in WRAP, 4 NOT_READY, 5
READY in cool-down; clips 0 READY, 1 LOADING, 2 FAULTY; queue 0 OPEN and asking for skill 0, which agents 0 and 5 lack. Engine time is
1000 and a boundary has signalled the offer, the wrap, the cool-down and the whole-second evaluation. -/
def world : State :=
  { State.reset with
    inService := true, syncPresent := true, now := 1000, arrivals := 4, readies := 7,
    due := { offers := [1], wraps := [3], coolDowns := [5], surge := true },
    queues := [(0, { queueAtReset with
      state := .opened, waiting := [0, 3], settings := { defaultSettings with requiredSkills := 1, agingStep := 300 } })],
    calls := [(0, aCall .waiting 0), (1, aCall (.offered 1 (some 1000)) 1), (2, aCall (.connected 900) 2),
      (3, { aCall (.diverting false) 3 with voice := some 0 })],
    agents := [(0, anAgent (.ready 5 none) 0), (1, anAgent (.offered 1 3) 1), (2, anAgent (.talking 2 none) 1),
      (3, anAgent (.wrap aWrap none) 1), (4, anAgent (.notReady 7) 1), (5, anAgent (.ready 6 (some 1000)) 0)],
    readyList := [0, 5],
    clips := [(0, { status := .ready, startPage := 0, length := 4, useCount := 2 }),
      (1, { status := .loading 2 0 0, startPage := 1, length := 4, useCount := 0 }),
      (2, { status := .faulty .short, startPage := 2, length := 4, useCount := 0 })],
    programs := [(0, aProgram)],
    voices := [(0, aVoice (.private_ 3) .exit 3)] }

/-- `world` with voice 0 like this. -/
def playing (mode : VoiceMode) (segment : Segment) (offset : Nat) : State := setVoiceRec world 0 (aVoice mode segment offset)

/-- `world` with another record for queue 0's settings. -/
def withSettings (f : QueueSettings → QueueSettings) (s : State) : State :=
  setQueueRec s 0 { queueOf s 0 with settings := f (queueOf s 0).settings }

/-- `world` with its queue in surge. -/
def surging : State := setQueueRec world 0 { queueOf world 0 with surge := true }

theorem world_takes : takes world = true := by decide

/-- 01, the example of R16: with an aging step of 300 a call of base 20 has 20 at 299 tu, 21 at 300 and 255 from 70,500 on. -/
theorem test_aging : effPriority { world with now := 299 } (aCall .waiting 0) = 20 ∧
    effPriority { world with now := 300 } (aCall .waiting 0) = 21 ∧ effPriority { world with now := 2100 } (aCall .waiting 0) = 27 ∧
    effPriority { world with now := 70500 } (aCall .waiting 0) = 255 := by decide

/-- 02, the example of R49: READY, READY in cool-down, OFFERED, WRAP and LOGGED_OUT read 2, 6, 3, 5 and 0. -/
theorem test_agent_state_bytes : [0, 5, 1, 3, 9].map (agentStateByte world) = [2, 6, 3, 5, 0] := by decide

/-- R163: a deadline is reached across the wrap of engine time. -/
theorem test_deadline_wraps : reached 3 (timeAfter 0xFFFFFFFE 5) = true ∧ reached 2 (timeAfter 0xFFFFFFFE 5) = false := by decide

/-! ### Witnesses: states and operands that meet the hypotheses of the statements -/

theorem world_canonical : Canonical world := by unfold Canonical; decide
theorem world_inRange : InRange world := by
  simp [InRange, QueuesNamed, world, State.reset, defaultSettings, aCall, anAgent, wrapOf, aWrap]

theorem witness_step : { State.reset with pending := [.gapLimit] }.pending = [.gapLimit] ∧ State.reset.pending = [] := ⟨rfl, rfl⟩

theorem witness_power : world.resetHeld = false ∧ Canonical world ∧
    { State.reset with resetHeld := true }.resetHeld = true ∧ { State.reset with clockRunning := false }.clockRunning = false ∧
    pinCommand .readEngine = false := ⟨rfl, world_canonical, rfl, rfl, rfl⟩

theorem witness_highway_frame : running world = true ∧ settled world = true ∧ world.pulse ≠ .played ∧
    ({ world with syncPresent := false }.syncPresent = false ∧ world.notices.length < 256) ∧
    { world with pulse := .counted }.pulse = .counted ∧
    (world.pulse = .whole ∧ { world with framePhase := 798 }.framePhase < 799) ∧
    (world.pulse = .whole ∧ 799 ≤ { world with framePhase := 799 }.framePhase) ∧ voiceOf world 127 = none ∧
    ∃ r k, voiceOf world 0 = some r ∧ clipOf world r.clip = some k := by
  refine ⟨rfl, rfl, by decide, ⟨rfl, by decide⟩, rfl, ⟨rfl, by decide⟩, ⟨rfl, by decide⟩, rfl, _, _, rfl, rfl⟩

/-- Voice 0 alone is not FREE: an order that names it, and it only, is the order in which the voices step. -/
theorem witness_highway_order : Canonical world ∧ [0].Nodup ∧ ∀ v, v ∈ [0] ↔ voiceOf world v ≠ none := by
  refine ⟨world_canonical, by decide, fun v => ?_⟩
  simp only [voiceOf, world, tableFind]
  split <;> simp_all [eq_comm]

/-- Clip 0 has four bytes: offset 2 is the last that rises, offset 3 the last byte. -/
theorem witness_voice_step (mode : VoiceMode) (segment : Segment) (offset : Nat) :
    ∃ k p, voiceOf (playing mode segment offset) 0 = some (aVoice mode segment offset) ∧
      clipOf (playing mode segment offset) (aVoice mode segment offset).clip = some k ∧
      programOf (playing mode segment offset) (aVoice mode segment offset).program = some p ∧
      ((aVoice mode segment offset).offset + 1 < k.length ↔ offset < 3) ∧
      (k.length ≤ (aVoice mode segment offset).offset + 1 ↔ 3 ≤ offset) :=
  ⟨{ status := .ready, startPage := 0, length := 4, useCount := 2 }, aProgram, rfl, rfl, rfl,
    by simp [aVoice]; omega, by simp [aVoice]⟩

/-- A WAITING call and an OFFERED one; two bands with an estimate at the second bound, one past both, and none. -/
theorem witness_announcement_clip : (aCall .waiting 0).status = .waiting ∧ (aCall (.offered 1 none) 0).status = .offered 1 none ∧
    (let p : Program := { aProgram with overClip := some 3, bands := [(10, 1), (20, 2)] }
     p.bands = [(10, 1)] ++ (20, 2) :: [] ∧ 20 ≤ 20 ∧ (∀ x ∈ [(10, 1)], x.1 < 20) ∧ (∀ x ∈ p.bands, x.1 < 21) ∧ (20 : Nat) ≠ 65535 ∧
       announcementClip p 20 = some 2 ∧ announcementClip p 21 = some 3) := by decide

/-- The announcement test: not due, due with a clip to announce, due with none (no agent serves, and no no-estimate clip). -/
theorem witness_announcement :
    announcementIsDue world (aCall .waiting 0) = false ∧
    announcementIsDue world { aCall .waiting 0 with announceDue := some 1000 } = true ∧
    announcementClip aProgram (callEstimate world (aCall .waiting 0)) = some 0 ∧
    announcementClip aProgram (callEstimate { world with agents := [] } (aCall .waiting 0)) = none := by decide

theorem witness_exit_end : world.notices.length < 256 ∧
    ∃ c, callOf world 3 = some c ∧ c.voice = some 0 ∧ isDiverting c = true ∧ c.awaitingVoice = false :=
  ⟨by decide, _, rfl, rfl, rfl, rfl⟩

theorem witness_boundary :
    (∀ s ∈ [{ world with pulse := .played }, { world with framePhase := 799 }], running s = true ∧ settled s = true ∧
      (s.pulse = .played ∨ (s.pulse = .whole ∧ 799 ≤ s.framePhase))) ∧
    Canonical { world with pulse := .played } ∧ InRange { world with pulse := .played } ∧
    Canonical { world with framePhase := 799 } ∧ InRange { world with framePhase := 799 } ∧
    running { world with pulse := .counted } = true ∧
    ({ world with framePhase := 798 }.pulse = .whole ∧ { world with framePhase := 798 }.framePhase < 799) :=
  ⟨by decide, world_canonical, world_inRange, world_canonical, world_inRange, rfl, rfl, by decide⟩

theorem witness_800_pulses : (List.replicate 800 ([] : List Nat)).length = 800 ∧ running State.reset = true ∧
    settled State.reset = true ∧ State.reset.framePhase = 0 ∧ State.reset.pulse = .whole :=
  ⟨List.length_replicate .., rfl, rfl, rfl, rfl⟩

theorem witness_sync : running world = true ∧ settled world = true ∧ world.syncPresent = true ∧ world.pulse = .whole ∧
    State.reset.syncPresent = false ∧ exec .gapLimit State.reset = .next State.reset ∧
    (∀ o, Instr.gapLimit ≠ .highwayFrame o) ∧ Instr.gapLimit ≠ .timeUnitBoundary ∧ (∀ a r, Instr.gapLimit ≠ .powerOn a r) ∧
    Instr.gapLimit ≠ .resetPinAssert := by
  refine ⟨rfl, rfl, rfl, rfl, rfl, rfl, ?_, ?_, ?_, ?_⟩ <;> simp

theorem witness_deadline : (2147483647 < 2 ^ 31 ∧ 2147483646 < 2147483647) ∧
    (2147483647 ≤ 2147483647 ∧ 4294967294 < 2147483647 + 2 ^ 31) := by decide

theorem witness_offer_expiry : running world = true ∧ world.syncPresent = true ∧
    world.due.offers.contains 1 = true ∧ ∃ c v,
    callOf world 1 = some c ∧ c.status = .offered 1 (some 1000) ∧ reached world.now 1000 = true ∧ agentOf world 1 = some v ∧
    v.status = .offered 1 3 ∧ world.notices.length < 250 ∧
    (min 15 (v.misses + 1) < (queueOf world c.queue).settings.missLimit ∧
      (queueOf world c.queue).settings.missAction = .returnReady) ∧
    (queueOf world c.queue).settings.missLimit ≤ min 15 (({ v with misses := 2 } : Agent).misses + 1) :=
  ⟨rfl, rfl, rfl, _, _, rfl, rfl, rfl, rfl, rfl, by decide, ⟨by decide, rfl⟩, by decide⟩

theorem witness_wrap_expiry : (∀ p ∈ [none, some 7], ∀ b ∈ [true, false],
      let s := setAgentRec world 3 { anAgent (.wrap aWrap p) 1 with autoReady := b }
      running s = true ∧ s.syncPresent = true ∧ s.due.wraps.contains 3 = true ∧
        agentOf s 3 = some { anAgent (.wrap aWrap p) 1 with autoReady := b } ∧ reached s.now aWrap.deadline = true ∧
        ¬((queueOf s aWrap.queue).settings.dispositionRequired = true ∧ aWrap.disposition = none) ∧
        s.notices.length < 256) ∧
    (queueOf (withSettings (fun q => { q with dispositionRequired := true }) world) 0).settings.dispositionRequired = true := by
  decide

/-- `world` with surge at two calls, trim set, and a wrap that ends later than the surge wrap allowance of 100 from now. -/
def trimming : State :=
  setAgentRec (withSettings (fun q => { q with surgeCount := 2, surgeTrim := true }) world) 3
    (anAgent (.wrap { aWrap with deadline := 1101 } none) 1)

/-- Queue 0 enters surge by count and trims the wrap; in surge with no threshold enabled it leaves; and then it stands. -/
theorem witness_surge_evaluation :
    (running trimming = true ∧ trimming.syncPresent = true ∧ trimming.due.surge = true ∧
      trimming.notices.length ≤ 192 ∧ (queueOf trimming 0).surge = false ∧
      (queueOf trimming 0).settings.surgeCount = (queueOf trimming 0).waiting.length ∧
      (queueOf trimming 0).settings.surgeTrim = true ∧ (1101 - (trimming.now + 100)).msb = false ∧ (1101 : Time) ≠ trimming.now + 100) ∧
    ((queueOf surging 0).surge = true ∧ (queueOf surging 0).settings.surgeCount = 0 ∧
      (queueOf surging 0).settings.surgeWait = 0) ∧ Canonical trimming := by
  refine ⟨by decide, by decide, ?_⟩
  unfold Canonical; decide

theorem witness_characters : running State.reset = true ∧ State.reset.receiver = .hunting ∧ ([] : List Byte).length ≤ 250 ∧
    (List.replicate 250 (0 : Byte)).length ≤ 250 ∧
    (characterBits 0x7E).length = 10 ∧ (∀ i < 8, (characterBits 0x7E)[i + 1]? = some ((0x7E : Byte).getLsbD i)) ∧
    (characterBits 0x7E)[9]? = some true :=
  ⟨rfl, rfl, by simp, by rw [List.length_replicate], by decide, by decide, by decide⟩

theorem witness_order_frames : Instr.readEngine.wellFormed = true ∧ orderFrame .readEngine = some (.unit, 0x04, []) ∧
    orderFrame (.clearService .broadcast) = some (.broadcast, 0x03, []) ∧ (1 : BitVec 8).toNat = State.reset.unitAddress ∧
    State.reset.unitAddress ≠ 0 := by decide

theorem witness_receiver : running State.reset = true ∧ State.reset.receiver = .hunting ∧
    { State.reset with receiver := .inFrame [1, 1, 4] }.receiver = .inFrame [1, 1, 4] ∧ [1, 1, 4].length = 3 ∧
    250 < (251 : BitVec 8).toNat ∧ (250 : BitVec 8).toNat ≤ 250 := ⟨rfl, rfl, rfl, rfl, by decide, by decide⟩

theorem witness_judged : running State.reset = true ∧ State.reset.receiver = .hunting ∧
    (5 : BitVec 8).toNat ≠ State.reset.unitAddress ∧ (1 : BitVec 8).toNat = State.reset.unitAddress ∧ (2 : BitVec 8) ≠ 1 := by
  decide

theorem witness_hold : running State.reset = true ∧ Instr.readEngine.wellFormed = true ∧ isOrder .readEngine = true ∧
    2 ≤ { State.reset with held := [.order .readEngine, .order .readEngine] }.held.length ∧
    (∃ s : State, running s = true ∧ s.held.length < 2 ∧ 4 ≤ s.replies.length ∧ s.sending.isSome = true) ∧
    takes State.reset = true := by
  refine ⟨rfl, rfl, rfl, by decide, ⟨{ State.reset with
    replies := List.replicate 4 ⟨2, 4, []⟩, sending := some ⟨2, 4, []⟩ }, ?_⟩, rfl⟩
  decide

theorem witness_link_checks : takes State.reset = true ∧ requiredLength 0x05 = none ∧ State.reset.receiver = .hunting ∧
    requiredLength (0x12 : BitVec 8).toNat = some 1 ∧ ([] : List Byte).length ≠ 1 ∧ requiredLength (0x41 : BitVec 8).toNat = some 245 ∧
    (List.replicate 5 (0 : Byte)).length < 6 ∧ 245 < (List.replicate 246 (0 : Byte)).length ∧
    (broadcastKind 0x04 && lengthRight 0x04 0) = false := by
  refine ⟨rfl, rfl, rfl, rfl, by decide, rfl, by decide, ?_, rfl⟩
  rw [List.length_replicate]; decide

theorem witness_transmitter : ∃ s : State, running s = true ∧ s.sending = some ⟨2, 4, []⟩ ∧ s.held = [.order .readEngine] ∧
    s.replies = [⟨2, 4, []⟩, ⟨2, 4, []⟩, ⟨2, 4, []⟩, ⟨2, 4, []⟩] ∧ { s with held := [] }.held = [] ∧ State.reset.sending = none ∧
    { s with notices := List.replicate 256 ⟨4, 0x80, []⟩ }.notices.length = 256 ∧
    s.replies ≠ [] ∧ s.sending ≠ none ∧ State.reset.replies = [] :=
  ⟨{ State.reset with
      sending := some ⟨2, 4, []⟩, held := [.order .readEngine],
      replies := [⟨2, 4, []⟩, ⟨2, 4, []⟩, ⟨2, 4, []⟩, ⟨2, 4, []⟩] },
    rfl, rfl, rfl, rfl, rfl, rfl, List.length_replicate .., by simp, by simp, rfl⟩

theorem witness_replies : Instr.readEngine.wellFormed = true ∧ orderFrame .readEngine = some (.unit, 0x04, []) ∧
    takes world = true := ⟨rfl, rfl, rfl⟩

/-- R184: SERVICE, sync and surge are bits 0, 1 and 3, the adjusted mark bit 4; R183: CLOSED is code 13, told with its index and detail. -/
theorem test_reply_bytes : statusByte surging true = 27 ∧ statusByte { State.reset with noticesLost := true } false = 4 ∧
    Canonical surging ∧ (queueOf surging 0).surge = true ∧
    replyFrame world 0x20 (.refuse .closed 2 3) = ⟨3, 0x20, [f1 3, f1 13, f1 2, f4 3]⟩ := by
  refine ⟨by decide, by decide, ?_, by decide, by decide⟩
  unfold Canonical; decide

theorem witness_config : serviceKind (.setReady 0) = some 0x32 ∧ takes State.reset = true ∧ State.reset.inService = false :=
  ⟨rfl, rfl, rfl⟩

theorem witness_service : takes world = true ∧ world.inService = true ∧ world.calls ≠ [] ∧
    takes State.reset = true ∧ State.reset.inService = false ∧ takes { State.reset with inService := true } = true ∧
    { State.reset with inService := true }.calls = [] := by decide

theorem witness_clear : takes world = true ∧ Canonical world ∧ InRange world := ⟨rfl, world_canonical, world_inRange⟩

theorem witness_reads : takes world = true ∧ (63 : BitVec 8).toNat < 64 ∧ 1 ≤ (1 : BitVec 16).toNat ∧
    (2048 : BitVec 16).toNat ≤ 2048 ∧ (1 : BitVec 8) ≠ 0 ∧ (∃ c, callOf world (0 : BitVec 16).toNat = some c) ∧
    (511 : BitVec 16).toNat < 512 ∧ (∃ c, clipOf world (0 : BitVec 8).toNat = some c ∧ isLoading c = false ∧
      (3 : BitVec 32).toNat < c.length) ∧ (240 : BitVec 8).toNat ≤ 240 ∧ (31 : BitVec 8).toNat < 32 ∧ (127 : BitVec 8).toNat < 128 :=
  ⟨rfl, by decide, by decide, by decide, by decide, ⟨_, rfl⟩, by decide, ⟨_, rfl, rfl, by decide⟩, by decide, by decide, by decide⟩

/-- `world` has an agent of every state, a clip of every state, a defined and an undefined program, a FREE and a PRIVATE voice. -/
theorem witness_read_rows : [0, 5, 1, 2, 3, 4, 9].map (fun a => (agentOf world a).map (·.status)) =
      [some (.ready 5 none), some (.ready 6 (some 1000)), some (.offered 1 3), some (.talking 2 none), some (.wrap aWrap none),
        some (.notReady 7), none] ∧
    [0, 1, 2, 3].map (fun k => (clipOf world k).map (·.status)) =
      [some .ready, some (.loading 2 0 0), some (.faulty .short), none] ∧
    (clipOf (setClipRec world 2 { status := .faulty .check, startPage := 2, length := 4, useCount := 0 }) 2).map (·.status) =
      some (.faulty .check) ∧
    (programOf world 1 = none ∧ programOf world 0 = some aProgram) ∧ voiceOf world 1 = none ∧
    (voiceOf world 0).map (·.mode) = some (.private_ 3) ∧
    (voiceOf (playing (.shared 2) .loop 0) 0).map (·.mode) = some (.shared 2) := by decide

def someSettings : QueueFields :=
  { queue := 63, reseed := 1, requiredSkills := 0, policy := 3, defaultPriority := 127, agingStep := 0, capacity := 2048,
    offerTimeout := 50, missAction := 1, coolDown := 600, missLimit := 15, wrapAllowance := 6000, surgeWrapAllowance := 6000,
    extensionLength := 1200, maxExtensions := 7, dispositionRequired := 1, surgeTrim := 1, defaultProgram := 0,
    firstAnnouncementDelay := 36000, announcementInterval := 150, overflowTarget := 0, overflowWaitLimit := 65534,
    surgeCount := 2048, surgeWait := 0, serviceThreshold := 0, ahtSeed := 1, smoothingShift := 7 }

theorem witness_set_queue : takes world = true ∧ someSettings.queue.toNat < 64 ∧ someSettings.reseed.toNat ≤ 1 ∧
    someSettings.policy.toNat ≤ 3 ∧ someSettings.missAction.toNat ≤ 1 ∧ someSettings.dispositionRequired.toNat ≤ 1 ∧
    someSettings.surgeTrim.toNat ≤ 1 ∧
    (someSettings.defaultProgram.toNat < 32 ∧ (programOf world someSettings.defaultProgram.toNat).isSome = true) ∧
    (someSettings.overflowTarget.toNat < 64 ∧ someSettings.overflowTarget ≠ someSettings.queue) ∧
    63 < { someSettings with queue := 64 }.queue.toNat ∧
    { someSettings with overflowTarget := 63 }.overflowTarget = { someSettings with overflowTarget := 63 }.queue := by decide

/-- The first failing check refuses: of two the one on field 1, and the last one alone when every other holds. -/
theorem test_set_queue_checks : (handleSetQueue { someSettings with queue := 64, policy := 4 } world).2 = .refuse .badField 1 0 ∧
    (handleSetQueue { someSettings with overflowTarget := 63 } world).2 = .refuse .badField 21 0 := by decide

theorem witness_set_queue_state : takes world = true ∧ (63 : BitVec 8).toNat < 64 ∧ (3 : BitVec 8).toNat ≤ 3 ∧
    64 ≤ (64 : BitVec 8).toNat ∧ 3 < (4 : BitVec 8).toNat := by decide

theorem witness_reopening : offering (queueOf world 0).state = true ∧ (waitingCalls world 0).length = 1 ∧
    ∀ e ∈ waitingCalls world 0, e.2.queue = 0 := by decide

/-- R11: three settings are stored as clamped, two at the upper and one at the lower end. -/
theorem test_clamped_count :
    clampedCount { someSettings with defaultPriority := 128, capacity := 2049, ahtSeed := 0 } = clampedCount someSettings + 3 := by
  decide

theorem witness_ewt : staffed world 0 ≠ 0 ∧ staffed State.reset 0 = 0 ∧ (queueOf world 0).aht16 ≤ 1048560 ∧
    staffed world 0 ≤ 512 ∧ 1 ≤ 2048 ∧ staffed State.reset 1 = staffed State.reset 0 ∧
    (queueOf State.reset 0).aht16 ≤ (queueOf State.reset 1).aht16 ∧ (queueOf world 0).aht16 = (queueOf State.reset 0).aht16 ∧
    staffed State.reset 0 ≤ staffed world 0 := by decide

theorem witness_average : 28800 ≤ 1800 * 16 ∧ 1800 * 16 < 28801 ∧ 1800 * 16 < 28785 + 2 ^ 4 := by decide

theorem witness_ranks : takes world = true ∧ (63 : BitVec 8).toNat < 64 ∧ 1 ≤ (1 : BitVec 16).toNat ∧
    (2048 : BitVec 16).toNat ≤ 2048 ∧ (16 : BitVec 8) ≠ 0 ∧ (aCall .waiting 0).basePriority ≤ 255 := by decide

theorem witness_overflow :
    (queueOf (withSettings (fun q => { q with overflowTarget := some 1 }) world) 0).settings.overflowTarget = some 1 ∧
    (queueOf world 0).settings.overflowTarget = none ∧ admitting (queueOf world 0).state = true ∧
    occupancy world 0 < (queueOf world 0).settings.capacity ∧ admitting (queueOf world 1).state = false ∧
    (queueOf (withSettings (fun q => { q with capacity := 3 }) world) 0).settings.capacity ≤ occupancy world 0 := by decide

theorem witness_enqueue : takes world = true ∧ world.inService = true ∧ (0 : BitVec 8).toNat < 64 ∧
    ((0 : BitVec 8).toNat < 32 ∧ (programOf world (0 : BitVec 8).toNat).isSome = true) ∧ tableFind world.calls 4 = none ∧
    (∀ k < 4, tableFind world.calls k ≠ none) ∧ (queueOf world 0).settings.defaultPriority ≤ 127 ∧
    overflowDecision world 0 0 = .inl (0, false) ∧ overflowDecision world 1 0 = .inr (.refuse .closed 2 3) ∧
    63 < (64 : BitVec 8).toNat ∧ ((4 : BitVec 8).getLsbD 2 = true ∧ 32 ≤ (254 : BitVec 8).toNat ∧ (254 : BitVec 8).toNat ≤ 254) ∧
    ((31 : BitVec 8).toNat < 32 ∧ programOf world (31 : BitVec 8).toNat = none) ∧
    ∀ e ∈ waitingCalls world 0, e.2.arrivalSeq < world.arrivals := by decide

theorem witness_stale : handleKind (.release 9) = some (9, 0x24) ∧ takes world = true ∧ world.inService = true ∧
    callOf world 9 = none ∧ handleKind (.readCall 9) = some (9, 0x27) ∧ takes State.reset = true ∧ callOf State.reset 9 = none := by
  decide

/-- Option bit 3 asks for no program: its call takes no voice. -/
theorem witness_enqueue_without_program : (8 : BitVec 8).getLsbD 3 = true ∧ (8 : BitVec 8).getLsbD 2 = false ∧
    enqueueProgram world 0 8 0 = none := by decide

/-- An engine with no FREE slot. -/
theorem witness_no_slot (c : Call) : ((List.range 2048).all fun k =>
    (tableFind ((List.range 2048).map fun k => (k, c)) k).isSome) = true := by
  have all : ∀ (l : List Nat) k, k ∈ l → (tableFind (l.map fun k => (k, c)) k).isSome = true := by
    intro l k h
    induction l with
    | nil => simp at h
    | cons a l ih =>
      simp only [List.map_cons, tableFind]
      split
      · rfl
      · exact ih ((List.mem_cons.1 h).resolve_left (Ne.symm ‹_›))
  exact List.all_eq_true.2 fun k hk => all _ k hk

/-- The surge clauses of a call's coming and going: queue 0 calm and in surge, its tables canonical, agent 3 in WRAP. -/
theorem witness_surge_of_one_call : (queueOf trimming 0).surge = false ∧ (queueOf surging 0).surge = true ∧ Canonical trimming ∧
    Canonical surging ∧ trimming.notices.length < 250 ∧ surging.notices.length < 250 ∧
    agentOf trimming 3 = some (anAgent (.wrap { aWrap with deadline := 1101 } none) 1) ∧
    agentOf surging 3 = some (anAgent (.wrap aWrap none) 1) := by
  refine ⟨by decide, by decide, witness_surge_evaluation.2.2, ?_, by decide, by decide, by decide, by decide⟩
  unfold Canonical; decide

theorem witness_remove : world.notices.length < 250 ∧ takes world = true ∧ world.inService = true ∧ (3 : BitVec 8) ≠ 1 ∧ (3 : BitVec 8) ≠ 2 ∧
    (∃ c, callOf world 0 = some c ∧ isWaiting c = true) ∧ (∃ c, callOf world 3 = some c ∧ isDiverting c = true) ∧
    (∃ c, callOf world 2 = some c ∧ c.status = .connected 900) ∧
    ∃ c v, callOf world 1 = some c ∧ c.status = .offered 1 (some 1000) ∧ agentOf world 1 = some v ∧ v.status = .offered 1 3 :=
  ⟨by decide, rfl, rfl, by decide, by decide, ⟨_, rfl, rfl⟩, ⟨_, rfl, rfl⟩, ⟨_, rfl, rfl⟩, _, _, rfl, rfl, rfl, rfl⟩

theorem witness_answer : takes world = true ∧ world.inService = true ∧ (∃ c v, callOf world 1 = some c ∧
    (1 : BitVec 16).toNat < 512 ∧ c.status = .offered 1 (some 1000) ∧ agentOf world 1 = some v ∧ 1 ≠ (511 : BitVec 16).toNat) ∧
    (∃ c, callOf world 0 = some c ∧ isWaiting c = true) ∧ ∃ c, callOf world 2 = some c ∧ c.status = .connected 900 :=
  ⟨rfl, rfl, ⟨_, _, rfl, by decide, rfl, rfl, by decide⟩, ⟨_, rfl, rfl⟩, _, rfl, rfl⟩

theorem witness_refuse_offer : takes world = true ∧ world.inService = true ∧ ((199 : BitVec 8).toNat ≤ 199) ∧ ∃ c v,
    callOf world 1 = some c ∧ c.status = .offered 1 (some 1000) ∧ agentOf world 1 = some v ∧ v.status = .offered 1 3 :=
  ⟨rfl, rfl, by decide, _, _, rfl, rfl, rfl, rfl⟩

theorem witness_release : takes world = true ∧ world.inService = true ∧ (∃ c v, callOf world 2 = some c ∧
    c.status = .connected 900 ∧ agentHolding world 2 = some 2 ∧ agentOf world 2 = some v ∧ v.status = .talking 2 none ∧
    wrapAllowanceOf (queueOf world c.queue) ≠ 0) ∧
    wrapAllowanceOf (queueOf (withSettings (fun q => { q with wrapAllowance := 0 }) world) 0) = 0 ∧
    ∃ c, callOf world 0 = some c ∧ callStateCode c.status ≠ 4 :=
  ⟨rfl, rfl, ⟨_, _, rfl, rfl, rfl, rfl, rfl, by decide⟩, by decide, _, rfl, by decide⟩

/-- `world` with call 0 on voice 1, which plays clip `k` in this mode. -/
def onVoice (mode : VoiceMode) (k : Nat) : State :=
  setVoiceRec (setCallRec world 0 { aCall .waiting 0 with voice := some 1 }) 1 { aVoice mode .loop 0 with clip := k }

/-- `world` with every voice taken. -/
def voicesTaken (mode : VoiceMode) : State := { world with voices := (List.range 128).map fun v => (v, aVoice mode .loop 0) }

/-- A PRIVATE voice on the exit clip's number and on another; a SHARED voice; a call with no voice; a program with no exit clip. -/
theorem witness_divert : (∀ s ∈ [onVoice (.private_ 0) 0, onVoice (.private_ 0) 1, onVoice (.shared 2) 0],
      takes s = true ∧ s.inService = true ∧ callOf s 0 = some { aCall .waiting 0 with voice := some 1 } ∧
        exitOf s { aCall .waiting 0 with voice := some 1 } = some (0, 0)) ∧
    voiceOf (onVoice (.private_ 0) 1) 1 = some { aVoice (.private_ 0) .loop 0 with clip := 1 } ∧
    voiceOf (onVoice (.shared 2) 0) 1 = some (aVoice (.shared 2) .loop 0) ∧
    (takes world = true ∧ world.inService = true ∧ callOf world 0 = some (aCall .waiting 0) ∧
      exitOf world (aCall .waiting 0) = some (0, 0) ∧ (aCall .waiting 0).voice = none ∧
      world.notices.length < 250) ∧
    exitOf { world with programs := [] } (aCall .waiting 0) = none := by decide

/-- A call on a PRIVATE voice, on a SHARED one with it alone and on one with two, whose program has no exit clip. -/
theorem witness_divert_without_exit : ∀ mode ∈ [VoiceMode.private_ 0, .shared 1, .shared 2],
    let s := { onVoice mode 0 with programs := [(0, { aProgram with exitClip := none })] }
    takes s = true ∧ s.inService = true ∧ callOf s 0 = some { aCall .waiting 0 with voice := some 1 } ∧
      exitOf s { aCall .waiting 0 with voice := some 1 } = none ∧ voiceOf s 1 = some (aVoice mode .loop 0) ∧
      s.notices.length < 250 := by decide

/-- The SHARED voice left: the lowest FREE voice is 2, or there is none. -/
theorem witness_divert_from_shared :
    lowestFreeVoice (detach 0 (setCallRec (onVoice (.shared 2) 0) 0 { aCall (.diverting false) 0 with voice := some 1 })) = some 2 ∧
    lowestFreeVoice (detach 0 (setCallRec (voicesTaken (.shared 2)) 0 { aCall (.diverting false) 0 with voice := some 1 })) = none := by
  decide +kernel

theorem witness_cancel_divert : takes world = true ∧ world.inService = true ∧
    callOf world 3 = some { aCall (.diverting false) 3 with voice := some 0 } ∧
    voiceOf world 0 = some (aVoice (.private_ 3) .exit 3) ∧ programOf world 0 = some aProgram ∧
    aProgram.loop.getD 0 0 = (aVoice (.private_ 3) .exit 3).clip ∧
    aProgram.loop.getD 0 0 ≠ { aVoice (.private_ 3) .exit 3 with clip := 1 }.clip ∧
    callOf (setCallRec world 3 (aCall (.diverting true) 3)) 3 = some (aCall (.diverting true) 3) ∧
    (aCall (.diverting true) 3).voice = none ∧ isDiverting (aCall .waiting 0) = false ∧
    isWaiting (aCall (.diverting true) 3) = false := by decide

theorem witness_available : running world = true ∧ world.syncPresent = true ∧ world.due.coolDowns.contains 5 = true ∧
    (∃ v, agentOf world 5 = some v ∧ v.status = .ready 6 (some 1000) ∧ reached world.now 1000 = true) ∧
    takes world = true ∧ world.inService = true ∧ (511 : BitVec 16).toNat < 512 ∧ agentOf world 511 = none ∧
    (1 : BitVec 8).toNat ≤ 1 ∧ (199 : BitVec 8).toNat ≤ 199 ∧ (∃ v, agentOf world 4 = some v ∧ v.status = .notReady 7) ∧
    ∃ v, agentOf world 0 = some v ∧ available v = true :=
  ⟨rfl, rfl, rfl, ⟨_, rfl, rfl, rfl⟩, rfl, rfl, by decide, rfl, by decide, by decide, ⟨_, rfl, rfl⟩, _, rfl, rfl⟩

theorem witness_leaving_refused : 511 < (512 : BitVec 16).toNat ∧ (511 : BitVec 16).toNat ≤ 511 ∧ 199 < (200 : BitVec 8).toNat ∧
    agentOf world (511 : BitVec 16).toNat = none := by decide

theorem witness_leaving_ready : takes world = true ∧ world.inService = true ∧ (199 : BitVec 8).toNat ≤ 199 ∧
    (∃ v, agentOf world 0 = some v ∧ v.status = .ready 5 none) ∧ (∃ v, agentOf world 4 = some v ∧ v.status = .notReady 7) ∧
    (∃ v, agentOf world 2 = some v ∧ v.status = .talking 2 none) ∧ ∃ v, agentOf world 3 = some v ∧ v.status = .wrap aWrap none :=
  ⟨rfl, rfl, by decide, ⟨_, rfl, rfl⟩, ⟨_, rfl, rfl⟩, ⟨_, rfl, rfl⟩, _, rfl, rfl⟩

theorem witness_withdrawal : world.notices.length < 250 ∧ takes world = true ∧ world.inService = true ∧ (1 : BitVec 16).toNat < 512 ∧
    (199 : BitVec 8).toNat ≤ 199 ∧ ∃ v c, agentOf world 1 = some v ∧ v.status = .offered 1 3 ∧ callOf world 1 = some c ∧
    c.status = .offered 1 (some 1000) := ⟨by decide, rfl, rfl, by decide, by decide, _, _, rfl, rfl, rfl, rfl⟩

/-- Call-side matching of call 0: an agent to offer it to, none while the queue asks for a skill, and a call or a queue out of the running. -/
theorem witness_call_matching : (∀ policy ∈ [SelectionPolicy.longestIdle, .rotate],
      let s := withSettings (fun q => { q with requiredSkills := 0, policy := policy }) world
      callOf s 0 = some (aCall .waiting 0) ∧ offering (queueOf s 0).state = true ∧ chooseAgent s (aCall .waiting 0) = some 0) ∧
    (callOf world 0 = some (aCall .waiting 0) ∧ chooseAgent world (aCall .waiting 0) = none) ∧
    (callOf world 1).map (·.status) = some (.offered 1 (some 1000)) ∧ offering (queueOf State.reset 0).state = false := by decide

/-- Without the required skill, agent 0 is a candidate of call 0 under every policy, and call 0 is one agent 0 could take. -/
theorem witness_matching : ∀ policy ∈ [SelectionPolicy.longestIdle, .mostRecent, .rotate, .fewestCalls],
    let s := withSettings (fun q => { q with requiredSkills := 0, policy := policy }) world
    chooseAgent s (aCall .waiting 0) = some 0 ∧ takeable s 0 (anAgent (.ready 5 none) 0) (aCall .waiting 0) = true ∧
      agentOf s 0 = some (anAgent (.ready 5 none) 0) ∧ (0, aCall .waiting 0) ∈ s.calls ∧
      (∀ e ∈ world.calls, takeable world 0 (anAgent (.ready 5 none) 0) e.2 = false) := by decide

theorem witness_offer : ∃ c v, callOf world 0 = some c ∧ agentOf world 0 = some v ∧ v.status = .ready 5 none ∧
    world.notices.length < 255 := ⟨_, _, rfl, rfl, rfl, by decide⟩

theorem witness_disposition : takes world = true ∧ world.inService = true ∧ 511 < (512 : BitVec 16).toNat ∧
    (511 : BitVec 16).toNat ≤ 511 ∧ (1 : BitVec 16) ≠ 0 ∧ agentStateCode (agentOf world 4) ≠ 5 ∧
    (∃ v, agentOf world 3 = some v ∧ v.status = .wrap aWrap none) ∧ takes State.reset = true ∧ State.reset.inService = false :=
  ⟨rfl, rfl, by decide, by decide, by decide, by decide, ⟨_, rfl, rfl⟩, rfl, rfl⟩

theorem witness_extend : takes world = true ∧ world.inService = true ∧ (∃ v, agentOf world 3 = some v ∧ v.status = .wrap aWrap none) ∧
    (queueOf surging 0).surge = true ∧ agentOf surging 3 = agentOf world 3 ∧ (queueOf world 0).surge = false ∧
    aWrap.extensions < (queueOf world 0).settings.maxExtensions ∧
    (queueOf world 0).settings.maxExtensions ≤ { aWrap with extensions := 1 }.extensions ∧
    (aWrap.deadline - aWrap.start).toNat < 18000 ∧ (queueOf world 0).settings.extensionLength ≤ 1200 ∧
    18000 ≤ ({ aWrap with deadline := 18700 }.deadline - aWrap.start).toNat := by
  refine ⟨rfl, rfl, ⟨_, rfl, rfl⟩, rfl, rfl, rfl, ?_, ?_, ?_, ?_, ?_⟩ <;> decide

theorem witness_wrap_done : takes world = true ∧ world.inService = true ∧ (3 : BitVec 16).toNat < 512 ∧ (7 : BitVec 8).toNat ≤ 7 ∧
    (417 : BitVec 16) ≠ 0 ∧ (199 : BitVec 8).toNat ≤ 199 ∧ (∃ v, agentOf world 3 = some v ∧ v.status = .wrap aWrap none) ∧
    (queueOf (withSettings (fun q => { q with dispositionRequired := true }) world) 0).settings.dispositionRequired = true ∧
    (0 : BitVec 8).getLsbD 0 = false ∧ (0 : BitVec 8).getLsbD 2 = false ∧ aWrap.disposition = none ∧
    (7 : BitVec 8).getLsbD 0 = true := by
  refine ⟨rfl, rfl, by decide, by decide, by decide, by decide, ⟨_, rfl, rfl⟩, rfl, rfl, rfl, rfl, rfl⟩

theorem witness_clip_sessions : takes world = true ∧ 8191 < (8192 : BitVec 16).toNat ∧ (8191 : BitVec 16).toNat ≤ 8191 ∧
    4194304 < (4194305 : BitVec 32).toNat ∧ (8191 : BitVec 16).toNat * 512 + (512 : BitVec 32).toNat ≤ 4194304 ∧
    4194304 < (8191 : BitVec 16).toNat * 512 + (513 : BitVec 32).toNat ∧
    (∃ c, clipOf world 1 = some c ∧ c.status = .loading 2 0 0 ∧ 2 < c.length) ∧
    (∃ c, clipOf world 0 = some c ∧ isLoading c = false ∧ c.status = .ready ∧ c.useCount ≠ 0) ∧
    (∃ c, clipOf world 2 = some c ∧ isLoading c = false ∧ c.status ≠ .ready ∧ c.useCount = 0) ∧ clipOf world 255 = none ∧
    ∀ e ∈ world.clips, e.2.startPage + (e.2.length + 511) / 512 ≤ 8191 := by
  refine ⟨rfl, by decide, by decide, by decide, by decide, by decide, ⟨_, rfl, rfl, by decide⟩, ⟨_, rfl, rfl, rfl, by decide⟩,
    ⟨_, rfl, rfl, by decide, rfl⟩, rfl, by decide⟩

theorem witness_clip_data : takes world = true ∧ 1 ≤ [(1 : Byte)].length ∧ (List.replicate 240 (1 : Byte)).length ≤ 240 ∧
    (∃ c, clipOf world 1 = some c ∧ c.status = .loading 2 0 0 ∧ (2 : BitVec 32).toNat = 2 ∧ (0 : BitVec 32).toNat ≠ 2) ∧
    ∃ c, clipOf world 0 = some c ∧ isLoading c = false :=
  ⟨rfl, by decide, by rw [List.length_replicate], ⟨_, rfl, rfl, rfl, by decide⟩, _, rfl, rfl⟩

/-- A program that voice 0 plays; that queue 0 names and no voice plays; that calls alone name, of which the first is in slot 0; and that
nothing holds. -/
theorem witness_programs : takes world = true ∧ (Instr.setProgram oneClipProgram).wellFormed = true ∧
    31 < (32 : BitVec 8).toNat ∧ (31 : BitVec 8).toNat < 32 ∧ programOf world 31 = none ∧ programOf world 0 = some aProgram ∧
    world.voices.find? (fun e => e.2.program == 0) = some (0, aVoice (.private_ 3) .exit 3) ∧
    (let s := withSettings (fun q => { q with defaultProgram := some 0 }) { world with voices := [] }
     (∀ e ∈ s.voices, e.2.program ≠ 0) ∧ (s.queues.find? (fun e => e.2.settings.defaultProgram == some 0)).map (·.1) = some 0) ∧
    (let s : State := { world with voices := [] }
     (∀ e ∈ s.voices, e.2.program ≠ 0) ∧ (∀ e ∈ s.queues, e.2.settings.defaultProgram ≠ some 0) ∧
       s.calls.find? (fun e => e.2.program == some 0) = some (0, aCall .waiting 0)) ∧
    ∀ e ∈ { world with voices := [], calls := [] }.calls, e.2.program ≠ some 0 := by decide

/-- The checks of SET PROGRAM: none fails; the first of two that fail refuses; a band out of order. -/
theorem test_set_program_checks : setProgramRefusal world oneClipProgram = none ∧
    setProgramRefusal world { oneClipProgram with options := 1, introClip := 2, loopCount := 9 } =
      some (.refuse .wrongState 3 (2 * 65536 + 3)) ∧
    setProgramRefusal world { oneClipProgram with bandCount := 2, bands := (5, 0) :: List.replicate 7 (5, 0) } =
      some (.refuse .badField 19 5) := by decide

theorem witness_attach : ∃ c, callOf world 0 = some c ∧ c.voice = none ∧ c.program = some 0 ∧ programOf world 0 = some aProgram ∧
    ((queueOf world c.queue).surge = false ∧ lowestFreeVoice world = some 1) ∧
    (lowestFreeVoice (voicesTaken (.shared 1)) = none ∧ sharedVoiceOf (voicesTaken (.shared 1)) 0 = some 0 ∧
      voiceOf (voicesTaken (.shared 1)) 0 = some (aVoice (.shared 1) .loop 0)) ∧
    ((queueOf surging c.queue).surge = true ∧ sharedVoiceOf surging 0 = none ∧ lowestFreeVoice surging = some 1) ∧
    (lowestFreeVoice (voicesTaken (.private_ 9)) = none ∧ sharedVoiceOf (voicesTaken (.private_ 9)) 0 = none) := by
  refine ⟨_, rfl, rfl, rfl, rfl, ⟨rfl, rfl⟩, ⟨?_, ?_, ?_⟩, ⟨rfl, rfl, rfl⟩, ?_, ?_⟩ <;> decide +kernel

/-- `world` with a silent call in slot 4. -/
def silentWorld : State := setCallRec world 4 { aCall .waiting 4 with awaitingVoice := true }

theorem witness_freed_voice : (∃ r, voiceOf world 0 = some r) ∧ Canonical world ∧ Canonical silentWorld ∧
    (∀ e ∈ world.calls, e.2.awaitingVoice = false) ∧ silentWorld.notices.length < 256 ∧
    ((4, { aCall .waiting 4 with awaitingVoice := true }) ∈ silentWorld.calls ∧ programOf silentWorld 0 = some aProgram) ∧
    ∀ f ∈ silentWorld.calls, f.2.awaitingVoice = true → f = (4, { aCall .waiting 4 with awaitingVoice := true }) := by
  refine ⟨⟨_, rfl⟩, world_canonical, ?_, by decide, by decide, ⟨by decide, rfl⟩, by decide⟩
  unfold Canonical; decide

/-- A call on a SHARED voice with two listeners and with one, and on a PRIVATE one; call 0 of `world` is on none. -/
theorem witness_detach : ∀ mode ∈ [VoiceMode.shared 2, .shared 1, .private_ 0],
    callOf (onVoice mode 0) 0 = some { aCall .waiting 0 with voice := some 1 } ∧
      voiceOf (onVoice mode 0) 1 = some (aVoice mode .loop 0) ∧ (onVoice mode 0).notices.length < 250 ∧
      (callOf world 0).bind (·.voice) = none := by decide

/-- R145: of two listeners of a SHARED voice one stays. -/
theorem test_remove_keeps_the_other_listener :
    voiceOf (removeCall 0 1 { aCall .waiting 0 with voice := some 1 } (onVoice (.shared 2) 0)) 1 =
      some (aVoice (.shared 1) .loop 0) := by decide

/-- Call 0 waits on the PRIVATE voice 0 for a skill that the READY agent 0 lacks; call 2 is CONNECTED with agent 2; clip 0 is READY, clip 1
LOADING; one byte is listed. -/
def steady : State :=
  { State.reset with
    inService := true, readies := 7, arrivals := 3, queues := [(0, { queueAtReset with state := .opened, waiting := [0] })],
    calls := [(0, { aCall .waiting 0 with extraSkills := some 2, voice := some 0 }), (2, aCall (.connected 0) 2)],
    agents := [(0, anAgent (.ready 5 none) 0), (2, anAgent (.talking 2 none) 1)], readyList := [0],
    clips := [(0, { status := .ready, startPage := 0, length := 4, useCount := 2 }),
      (1, { status := .loading 2 0 0, startPage := 1, length := 4, useCount := 0 })],
    samples := [(3, 7)], programs := [(0, aProgram)], voices := [(0, aVoice (.private_ 0) .loop 0)] }

theorem steady_linkBounded : LinkBounded steady := by
  refine ⟨?_, ?_, ?_, ?_, ?_, rfl⟩ <;> decide
theorem steady_canonical : Canonical steady := by unfold Canonical; decide
theorem steady_inRange : InRange steady := by
  simp [InRange, QueuesNamed, steady, State.reset, queueAtReset, defaultSettings, aCall, anAgent, wrapOf, aVoice]
theorem steady_clips : AverageInRange steady ∧ PagesOk steady ∧ SamplesOk steady ∧ LoadsOk steady ∧ ExclusionsOk steady := by
  refine ⟨?_, ?_, ?_, ?_, ?_⟩
  · simp [AverageInRange, steady, queueAtReset, defaultSettings]
  · simp [PagesOk, steady, pagesOf, Config.pageBytes]
  · simp [SamplesOk, steady, Memory.wf, tableRising]
  · simp [LoadsOk, steady]
  · simp [ExclusionsOk, steady, aCall]

theorem steady_agents {a : Nat} {v : Agent} (h : agentOf steady a = some v) :
    (a = 0 ∧ v = anAgent (.ready 5 none) 0) ∨ (a = 2 ∧ v = anAgent (.talking 2 none) 1) := by
  simpa [steady] using mem_of_tableFind h

theorem steady_paired : Paired steady := by
  have h2 : agentOf steady 2 = some (anAgent (.talking 2 none) 1) := rfl
  have c2 : callOf steady 2 = some (aCall (.connected 0) 2) := rfl
  refine ⟨?_, ?_, ?_, ?_, ?_⟩
  · simp [steady, aCall]
  · simp [steady, anAgent]
  · rintro e he t ht
    rcases (by simpa [steady] using he : e = _ ∨ e = _) with rfl | rfl
    · simp [aCall] at ht
    · exact ⟨2, _, none, h2, rfl⟩
  · rintro e he h p hp
    rcases (by simpa [steady] using he : e = _ ∨ e = _) with rfl | rfl
    · simp [anAgent] at hp
    · simp only [anAgent, AgentStatus.talking.injEq] at hp
      obtain ⟨rfl, -⟩ := hp
      exact ⟨_, 0, c2, rfl⟩
  · simp [steady, anAgent]

theorem steady_readyList : ReadyListOk steady := by
  refine ⟨by decide, fun a => ⟨fun h => ?_, fun ⟨v, n, d, hv, hs⟩ => ?_⟩, by simp [steady], fun a v n hv hn => ?_⟩
  · obtain rfl : a = 0 := by simpa [steady] using h
    exact ⟨_, 5, none, rfl, rfl⟩
  · rcases steady_agents hv with ⟨rfl, rfl⟩ | ⟨rfl, rfl⟩
    · decide
    · simp [anAgent] at hs
  · rcases steady_agents hv with ⟨rfl, rfl⟩ | ⟨rfl, rfl⟩
    · simp only [heldSeqOf, anAgent, Option.some.injEq] at hn
      subst hn
      refine ⟨by decide, fun b w hb hw => ?_⟩
      rcases steady_agents hb with ⟨rfl, rfl⟩ | ⟨rfl, rfl⟩
      · rfl
      · simp [heldSeqOf, anAgent] at hw
    · simp [heldSeqOf, anAgent] at hn

theorem steady_noPair : NoPair steady := by
  intro a v h
  rcases steady_agents h with ⟨rfl, rfl⟩ | ⟨rfl, rfl⟩ <;> decide

/-- A queue of `steady` is queue 0 or stands as at reset. -/
theorem steady_queueOf (q : Nat) : queueOf steady q =
    if q = 0 then { queueAtReset with state := .opened, waiting := [0] } else queueAtReset := by
  by_cases h : q = 0
  · subst h; rfl
  · simp [h, queueOf, steady, tableFind, Ne.symm h]

theorem steady_lists : ListsOk steady := by
  refine ⟨?_, ?_, ?_, by decide, by decide⟩
  · rintro e he q
    rw [steady_queueOf]
    rcases (by simpa [steady] using he : e = _ ∨ e = _) with rfl | rfl <;> by_cases h : q = 0
    · subst h; decide
    · simp [h, queueAtReset, aCall, Ne.symm h]
    · subst h; decide
    · simp [h, queueAtReset, aCall, inList, isWaiting, isDiverting]
  · rintro q h hh
    rw [steady_queueOf] at hh
    by_cases hq : q = 0
    · obtain rfl : h = 0 := by simpa [hq] using hh
      exact ⟨_, rfl, rfl, hq.symm⟩
    · simp [hq, queueAtReset] at hh
  · intro q
    rw [steady_queueOf]
    by_cases hq : q = 0 <;> simp [hq, queueAtReset]

theorem steady_programs : ProgramsNamed steady := by
  refine ⟨by decide, ?_, ?_, by decide⟩
  · simp [steady, aCall, programOf, tableFind]
  · simp [steady, queueAtReset, defaultSettings]

theorem steady_uses : UsesOk steady := by
  intro k
  by_cases h0 : k = 0
  · subst h0; exact ⟨by decide, fun _ => rfl⟩
  · by_cases h1 : k = 1
    · subst h1; exact ⟨by decide, by decide⟩
    · have : clipOf steady k = none := by simp [clipOf, steady, tableFind, Ne.symm h0, Ne.symm h1]
      rw [this]
      simp [programRefs, voiceRefs, steady, aVoice, aProgram, programClips, Ne.symm h0, h0]

theorem steady_voices : VoicesOk steady := by
  have c0 : callOf steady 0 = some { aCall .waiting 0 with extraSkills := some 2, voice := some 0 } := rfl
  refine ⟨?_, ?_, by decide, ?_, ?_, by decide, ?_⟩
  · rintro e he
    obtain rfl : e = _ := by simpa [steady] using he
    exact ⟨by decide, ⟨_, c0, rfl, by decide⟩, by decide⟩
  · rintro e he v hv
    rcases (by simpa [steady] using he : e = _ ∨ e = _) with rfl | rfl
    · obtain rfl : 0 = v := by simpa using hv
      decide
    · simp [aCall] at hv
  · simp [steady, aCall]
  · simp [steady, aCall]
  · simp [steady, aCall, isWaiting, isOffered]

/-- The premises of the invariants' statements hold together in a state that steps. -/
theorem witness_invariants : LinkBounded steady ∧ Canonical steady ∧ InRange steady ∧ AverageInRange steady ∧ PagesOk steady ∧
    SamplesOk steady ∧ LoadsOk steady ∧ ExclusionsOk steady ∧ Paired steady ∧ ReadyListOk steady ∧ NoPair steady ∧ ListsOk steady ∧
    ProgramsNamed steady ∧ UsesOk steady ∧ VoicesOk steady ∧ step steady = .next steady :=
  ⟨steady_linkBounded, steady_canonical, steady_inRange, steady_clips.1, steady_clips.2.1, steady_clips.2.2.1,
    steady_clips.2.2.2.1, steady_clips.2.2.2.2, steady_paired, steady_readyList, steady_noPair, steady_lists, steady_programs,
    steady_uses, steady_voices, rfl⟩

end Sys2Proof.Tests
end

-- ==== Sys2Proof/Proofs/Orders ====
section
/-! How an order that the link takes at once ends, and the statements about reset. -/

namespace Sys2Proof.Machine

/-! ### Reset -/

/-- Settles O3: every value is the one `State.reset` and `queueAtReset` write down. -/
theorem resetLeavesTheSpecifiedValues : Obligations.ResetLeavesTheSpecifiedValues :=
  ⟨rfl, rfl, rfl, rfl, rfl, rfl, fun _ => rfl, rfl, fun _ => rfl, rfl, rfl, rfl, rfl, rfl, rfl, rfl, rfl, rfl, rfl, rfl, rfl, rfl,
    rfl, rfl, rfl⟩

/-- At reset no record is listed, so an invariant over the records of a table holds of it. -/
theorem not_mem_reset_tables :
    (∀ e, e ∉ State.reset.calls) ∧ (∀ e, e ∉ State.reset.generations) ∧ (∀ e, e ∉ State.reset.queues) ∧
      (∀ e, e ∉ State.reset.agents) ∧ (∀ e, e ∉ State.reset.clips) ∧ (∀ e, e ∉ State.reset.programs) ∧
      (∀ e, e ∉ State.reset.voices) ∧ ∀ e, e ∉ State.reset.samples := by
  simp [State.reset]

@[simp] theorem queueOf_reset (q : Nat) : queueOf State.reset q = queueAtReset := rfl
@[simp] theorem agentOf_reset (a : Nat) : agentOf State.reset a = none := rfl
@[simp] theorem clipOf_reset (k : Nat) : clipOf State.reset k = none := rfl

/-- Settles O54: with every table empty each clause over records is vacuous, and what is left is read off `State.reset`. -/
theorem invariantsHoldAtReset : Obligations.InvariantsHoldAtReset := by
  obtain ⟨calls, gens, queues, agents, clips, programs, voices, samples⟩ := not_mem_reset_tables
  refine ⟨⟨by decide, by decide, by decide, by decide, by decide, rfl⟩, ?canonical, ?range, ?average, ?pages, ?samples, ?paired, ?exclusions,
    ?ready, ?lists, ?noPair, ?named, ?uses, ?voicesOk, ?loads⟩
  case canonical => exact ⟨rfl, rfl, rfl, rfl, rfl, rfl, rfl, rfl, fun e h => absurd h (queues e), fun e h => absurd h (gens e)⟩
  case range => simp [InRange, QueuesNamed, *]
  case average => simp [AverageInRange, *]
  case pages => simp [PagesOk, *]
  case samples => exact ⟨fun e h => absurd h (samples e), rfl⟩
  case paired => simp [Paired, *]
  case exclusions => simp [ExclusionsOk, *]
  case ready => simp [ReadyListOk, State.reset, agentOf]
  case lists => simp [ListsOk, queueAtReset, *]
  case noPair => simp [NoPair]
  case named => simp [ProgramsNamed, *]
  case uses => exact fun k => ⟨rfl, rfl⟩
  case voicesOk => simp [VoicesOk, *]
  case loads => simp [LoadsOk, *]

/-! ### An order that is taken at once -/

section
variable {c : Instr} {s : State} {kind : Nat}

/-- An order that is taken at once is carried out by its owner and answered. -/
theorem exec_answered (ht : takes s = true) (he : exec c s = .next (takeOrder c s)) {r : State × Answer}
    (hr : handOverOrder c s = conclude kind r) : exec c s = .next (answered kind r.1 r.2) := by
  rw [he, takeOrder_of_takes ht, hr]; rfl

/-- An order that may be broadcast, taken at once. -/
theorem exec_ended (ht : takes s = true) (he : exec c s = .next (takeOrder c s)) {dest : Dest} {r : State × Answer}
    (hr : handOverOrder c s = concludeTo dest kind r) : exec c s = .next (ended dest kind r.1 r.2) := by
  rw [he, takeOrder_of_takes ht, hr]; exact congrArg _ (transmit_concludeTo ..)

/-- A call or agent order that is taken at once in SERVICE is answered as its own handler says. -/
theorem exec_service (ht : takes s = true) (hs : s.inService = true) (he : exec c s = .next (takeOrder c s))
    {g : State → State × Answer} (hr : handOverOrder c s = conclude kind (serviceOnly g s)) {t : State} {a : Answer}
    (hg : g s = (t, a)) : exec c s = .next (answered kind t a) := by
  rw [exec_answered ht he hr, serviceOnly, if_pos hs, hg]

end

/-! ### Handles (R2, R4) -/

theorem withCall_of_some {h : BitVec 16} {s : State} {c : Call} (hc : callOf s h.toNat = some c)
    (k : Call → State → State × Answer) : withCall h k s = k c s := by
  simp only [withCall, hc]

theorem withCall_of_none {h : BitVec 16} {s : State} (hc : callOf s h.toNat = none) (k : Call → State → State × Answer) :
    withCall h k s = (s, .refuse .noSuch 1 h.toNat) := by
  simp only [withCall, hc, noSuchCall]

/-- Settles O35: every handler of an order that names a call begins with the handle check. -/
theorem staleHandlesAreRefused : Obligations.StaleHandlesAreRefused := by
  refine ⟨fun c h kind s hk ht hs hn => ?_, fun h s => ⟨?_, ?_, ?_, fun k hk => callOf_freeCall_of_ne s hk, rfl⟩, fun s h c => ?_⟩
  · have service (he : exec c s = .next (takeOrder c s)) (k : Call → State → State × Answer) (hkind : kind ≠ 0x27)
        (hr : handOverOrder c s = conclude kind (serviceOnly (withCall h k) s)) :
        exec c s = .next (answered kind s (.refuse .noSuch 1 h.toNat)) :=
      exec_service ht (hs.resolve_right hkind) he hr (withCall_of_none hn k)
    cases c <;> simp only [handleKind, Option.some.injEq, Prod.mk.injEq, reduceCtorEq] at hk
    all_goals obtain ⟨rfl, rfl⟩ := hk
    case readCall h => rw [exec_answered ht rfl rfl, handleReadCall, withCall_of_none hn]
    all_goals exact service rfl _ (by decide) rfl
  · exact callOf_freeCall_of_eq s rfl
  · simp [generationOf_freeCall]
  · exact tableFind_tableErase_self ..
  · rw [callOf_eq_some, and_comm]; rfl

/-! ### The overflow decision (R15, R20) -/

theorem canTake_eq_true (s : State) (q : Nat) :
    canTake s q = true ↔ admitting (queueOf s q).state = true ∧ occupancy s q < (queueOf s q).settings.capacity := by
  simp [canTake, full]

theorem canTake_eq_false (s : State) (q : Nat) :
    canTake s q = false ↔ admitting (queueOf s q).state = false ∨ (queueOf s q).settings.capacity ≤ occupancy s q := by
  simp only [← Bool.not_eq_true, canTake_eq_true, not_and_or, Nat.not_lt]

theorem overflows_eq_true (s : State) (q t base : Nat) : overflows s q t base = true ↔
    canTake s t = true ∧ (canTake s q = false ∨ ((queueOf s q).settings.overflowWaitLimit ≠ 0 ∧
      (queueOf s q).settings.overflowWaitLimit < ewt s q (newRank s q base) ∧
      ewt s t (newRank s t base) < ewt s q (newRank s q base))) := by
  simp [overflows, and_assoc]

/-- The decision when the call does not go to the target. -/
def plainDecision (s : State) (q : Nat) : (Nat × Bool) ⊕ Answer :=
  if canTake s q then .inl (q, false)
  else if admitting (queueOf s q).state then .inr (.refuse .noRoom 2 (occupancy s q))
  else .inr (.refuse .closed 2 (queueStateCode (queueOf s q).state))

/-- The call goes to the target when that overflow case holds, and otherwise the named queue decides. -/
theorem overflowDecision_eq (s : State) (q base : Nat) : overflowDecision s q base =
    match (queueOf s q).settings.overflowTarget with
    | some t => if overflows s q t base then .inl (t, true) else plainDecision s q
    | none => plainDecision s q := rfl

theorem plainDecision_ne_target (s : State) (q t : Nat) : plainDecision s q ≠ .inl (t, true) := by
  unfold plainDecision
  split
  · simp
  · split <;> simp

theorem plainDecision_cases (s : State) (q : Nat) :
    (admitting (queueOf s q).state = true → occupancy s q < (queueOf s q).settings.capacity → plainDecision s q = .inl (q, false)) ∧
    (admitting (queueOf s q).state = true → (queueOf s q).settings.capacity ≤ occupancy s q →
      plainDecision s q = .inr (.refuse .noRoom 2 (occupancy s q))) ∧
    (admitting (queueOf s q).state = false →
      plainDecision s q = .inr (.refuse .closed 2 (queueStateCode (queueOf s q).state))) := by
  refine ⟨fun ha ho => if_pos ((canTake_eq_true s q).2 ⟨ha, ho⟩), fun ha ho => ?_, fun ha => ?_⟩
  · simp [plainDecision, (canTake_eq_false s q).2 (.inr ho), ha]
  · simp [plainDecision, (canTake_eq_false s q).2 (.inl ha), ha]

/-- Settles O33: the decision is the target exactly when `overflows` holds of it, and otherwise that of the named queue. -/
theorem overflowDecisionChoosesTheQueue : Obligations.OverflowDecisionChoosesTheQueue := by
  intro s q base
  refine ⟨fun t ht => ?_, fun hn => ?_, fun hn t => ?_⟩
  · rw [← canTake_eq_true, ← canTake_eq_false, ← overflows_eq_true, overflowDecision_eq, ht]
    by_cases ho : overflows s q t base = true
    · simp [ho]
    · simp [ho, plainDecision_ne_target]
  · have hp : overflowDecision s q base = plainDecision s q := by
      rw [overflowDecision_eq] at hn ⊢
      cases ht : (queueOf s q).settings.overflowTarget with
      | none => rfl
      | some t =>
        by_cases ho : overflows s q t base = true
        · exact absurd (by simp [ht, ho]) (hn t)
        · simp [ho]
    rw [hp]
    exact plainDecision_cases s q
  · rw [overflowDecision_eq, hn]
    exact plainDecision_ne_target s q t

/-! ### SET QUEUE STATE (R8, R59) -/

theorem offering_queueStateOf {n : Nat} (h : n ≤ 3) : offering (queueStateOf n) = true ↔ n = 0 ∨ n = 2 := by
  interval_cases n <;> decide

theorem queueStateCode_queueStateOf {n : Nat} (h : n ≤ 3) : queueStateCode (queueStateOf n) = n := by
  interval_cases n <;> rfl

/-- Settles O28. -/
theorem setQueueStateChangesOneQueue : Obligations.SetQueueStateChangesOneQueue := by
  intro dest q st s ht
  have he : exec (.setQueueState dest q st) s = .next (ended dest 0x11 (handleSetQueueState q st s).1 (handleSetQueueState q st s).2) :=
    exec_ended ht rfl rfl
  refine ⟨fun hq hst => ?_, fun hq => ?_, fun hq hst => ?_⟩
  · refine ⟨setQueueRec s q.toNat { queueOf s q.toNat with state := queueStateOf st.toNat }, by simp, fun j hj => by simp [hj], rfl, ?_⟩
    have hpass : (offering (queueOf s q.toNat).state = false ∧ (st = 0 ∨ st = 2)) ↔
        (!offering (queueOf s q.toNat).state && offering (queueStateOf st.toNat)) = true := by
      rw [Bool.and_eq_true, Bool.not_eq_true', offering_queueStateOf hst, ← BitVec.toNat_inj, ← BitVec.toNat_inj]; rfl
    rw [he, handleSetQueueState, if_neg (by omega), if_neg (by omega)]
    simp only [hpass, queueStateCode_queueStateOf hst]
  · rw [he, handleSetQueueState, if_pos (by omega)]; rfl
  · rw [he, handleSetQueueState, if_neg (by omega), if_pos (by omega)]; rfl

end Sys2Proof.Machine
end

-- ==== Sys2Proof/Proofs/Ranks ====
section
/-! Priorities, ranks and the rank order (R16, R17, R26). -/

namespace Sys2Proof.Machine

/-! ### The order of calls (R17) -/

theorem ahead_eq_true (s : State) (c d : Call) : ahead s c d = true ↔
    effPriority s d < effPriority s c ∨ (effPriority s c = effPriority s d ∧ c.arrivalSeq < d.arrivalSeq) := by
  simp [ahead]

/-- No call stands ahead of one that stands ahead of it. -/
theorem ahead_asymm {s : State} {c d : Call} (h : ahead s c d = true) : ahead s d c = false := by
  rw [← Bool.not_eq_true, ahead_eq_true]
  rw [ahead_eq_true] at h
  omega

/-- Not standing behind is transitive. -/
theorem not_ahead_trans {s : State} {b c d : Call} (h1 : ahead s c b = false) (h2 : ahead s d c = false) :
    ahead s d b = false := by
  rw [← Bool.not_eq_true, ahead_eq_true] at *
  omega

@[simp] theorem ahead_self (s : State) (c : Call) : ahead s c c = false := by
  simp [ahead]

/-! ### Sorting by insertion -/

theorem rankInsert_perm (s : State) (e : Nat × Call) (l : List (Nat × Call)) : (rankInsert s e l).Perm (e :: l) := by
  induction l with
  | nil => exact .refl _
  | cons x l ih =>
    simp only [rankInsert]
    split
    · exact .refl _
    · exact (ih.cons x).trans (.swap e x l)

/-- In `l` no call stands ahead of one before it. -/
def RankSorted (s : State) (l : List (Nat × Call)) : Prop := l.Pairwise fun x y => ahead s y.2 x.2 = false

theorem RankSorted.rankInsert {s : State} {l : List (Nat × Call)} (h : RankSorted s l) (e : Nat × Call) :
    RankSorted s (rankInsert s e l) := by
  induction l with
  | nil => simp [RankSorted, Machine.rankInsert]
  | cons x l ih =>
    obtain ⟨hx, hl⟩ := List.pairwise_cons.1 h
    simp only [Machine.rankInsert]
    split
    · next ha =>
      refine List.pairwise_cons.2 ⟨fun y hy => ?_, h⟩
      rcases List.mem_cons.1 hy with rfl | hy
      · exact ahead_asymm ha
      · exact not_ahead_trans (ahead_asymm ha) (hx y hy)
    · next ha =>
      refine List.pairwise_cons.2 ⟨fun y hy => ?_, ih hl⟩
      rcases List.mem_cons.1 ((rankInsert_perm s e l).mem_iff.1 hy) with rfl | hy
      · simpa using ha
      · exact hx y hy

/-- Inserting calls one after the other. -/
theorem foldl_rankInsert (s : State) (l acc : List (Nat × Call)) (h : RankSorted s acc) :
    (l.foldl (fun k e => rankInsert s e k) acc).Perm (l ++ acc) ∧
      RankSorted s (l.foldl (fun k e => rankInsert s e k) acc) := by
  induction l generalizing acc with
  | nil => exact ⟨.refl _, h⟩
  | cons e l ih =>
    obtain ⟨hp, hs⟩ := ih _ (h.rankInsert e)
    exact ⟨hp.trans (((rankInsert_perm s e acc).append_left l).trans List.perm_middle), hs⟩

theorem rankOrder_perm (s : State) (q : Nat) : (rankOrder s q).Perm (waitingCalls s q) := by
  simpa [rankOrder] using (foldl_rankInsert s (waitingCalls s q) [] .nil).1

theorem rankOrder_sorted (s : State) (q : Nat) : RankSorted s (rankOrder s q) :=
  (foldl_rankInsert s (waitingCalls s q) [] .nil).2

/-! ### The effective priority (R16) -/

theorem effPriority_eq (s : State) (c : Call) : effPriority s c =
    if (queueOf s c.queue).settings.agingStep = 0 then c.basePriority
    else min 255 (c.basePriority + (s.now - c.arrivalTime).toNat / (queueOf s c.queue).settings.agingStep) := rfl

theorem effPriority_bounds (s : State) {c : Call} (h : c.basePriority ≤ 255) :
    c.basePriority ≤ effPriority s c ∧ effPriority s c ≤ 255 := by
  rw [effPriority_eq]
  split
  · exact ⟨le_rfl, h⟩
  · exact ⟨le_min h (Nat.le_add_right ..), min_le_left ..⟩

/-! ### READ WAITING (R26) -/

/-- The entries of a page number its calls from the first rank on. -/
theorem waitingEntries_eq (s : State) (rank : Nat) (l : List (Nat × Call)) :
    waitingEntries s rank l = (l.zipIdx rank).flatMap fun x => waitingEntry s x.2 x.1 := by
  induction l generalizing rank with
  | nil => rfl
  | cons e l ih => simp [waitingEntries, ih]

/-- READ WAITING with its fields in range. -/
theorem handleReadWaiting_eq {q : BitVec 8} {first : BitVec 16} {n : BitVec 8} (s : State) (hq : q.toNat < 64)
    (h1 : 1 ≤ first.toNat) (h2 : first.toNat ≤ 2048) (hn : n ≠ 0) :
    handleReadWaiting q first n s =
      (let page := ((rankOrder s q.toNat).drop (first.toNat - 1)).take (min n.toNat 16)
       (s, .accept (decide (16 < n.toNat)) ([f1 q.toNat, f2 (waitingCalls s q.toNat).length, f1 page.length] ++
          waitingEntries s first.toNat page))) := by
  have hn' : n.toNat ≠ 0 := fun h => hn (BitVec.eq_of_toNat_eq h)
  rw [handleReadWaiting, if_neg (by omega), if_neg (by omega), if_neg hn', ← (rankOrder_perm s q.toNat).length_eq]

/-- Settles O32. -/
theorem rankOrderSortsTheWaitingCalls : Obligations.RankOrderSortsTheWaitingCalls := by
  refine ⟨fun s q => ⟨rankOrder_perm s q, rankOrder_sorted s q⟩, ahead_eq_true, effPriority_eq,
    fun s c => ⟨?_, effPriority_bounds s⟩, fun s q first n ht hq h1 h2 hn => ?_⟩
  · rw [rankOf, List.countP_eq_length_filter]
  · rw [exec_answered ht rfl rfl, handleReadWaiting_eq s hq h1 h2 hn]
    simp only [waitingEntries_eq]
    rfl

end Sys2Proof.Machine
end

-- ==== Sys2Proof/Proofs/Matching ====
section
/-! Candidates, the selection policies, call-side matching and arbitration (R54 to R58). -/

namespace Sys2Proof.Machine

/-! ### Candidates (R54) -/

/-- The skill-eligibility test, bit by bit (00_scope.md 5.5). -/
theorem covers_eq_true (skills required : Mask) :
    covers skills required = true ↔ ∀ i < 32, required.getLsbD i = true → skills.getLsbD i = true := by
  rw [covers, beq_iff_eq]
  constructor
  · intro h i hi hr
    have hb : (~~~skills &&& required).getLsbD i = (0#32).getLsbD i := by rw [h]; rfl
    simpa only [BitVec.getLsbD_and, BitVec.getLsbD_not, hi, hr, BitVec.getLsbD_zero, decide_true, Bool.true_and, Bool.and_true,
      Bool.not_eq_false'] using hb
  · intro h
    refine BitVec.eq_of_getLsbD_eq fun i hi => ?_
    have hb := h i hi
    cases hr : required.getLsbD i <;> simp_all

theorem available_eq_true (v : Agent) : available v = true ↔ ∃ n, v.status = .ready n none := by
  unfold available
  split <;> simp_all

theorem isWaiting_eq_true (c : Call) : isWaiting c = true ↔ c.status = .waiting := by
  simp [isWaiting]

theorem pairable_eq_true (s : State) (a : Nat) (v : Agent) (c : Call) : pairable s a v c = true ↔
    (∃ n, v.status = .ready n none) ∧ covers v.skills (requiredOf s c) = true ∧ a ∉ c.exclusion := by
  simp [pairable, available_eq_true, and_assoc]

theorem takeable_eq_true (s : State) (a : Nat) (v : Agent) (c : Call) : takeable s a v c = true ↔
    c.status = .waiting ∧ offering (queueOf s c.queue).state = true ∧ (∃ n, v.status = .ready n none) ∧
      covers v.skills (requiredOf s c) = true ∧ a ∉ c.exclusion := by
  simp only [takeable, Bool.and_eq_true, isWaiting_eq_true, pairable_eq_true, and_assoc]

theorem offering_eq_true (q : QueueState) : offering q = true ↔ q = .opened ∨ q = .draining := by
  cases q <;> simp [offering]

theorem mem_candidates (s : State) (c : Call) (a : Nat) :
    a ∈ candidates s c ↔ a ∈ s.readyList ∧ ∃ v, agentOf s a = some v ∧ pairable s a v c = true := by
  rw [candidates, List.mem_filter]
  cases agentOf s a <;> simp

/-! ### The selection policies (R55, R56) -/

/-- The smallest number of a list is one of it and at most every other. -/
theorem smallest_eq_some {l : List Nat} {a : Nat} (h : smallest l = some a) : a ∈ l ∧ ∀ b ∈ l, a ≤ b := by
  induction l generalizing a with
  | nil => simp [smallest] at h
  | cons x l ih =>
    simp only [smallest] at h
    split at h
    · next hn =>
      cases l with
      | nil => simp_all
      | cons y l => simp only [smallest] at hn; split at hn <;> simp at hn
    · next y hy =>
      obtain ⟨hm, hl⟩ := ih hy
      obtain rfl : min x y = a := by simpa using h
      refine ⟨?_, fun b hb => ?_⟩
      · rcases min_choice x y with e | e <;> rw [e] <;> simp [hm]
      · rcases List.mem_cons.1 hb with rfl | hb
        · exact min_le_left ..
        · exact (min_le_right ..).trans (hl b hb)

theorem smallest_eq_none (l : List Nat) : smallest l = none ↔ l = [] := by
  cases l with
  | nil => simp [smallest]
  | cons x l => simp only [smallest]; split <;> simp

/-- The rotation picks the next number above the cursor, or the smallest of all when none stands above it (R56). -/
theorem rotateChoice_eq_some {cursor : Nat} {l : List Nat} {a : Nat} (h : rotateChoice cursor l = some a) :
    a ∈ l ∧ (∀ b ∈ l, cursor < a → cursor < b → a ≤ b) ∧ (a ≤ cursor → ∀ b ∈ l, b ≤ cursor ∧ a ≤ b) := by
  unfold rotateChoice at h
  split at h
  · next x hx =>
    obtain rfl : x = a := by simpa using h
    obtain ⟨hm, hl⟩ := smallest_eq_some hx
    obtain ⟨hxl, hc⟩ : x ∈ l ∧ cursor < x := by simpa using hm
    exact ⟨hxl, fun b hb _ hcb => hl b (by simp [hb, hcb]), fun hle => absurd hc (by omega)⟩
  · next hx =>
    obtain ⟨hm, hl⟩ := smallest_eq_some h
    have hc : ∀ b ∈ l, b ≤ cursor := by simpa [smallest_eq_none] using hx
    exact ⟨hm, fun b hb _ _ => hl b hb, fun _ b hb => ⟨hc b hb, hl b hb⟩⟩

theorem rotateChoice_eq_none (cursor : Nat) (l : List Nat) : rotateChoice cursor l = none ↔ l = [] := by
  unfold rotateChoice
  split
  · next x hx =>
    obtain ⟨hm, -⟩ := smallest_eq_some hx
    simp only [reduceCtorEq, false_iff]
    rintro rfl
    simp at hm
  · exact smallest_eq_none l

theorem fewestChoice_eq_none (s : State) (l : List Nat) : fewestChoice s l = none ↔ l = [] := by
  cases l with
  | nil => simp [fewestChoice]
  | cons x l => simp only [fewestChoice]; split <;> (try split) <;> simp

/-- The choice of the fewest answered calls: fewer than all before it, and no more than all after it. -/
theorem fewestChoice_eq_some {s : State} {l : List Nat} {a : Nat} (h : fewestChoice s l = some a) :
    ∃ before after, l = before ++ a :: after ∧ (∀ b ∈ before, answeredOf s a < answeredOf s b) ∧
      ∀ b ∈ after, answeredOf s a ≤ answeredOf s b := by
  induction l generalizing a with
  | nil => simp [fewestChoice] at h
  | cons x l ih =>
    simp only [fewestChoice] at h
    split at h
    · next hn =>
      obtain rfl : x = a := by simpa using h
      exact ⟨[], l, rfl, by simp, by simp [(fewestChoice_eq_none s l).1 hn]⟩
    · next y hy =>
      obtain ⟨before, after, rfl, hb, ha⟩ := ih hy
      split at h
      · next hlt =>
        obtain rfl : y = a := by simpa using h
        exact ⟨x :: before, after, rfl, List.forall_mem_cons.2 ⟨hlt, hb⟩, ha⟩
      · next hge =>
        obtain rfl : x = a := by simpa using h
        refine ⟨[], before ++ y :: after, rfl, by simp, fun b hm => ?_⟩
        rcases List.mem_append.1 hm with hm | hm
        · exact (Nat.not_lt.1 hge).trans (hb b hm).le
        · rcases List.mem_cons.1 hm with rfl | hm
          · exact Nat.not_lt.1 hge
          · exact (Nat.not_lt.1 hge).trans (ha b hm)

theorem chooseAgent_eq_none (s : State) (c : Call) : chooseAgent s c = none ↔ candidates s c = [] := by
  unfold chooseAgent
  dsimp only
  split
  · exact List.head?_eq_none_iff
  · exact List.getLast?_eq_none_iff
  · exact rotateChoice_eq_none ..
  · exact fewestChoice_eq_none ..

/-- Whom each policy picks (R55). -/
def PolicyPicks (s : State) (c : Call) (a : Nat) : Prop :=
  match (queueOf s c.queue).settings.policy with
  | .longestIdle => (candidates s c).head? = some a
  | .mostRecent => (candidates s c).getLast? = some a
  | .rotate => (∀ b ∈ candidates s c, (queueOf s c.queue).cursor < a → (queueOf s c.queue).cursor < b → a ≤ b) ∧
      (a ≤ (queueOf s c.queue).cursor → ∀ b ∈ candidates s c, b ≤ (queueOf s c.queue).cursor ∧ a ≤ b)
  | .fewestCalls => ∃ before after, candidates s c = before ++ a :: after ∧
      (∀ b ∈ before, answeredOf s a < answeredOf s b) ∧ ∀ b ∈ after, answeredOf s a ≤ answeredOf s b

theorem chooseAgent_eq_some {s : State} {c : Call} {a : Nat} (h : chooseAgent s c = some a) :
    a ∈ candidates s c ∧ PolicyPicks s c a := by
  cases hp : (queueOf s c.queue).settings.policy with
  | longestIdle =>
    simp only [chooseAgent, PolicyPicks, hp] at h ⊢
    exact ⟨List.mem_of_head? h, h⟩
  | mostRecent =>
    simp only [chooseAgent, PolicyPicks, hp] at h ⊢
    exact ⟨List.mem_of_getLast? h, h⟩
  | rotate =>
    simp only [chooseAgent, PolicyPicks, hp] at h ⊢
    exact rotateChoice_eq_some h
  | fewestCalls =>
    simp only [chooseAgent, PolicyPicks, hp] at h ⊢
    obtain ⟨before, after, e, hb, ha⟩ := fewestChoice_eq_some h
    exact ⟨by simp [e], before, after, e, hb, ha⟩

/-- The agent chosen is READY and in no cool-down. -/
theorem ready_of_chooseAgent {s : State} {c : Call} {a : Nat} (h : chooseAgent s c = some a) :
    ∃ v n, agentOf s a = some v ∧ v.status = .ready n none := by
  obtain ⟨-, v, hv, hp⟩ := (mem_candidates s c a).1 (chooseAgent_eq_some h).1
  obtain ⟨⟨n, hn⟩, -⟩ := (pairable_eq_true s a v c).1 hp
  exact ⟨v, n, hv, hn⟩

/-! ### Call-side matching (R57) -/

theorem matchCall_of_choice {h a : Nat} {s : State} {c : Call} (hc : callOf s h = some c) (hw : c.status = .waiting)
    (ho : offering (queueOf s c.queue).state = true) (ha : chooseAgent s c = some a) :
    matchCall h s = makeOffer h a (decide ((queueOf s c.queue).settings.policy = .rotate)) s := by
  have hw' : isWaiting c = true := (isWaiting_eq_true c).2 hw
  simp only [matchCall, hc, hw', ho, ha, Bool.and_self, if_true]
  rfl

theorem matchCall_eq_self {h : Nat} {s : State} (hn : ∀ c, callOf s h = some c →
    c.status ≠ .waiting ∨ offering (queueOf s c.queue).state = false ∨ chooseAgent s c = none) : matchCall h s = s := by
  rcases matchCall_cases h s with e | ⟨c, a, hc, hw, ho, ha, -⟩
  · exact e
  · rcases hn c hc with h1 | h2 | h3
    · exact absurd hw h1
    · simp [ho] at h2
    · simp [ha] at h3

/-! ### Arbitration (R58) -/

theorem bestCall_eq_none {s : State} {a : Nat} {v : Agent} {t : Table Call} :
    bestCall s a v t = none ↔ ∀ e ∈ t, takeable s a v e.2 = false := by
  induction t with
  | nil => simp [bestCall]
  | cons e t ih =>
    obtain ⟨slot, c⟩ := e
    simp only [bestCall, List.forall_mem_cons]
    split
    · next hn => rw [← ih]; simp [hn]
    · next hn => rw [← ih, hn]; split <;> simp

/-- No call the agent could take stands ahead of the best one. -/
theorem bestCall_best {s : State} {a : Nat} {v : Agent} {t : Table Call} {e : Nat × Call} (h : bestCall s a v t = some e) :
    ∀ f ∈ t, takeable s a v f.2 = true → ahead s f.2 e.2 = false := by
  induction t generalizing e with
  | nil => simp
  | cons x t ih =>
    obtain ⟨slot, c⟩ := x
    simp only [bestCall] at h
    rw [List.forall_mem_cons]
    split at h
    · next hn =>
      have none_takeable := bestCall_eq_none.1 hn
      obtain ⟨-, rfl⟩ : takeable s a v c = true ∧ (slot, c) = e := by simpa using h
      exact ⟨fun _ => ahead_self .., fun f hf ht => absurd ht (by simp [none_takeable f hf])⟩
    · next k d hd =>
      split at h
      · next hc =>
        obtain rfl : (slot, c) = e := by simpa using h
        rw [Bool.and_eq_true] at hc
        exact ⟨fun _ => ahead_self .., fun f hf ht => not_ahead_trans (ahead_asymm hc.2) (ih hd f hf ht)⟩
      · next hc =>
        obtain rfl : (k, d) = e := by simpa using h
        exact ⟨fun ht => by simpa [ht] using hc, ih hd⟩

/-- The rotation cursor moves with an offer only when asked (R56). -/
theorem makeOffer_cursor (h a : Nat) (s : State) (q : Nat) : (queueOf (makeOffer h a false s) q).cursor = (queueOf s q).cursor := by
  cases hc : callOf s h with
  | none => rw [makeOffer_eq_self (.inl hc)]
  | some c =>
    cases hv : agentOf s a with
    | none => rw [makeOffer_eq_self (.inr hv)]
    | some v =>
      simp only [makeOffer_eq hc hv, offerNotice, queueOf_notify, (evalSurge_spec _ _).1]
      split
      · next e => simp [e]
      · next e => simp [e]

theorem matchAgent_of_none {a : Nat} {v : Agent} {s : State} (hv : agentOf s a = some v)
    (hn : ∀ e ∈ s.calls, takeable s a v e.2 = false) : matchAgent a s = s := by
  simp only [matchAgent, hv, bestCall_eq_none.2 hn]

theorem matchAgent_of_takeable {a : Nat} {v : Agent} {s : State} (hv : agentOf s a = some v) {e : Nat × Call} (he : e ∈ s.calls)
    (ht : takeable s a v e.2 = true) :
    ∃ slot c, (slot, c) ∈ s.calls ∧ takeable s a v c = true ∧
      (∀ f ∈ s.calls, takeable s a v f.2 = true → ahead s f.2 c = false) ∧
      matchAgent a s = makeOffer (handleOf s slot) a false s := by
  cases hb : bestCall s a v s.calls with
  | none => simp [bestCall_eq_none.1 hb e he] at ht
  | some x =>
    obtain ⟨hm, htx⟩ := bestCall_mem hb
    exact ⟨x.1, x.2, hm, htx, bestCall_best hb, by simp only [matchAgent, hv, hb]⟩

theorem matchAgent_cursor (a : Nat) (s : State) (q : Nat) : (queueOf (matchAgent a s) q).cursor = (queueOf s q).cursor := by
  rcases matchAgent_cases a s with e | ⟨v, slot, c, -, -, e⟩ <;> rw [e]
  exact makeOffer_cursor ..

/-- Settles O44. -/
theorem matchingChoosesTheAgentAndTheCall : Obligations.MatchingChoosesTheAgentAndTheCall := by
  refine ⟨⟨fun s c a => ?_, fun s c => ⟨List.filter_sublist, chooseAgent_eq_none s c⟩, fun s c a => chooseAgent_eq_some⟩,
    fun h s => ⟨fun c a => matchCall_of_choice, matchCall_eq_self⟩, offering_eq_true,
    fun a v s hv => ⟨matchAgent_of_none hv, fun e => matchAgent_of_takeable hv, matchAgent_cursor a s, takeable_eq_true s a v⟩⟩
  rw [mem_candidates]
  refine and_congr_right fun _ => exists_congr fun v => ?_
  rw [pairable_eq_true, covers_eq_true]
  constructor
  · rintro ⟨hv, ⟨n, hn⟩, hs, he⟩
    exact ⟨n, hv, hn, hs, he⟩
  · rintro ⟨n, hv, hn, hs, he⟩
    exact ⟨hv, ⟨n, hn⟩, hs, he⟩

end Sys2Proof.Machine
end

-- ==== Sys2Proof/Proofs/SetQueue ====
section
/-! SET QUEUE: the clamping of the settings and the order of the checks (R9, R10, R11, R100). -/

namespace Sys2Proof.Machine

/-! ### Clamping (R10) -/

theorem clampHigh_eq (high v : Nat) : clampHigh high v = if v ≤ high then v else high := by
  unfold clampHigh; split <;> omega

theorem clampBoth_eq {low high : Nat} (h : low ≤ high) (v : Nat) :
    clampBoth low high v = if v < low then low else if high < v then high else v := by
  unfold clampBoth; split_ifs <;> omega

theorem clampOrOff_eq {low high : Nat} (h : low ≤ high) (v : Nat) :
    clampOrOff low high v = if v = 0 then 0 else if v < low then low else if high < v then high else v := by
  rw [clampOrOff, clampBoth_eq h]

theorem eq_clampHigh_iff (high v : Nat) : v = clampHigh high v ↔ v ≤ high := by
  unfold clampHigh; omega

theorem eq_clampBoth_iff {low high : Nat} (h : low ≤ high) (v : Nat) : v = clampBoth low high v ↔ low ≤ v ∧ v ≤ high := by
  unfold clampBoth; omega

theorem eq_clampOrOff_iff {low high : Nat} (h : low ≤ high) (v : Nat) :
    v = clampOrOff low high v ↔ v = 0 ∨ low ≤ v ∧ v ≤ high := by
  unfold clampOrOff
  split
  · next h0 => simp [h0]
  · next h0 => rw [eq_clampBoth_iff h]; simp [h0]

/-! ### The stored settings -/

section
variable (f : QueueFields)

/-- The stored numbers, each by its kind of clamp. -/
theorem storedSettings_numbers :
    (storedSettings f).defaultPriority = (if f.defaultPriority.toNat ≤ 127 then f.defaultPriority.toNat else 127) ∧
    (storedSettings f).capacity = (if f.capacity.toNat ≤ 2048 then f.capacity.toNat else 2048) ∧
    (storedSettings f).offerTimeout = (if f.offerTimeout.toNat = 0 then 0 else if f.offerTimeout.toNat < 50 then 50
      else if 600 < f.offerTimeout.toNat then 600 else f.offerTimeout.toNat) ∧
    (storedSettings f).coolDown = (if f.coolDown.toNat ≤ 600 then f.coolDown.toNat else 600) ∧
    (storedSettings f).missLimit = (if f.missLimit.toNat = 0 then 1 else if 15 < f.missLimit.toNat then 15
      else f.missLimit.toNat) ∧
    (storedSettings f).wrapAllowance = (if f.wrapAllowance.toNat ≤ 6000 then f.wrapAllowance.toNat else 6000) ∧
    (storedSettings f).surgeWrapAllowance = (if f.surgeWrapAllowance.toNat ≤ 6000 then f.surgeWrapAllowance.toNat else 6000) ∧
    (storedSettings f).extensionLength = (if f.extensionLength.toNat < 10 then 10
      else if 1200 < f.extensionLength.toNat then 1200 else f.extensionLength.toNat) ∧
    (storedSettings f).maxExtensions = (if f.maxExtensions.toNat ≤ 7 then f.maxExtensions.toNat else 7) ∧
    (storedSettings f).firstAnnouncementDelay =
      (if f.firstAnnouncementDelay.toNat ≤ 36000 then f.firstAnnouncementDelay.toNat else 36000) ∧
    (storedSettings f).announcementInterval = (if f.announcementInterval.toNat = 0 then 0
      else if f.announcementInterval.toNat < 150 then 150
      else if 36000 < f.announcementInterval.toNat then 36000 else f.announcementInterval.toNat) ∧
    (storedSettings f).overflowWaitLimit =
      (if f.overflowWaitLimit.toNat = 65535 then 65534 else f.overflowWaitLimit.toNat) ∧
    (storedSettings f).surgeCount = (if f.surgeCount.toNat ≤ 2048 then f.surgeCount.toNat else 2048) ∧
    (storedSettings f).ahtSeed = (if f.ahtSeed.toNat = 0 then 1 else f.ahtSeed.toNat) ∧
    (storedSettings f).smoothingShift = (if f.smoothingShift.toNat ≤ 7 then f.smoothingShift.toNat else 7) := by
  refine ⟨clampHigh_eq .., clampHigh_eq .., clampOrOff_eq (by decide) _, clampHigh_eq .., ?_, clampHigh_eq .., clampHigh_eq ..,
    clampBoth_eq (by decide) _, clampHigh_eq .., clampHigh_eq .., clampOrOff_eq (by decide) _, ?_, clampHigh_eq .., ?_,
    clampHigh_eq ..⟩
  · refine (clampBoth_eq (by decide) _).trans ?_
    simp only [Nat.lt_one_iff]
  · refine (clampHigh_eq ..).trans ?_
    have := f.overflowWaitLimit.isLt
    split_ifs <;> omega
  · show max 1 f.ahtSeed.toNat = _
    split <;> omega

/-- The settings that are no numbers. -/
theorem storedSettings_choices :
    ((storedSettings f).policy = .longestIdle ↔ f.policy.toNat = 0) ∧ ((storedSettings f).policy = .mostRecent ↔ f.policy.toNat = 1) ∧
    ((storedSettings f).policy = .rotate ↔ f.policy.toNat = 2) ∧
    ((storedSettings f).missAction = .returnReady ↔ f.missAction.toNat = 0) ∧
    ((storedSettings f).dispositionRequired = true ↔ f.dispositionRequired.toNat = 1) ∧
    ((storedSettings f).surgeTrim = true ↔ f.surgeTrim.toNat = 1) := by
  simp only [storedSettings, policyOf, missActionOf, beq_iff_eq, and_true]
  refine ⟨?_, ?_, ?_, ?_⟩ <;> split_ifs <;> simp_all

/-- The sent and the stored value of each setting that may be clamped. -/
def clampPairs : List (Nat × Nat) :=
  let q := storedSettings f
  [(f.defaultPriority.toNat, q.defaultPriority), (f.capacity.toNat, q.capacity), (f.offerTimeout.toNat, q.offerTimeout),
   (f.coolDown.toNat, q.coolDown), (f.missLimit.toNat, q.missLimit), (f.wrapAllowance.toNat, q.wrapAllowance),
   (f.surgeWrapAllowance.toNat, q.surgeWrapAllowance), (f.extensionLength.toNat, q.extensionLength),
   (f.maxExtensions.toNat, q.maxExtensions), (f.firstAnnouncementDelay.toNat, q.firstAnnouncementDelay),
   (f.announcementInterval.toNat, q.announcementInterval), (f.overflowWaitLimit.toNat, q.overflowWaitLimit),
   (f.surgeCount.toNat, q.surgeCount), (f.ahtSeed.toNat, q.ahtSeed), (f.smoothingShift.toNat, q.smoothingShift)]

theorem clampedCount_eq : clampedCount f = (clampPairs f).countP fun p => p.1 != p.2 := rfl

theorem clampedCount_le : clampedCount f ≤ 15 := List.countP_le_length

theorem clampedCount_eq_countP_id :
    clampedCount f = ((clampPairs f).map fun p => decide (p.2 ≠ p.1)).countP id := by
  rw [clampedCount_eq, List.countP_map]
  refine List.countP_congr fun p _ => ?_
  simp only [bne_iff_ne, Function.comp_apply, id_eq, decide_eq_true_eq, ne_comm]

/-- No setting is clamped exactly when each lies in its range. -/
theorem clampedCount_eq_zero : clampedCount f = 0 ↔
    f.defaultPriority.toNat ≤ 127 ∧ f.capacity.toNat ≤ 2048 ∧
    (f.offerTimeout.toNat = 0 ∨ 50 ≤ f.offerTimeout.toNat ∧ f.offerTimeout.toNat ≤ 600) ∧ f.coolDown.toNat ≤ 600 ∧
    (1 ≤ f.missLimit.toNat ∧ f.missLimit.toNat ≤ 15) ∧ f.wrapAllowance.toNat ≤ 6000 ∧ f.surgeWrapAllowance.toNat ≤ 6000 ∧
    (10 ≤ f.extensionLength.toNat ∧ f.extensionLength.toNat ≤ 1200) ∧ f.maxExtensions.toNat ≤ 7 ∧
    f.firstAnnouncementDelay.toNat ≤ 36000 ∧
    (f.announcementInterval.toNat = 0 ∨ 150 ≤ f.announcementInterval.toNat ∧ f.announcementInterval.toNat ≤ 36000) ∧
    f.overflowWaitLimit.toNat ≤ 65534 ∧ f.surgeCount.toNat ≤ 2048 ∧ 1 ≤ f.ahtSeed.toNat ∧ f.smoothingShift.toNat ≤ 7 := by
  have high (n v : Nat) := eq_clampHigh_iff n v
  have seed (v : Nat) : v = max 1 v ↔ 1 ≤ v := by omega
  have all : clampedCount f = 0 ↔ ∀ p ∈ clampPairs f, p.1 = p.2 := by
    simp only [clampedCount_eq, List.countP_eq_zero, bne_iff_ne, ne_eq, not_not]
  rw [all]
  simp only [clampPairs, List.forall_mem_cons, List.not_mem_nil, false_imp_iff, implies_true, and_true]
  exact and_congr (high 127 _) <| and_congr (high 2048 _) <| and_congr (eq_clampOrOff_iff (by decide) _) <|
    and_congr (high 600 _) <| and_congr (eq_clampBoth_iff (by decide) _) <| and_congr (high 6000 _) <| and_congr (high 6000 _) <|
    and_congr (eq_clampBoth_iff (by decide) _) <| and_congr (high 7 _) <| and_congr (high 36000 _) <|
    and_congr (eq_clampOrOff_iff (by decide) _) <| and_congr (high 65534 _) <| and_congr (high 2048 _) <| and_congr (seed _) (high 7 _)

end

/-! ### The checks in their order (R9) -/

/-- The first check that fails, as a chain of conditions. -/
theorem find?_check_cons {β : Type} (p : Prop) [Decidable p] (a : β) (l : List (Bool × β)) :
    (((decide p, a) :: l).find? fun e => e.1).map (·.2) = if p then some a else (l.find? fun e => e.1).map (·.2) := by
  by_cases hp : p <;> simp [hp]

/-- The checks of SET QUEUE in field-index order. -/
def setQueueChecks (s : State) (f : QueueFields) : List (Bool × Answer) :=
  [(decide (63 < f.queue.toNat), .refuse .badField 1 0), (decide (1 < f.reseed.toNat), .refuse .badField 2 0),
    (decide (3 < f.policy.toNat), .refuse .badField 4 0), (decide (1 < f.missAction.toNat), .refuse .badField 9 0),
    (decide (1 < f.dispositionRequired.toNat), .refuse .badField 16 0), (decide (1 < f.surgeTrim.toNat), .refuse .badField 17 0),
    (decide (32 ≤ f.defaultProgram.toNat ∧ f.defaultProgram.toNat ≤ 254), .refuse .badField 18 0),
    (decide (f.defaultProgram.toNat < 32 ∧ programOf s f.defaultProgram.toNat = none),
      .refuse .noSuch 18 f.defaultProgram.toNat),
    (decide (f.overflowTarget = f.queue ∨ 64 ≤ f.overflowTarget.toNat ∧ f.overflowTarget.toNat ≤ 254), .refuse .badField 21 0)]

theorem setQueueRefusal_eq (s : State) (f : QueueFields) :
    setQueueRefusal s f = ((setQueueChecks s f).find? fun e => e.1).map (·.2) := by
  simp only [setQueueChecks, find?_check_cons, setQueueRefusal, gt_iff_lt, Option.isNone_iff_eq_none, List.find?_nil, Option.map_none]

theorem handleSetQueue_of_refusal {s : State} {f : QueueFields} {r : Answer} (h : setQueueRefusal s f = some r) :
    handleSetQueue f s = (s, r) := by
  simp only [handleSetQueue, h]

/-- The queue an accepted SET QUEUE leaves. -/
def setQueueRecord (s : State) (f : QueueFields) : Queue :=
  { queueOf s f.queue.toNat with
    state := pausedState (queueOf s f.queue.toNat).state
    settings := storedSettings f
    aht16 := if f.reseed.toNat = 1 then (storedSettings f).ahtSeed * 16 else (queueOf s f.queue.toNat).aht16 }

theorem handleSetQueue_of_accept {s : State} {f : QueueFields} (h : setQueueRefusal s f = none) :
    handleSetQueue f s = (setQueueRec s f.queue.toNat (setQueueRecord s f), .accept (clampedCount f != 0)
      [f1 (queueStateCode (queueOf s f.queue.toNat).state), f1 (queueStateCode (pausedState (queueOf s f.queue.toNat).state)),
        f1 (clampedCount f)]) := by
  simp only [handleSetQueue, h, setQueueRecord]

/-- With every field in its range no check fails. -/
theorem setQueueRefusal_eq_none {s : State} {f : QueueFields} (hq : f.queue.toNat < 64) (hr : f.reseed.toNat ≤ 1)
    (hp : f.policy.toNat ≤ 3) (hm : f.missAction.toNat ≤ 1) (hd : f.dispositionRequired.toNat ≤ 1) (ht : f.surgeTrim.toNat ≤ 1)
    (hprog : f.defaultProgram.toNat = 255 ∨ f.defaultProgram.toNat < 32 ∧ (programOf s f.defaultProgram.toNat).isSome)
    (hover : f.overflowTarget.toNat = 255 ∨ f.overflowTarget.toNat < 64 ∧ f.overflowTarget ≠ f.queue) :
    setQueueRefusal s f = none := by
  have hsome : ¬ (f.defaultProgram.toNat < 32 ∧ (programOf s f.defaultProgram.toNat).isNone = true) := by
    rintro ⟨h32, hn⟩
    rcases hprog with h | ⟨-, h⟩
    · omega
    · rw [Option.isNone_iff_eq_none] at hn; simp [hn] at h
  have hne : f.overflowTarget ≠ f.queue := by
    rcases hover with h | ⟨-, h⟩
    · exact fun e => by rw [e] at h; omega
    · exact h
  unfold setQueueRefusal
  rw [if_neg (by omega), if_neg (by omega), if_neg (by omega), if_neg (by omega), if_neg (by omega), if_neg (by omega),
    if_neg (by omega), if_neg hsome, if_neg]
  rintro (h | h)
  · exact hne h
  · omega

/-- Settles O27. -/
theorem setQueueStoresTheSettings : Obligations.SetQueueStoresTheSettings := by
  refine ⟨fun f => ⟨?settings, clampedCount_le f, clampedCount_eq_countP_id f, ?zero⟩, fun f s ht e he => ?refused,
    fun f s ht hq hr hp hm hd htr hprog hover => ?accepted⟩
  case settings =>
    obtain ⟨h1, h2, h3, h4, h5, h6, h7, h8, h9, h10, h11, h12, h13, h14, h15⟩ := storedSettings_numbers f
    exact ⟨rfl, rfl, rfl, rfl, h1, h2, h3, h4, h5, h6, h7, h8, h9, h10, h11, h12, h13, h14, h15, rfl, rfl,
      storedSettings_choices f⟩
  case zero => simpa only [and_assoc] using clampedCount_eq_zero f
  case refused =>
    have hr : setQueueRefusal s f = some e.2 := by
      rw [setQueueRefusal_eq, setQueueChecks, he]; rfl
    rw [exec_answered ht rfl rfl, handleSetQueue_of_refusal hr]
  case accepted =>
    have hn := setQueueRefusal_eq_none hq hr hp hm hd htr hprog hover
    refine ⟨setQueueRec s f.queue.toNat (setQueueRecord s f), ?_, ?_, fun q h => by simp [h], rfl⟩
    · rw [exec_answered ht rfl rfl, handleSetQueue_of_accept hn]
      simp [setQueueRecord]
    · rw [queueOf_setQueueRec, if_pos rfl, setQueueRecord]
      have hreseed : f.reseed.toNat = 1 ↔ f.reseed = 1 := BitVec.toNat_inj (y := 1#8)
      simp only [hreseed]
      rfl

end Sys2Proof.Machine
end

-- ==== Sys2Proof/Proofs/Reads ====
section
/-! The read orders: one lemma for each order's reply (R13, R25, R26, R48, R49, R108, R129, R130, R138, R158, R171). -/

namespace Sys2Proof.Machine

/-! ### Sizes and counts -/

@[simp] theorem sizeOfFields_nil : sizeOfFields [] = 0 := rfl
@[simp] theorem sizeOfFields_cons (x : LinkField) (fs : List LinkField) : sizeOfFields (x :: fs) = x.size + sizeOfFields fs := by
  simp [sizeOfFields]
@[simp] theorem sizeOfFields_append (fs gs : List LinkField) : sizeOfFields (fs ++ gs) = sizeOfFields fs + sizeOfFields gs := by
  simp [sizeOfFields]
@[simp] theorem f1_size (v : Nat) : (f1 v).size = 1 := rfl
@[simp] theorem f2_size (v : Nat) : (f2 v).size = 2 := rfl
@[simp] theorem f4_size (v : Nat) : (f4 v).size = 4 := rfl

/-- The listed calls with a property, counted by their handles. -/
theorem length_filter_listedCalls (s : State) (q : Nat) (p : Call → Bool) :
    ((listedCalls s q).filter fun e => p e.2).length = (queueOf s q).waiting.countP fun h => ((callOf s h).map p).getD false := by
  unfold listedCalls
  induction (queueOf s q).waiting with
  | nil => rfl
  | cons h l ih =>
    cases hc : callOf s h with
    | none => simpa [hc] using ih
    | some c => cases hp : p c <;> simpa [hc, hp] using ih

theorem working_eq_decide (v : Agent) : working v = decide (2 ≤ agentStateCode (some v)) := by
  cases hs : v.status <;> simp [working, agentStateCode, hs]

theorem staffed_eq (s : State) (q : Nat) : staffed s q = s.agents.countP fun e => decide (2 ≤ agentStateCode (some e.2) ∧
    ∀ i < 32, (queueOf s q).settings.requiredSkills.getLsbD i = true → e.2.skills.getLsbD i = true) := by
  refine List.countP_congr fun e _ => ?_
  simp only [working_eq_decide, Bool.and_eq_true, decide_eq_true_eq, covers_eq_true]

theorem oldestWait_eq (s : State) (q : Nat) : oldestWait s q =
    (((queueOf s q).waiting.head?.bind fun h => callOf s h).map fun c => (s.now - c.arrivalTime).toNat).getD 0 := by
  unfold oldestWait
  cases (queueOf s q).waiting with
  | nil => rfl
  | cons h l => rfl

/-! ### Queues (R13, R26, R107, R108) -/

theorem exec_readQueue {s : State} (ht : takes s = true) {q : BitVec 8} (hq : q.toNat < 64) :
    exec (.readQueue q) s = .next (answered 0x12 s (.accept false
      ([f1 q.toNat, f1 (queueStateCode (queueOf s q.toNat).state)] ++ settingsFields (queueOf s q.toNat).settings ++
        [f2 (queueOf s q.toNat).cursor, f1 (bit (queueOf s q.toNat).surge), f2 (occupancy s q.toNat),
          f2 (queueOf s q.toNat).waiting.length,
          f2 ((queueOf s q.toNat).waiting.countP fun h => ((callOf s h).map isWaiting).getD false),
          f2 ((queueOf s q.toNat).waiting.countP fun h => ((callOf s h).map isDiverting).getD false),
          f2 (offeredCount s q.toNat)]))) := by
  rw [exec_answered ht rfl rfl, handleReadQueue, if_neg (by omega), ← length_filter_listedCalls, ← length_filter_listedCalls]
  rfl

theorem sizeOfFields_settingsFields (x : QueueSettings) : sizeOfFields (settingsFields x) = 42 := by
  simp [settingsFields]

/-- The reply of READ QUEUE STATISTICS. -/
def statisticsFields (s : State) (q : Nat) : List LinkField :=
  [f1 q, f4 (queueOf s q).intervalStart.toNat, f4 (since s (queueOf s q).intervalStart), f4 (queueOf s q).aht16,
    f2 (staffed s q), f2 (occupancy s q), f2 (queueOf s q).waiting.length, f1 (bit (queueOf s q).surge), f4 (oldestWait s q)] ++
    counterFields (queueOf s q).counters

theorem exec_readQueueStatistics {s : State} (ht : takes s = true) {q : BitVec 8} (hq : q.toNat < 64) (clear : Bool) :
    exec (.readQueueStatistics q (if clear then 1 else 0)) s = .next (answered 0x13
      (if clear then setQueueRec s q.toNat { queueOf s q.toNat with counters := zeroCounters, intervalStart := s.now } else s)
      (.accept false (statisticsFields s q.toNat))) := by
  rw [exec_answered ht rfl rfl, handleReadQueueStatistics, if_neg (by omega)]
  cases clear <;> rfl

theorem sizeOfFields_waitingEntries (s : State) (rank : Nat) (l : List (Nat × Call)) :
    sizeOfFields (waitingEntries s rank l) = 14 * l.length := by
  induction l generalizing rank with
  | nil => rfl
  | cons e l ih => simp [waitingEntries, waitingEntry, ih]; omega

theorem exec_readWaiting_size {s : State} (ht : takes s = true) {q : BitVec 8} {first : BitVec 16} {n : BitVec 8}
    (hq : q.toNat < 64) (h1 : 1 ≤ first.toNat) (h2 : first.toNat ≤ 2048) (hn : n ≠ 0) :
    ∃ fs, exec (.readWaiting q first n) s = .next (answered 0x14 s (.accept (decide (16 < n.toNat)) fs)) ∧
      sizeOfFields fs = 4 + 14 * min (min n.toNat 16) ((waitingCalls s q.toNat).length - (first.toNat - 1)) := by
  refine ⟨_, by rw [exec_answered ht rfl rfl, handleReadWaiting_eq s hq h1 h2 hn], ?_⟩
  simp [sizeOfFields_waitingEntries, (rankOrder_perm s q.toNat).length_eq]
  omega

/-! ### Calls (R25) -/

/-- The flags of READ CALL, by the call's state. -/
theorem callFlags_eq (c : Call) : callFlags c = (if c.awaitingVoice then 1 else 0) + (match c.status with
    | .diverting true => 2
    | .offered _ (some _) => 4
    | .connected _ => 8
    | _ => 0) + if c.announceDue = none then 0 else 16 := by
  have hd : 16 * bit c.announceDue.isSome = if c.announceDue = none then 0 else 16 := by cases c.announceDue <;> rfl
  have ha : bit c.awaitingVoice = if c.awaitingVoice then 1 else 0 := rfl
  rw [callFlags, hd, ha]
  cases c.status with
  | waiting => rfl
  | diverting d => cases d <;> rfl
  | offered a d => cases d <;> rfl
  | connected t => rfl

/-- The reply of READ CALL. -/
def callFields (s : State) (h : Nat) (c : Call) : List LinkField :=
  [f2 h, f4 c.tag.toNat, f1 (callStateCode c.status), f1 c.queue, f1 (c.originQueue.getD 255), f1 c.basePriority,
    f1 (effPriority s c), f4 ((c.extraSkills.map (·.toNat)).getD 0), f4 (c.arrivalSeq % 2 ^ 32), f4 c.arrivalTime.toNat,
    f4 (s.now - c.arrivalTime).toNat, f1 (c.program.getD 255), f1 (c.voice.getD 255), f1 (callFlags c),
    f1 c.exclusion.length, f2 (c.exclusion.getD 0 65535), f2 (c.exclusion.getD 1 65535), f2 (c.exclusion.getD 2 65535),
    f2 (c.exclusion.getD 3 65535),
    f2 (match c.status with
      | .offered a _ => a
      | _ => 65535),
    f4 (match c.status with
      | .offered _ (some d) => d.toNat
      | _ => 0),
    f4 (match c.status with
      | .connected t => t.toNat
      | _ => 0),
    f4 ((c.announceDue.map (·.toNat)).getD 0), f1 c.offerCount, f2 (if c.status = .waiting then rankOf s c else 0)]

theorem exec_readCall {s : State} (ht : takes s = true) {h : BitVec 16} {c : Call} (hc : callOf s h.toNat = some c) :
    exec (.readCall h) s = .next (answered 0x27 s (.accept false (callFields s h.toNat c))) := by
  rw [exec_answered ht rfl rfl, handleReadCall, withCall_of_some hc]
  unfold callFields
  cases hs : c.status with
  | waiting => simp only [isWaiting, hs]; rfl
  | diverting d => simp only [isWaiting, hs]; rfl
  | offered a d => cases d <;> (simp only [isWaiting, hs]; rfl)
  | connected t => simp only [isWaiting, hs]; rfl

/-! ### Agents (R48, R49) -/

/-- The wrap part of READ AGENT's reply. -/
def wrapFields (w : Option WrapRecord) : List LinkField :=
  [f1 ((w.map (·.queue)).getD 0), f4 ((w.map (·.talkTime.toNat)).getD 0), f4 ((w.map (·.start.toNat)).getD 0),
    f4 ((w.map (·.deadline.toNat)).getD 0), f1 ((w.map (·.extensions)).getD 0),
    f2 (((w.bind (·.disposition)).map (·.toNat)).getD 0)]

/-- The reply of READ AGENT for an agent that is logged in. -/
def agentFields (a : Nat) (v : Agent) : List LinkField :=
  [f2 a, f1 (agentStateCode (some v)), f1 (agentFlags v), f4 v.skills.toNat, f1 (bit v.autoReady),
    f1 (orElse (reasonOf v) 0), f1 (orElse (pendingReasonOf v) 0), f2 (orElse (currentCallOf v) 0),
    f4 (orElse (heldSeqOf v) 0 % 4294967296), f4 (((coolDownOf v).map (·.toNat)).getD 0), f1 v.misses, f2 v.answered] ++
    wrapFields (wrapOf v)

/-- The reply of READ AGENT. -/
def readAgentFields (a : Nat) : Option Agent → List LinkField
  | none => [f2 a, f1 0, f1 0, f4 0, f1 0, f1 0, f1 0, f2 0, f4 0, f4 0, f1 0, f2 0] ++ wrapFields none
  | some v => agentFields a v

theorem exec_readAgent {s : State} (ht : takes s = true) {a : BitVec 16} (ha : a.toNat < 512) :
    exec (.readAgent a) s = .next (answered 0x38 s (.accept false (readAgentFields a.toNat (agentOf s a.toNat)))) := by
  rw [exec_answered ht rfl rfl, handleReadAgent, if_neg (by omega)]
  cases agentOf s a.toNat <;> rfl

theorem sizeOfFields_readAgentFields (a : Nat) (o : Option Agent) : sizeOfFields (readAgentFields a o) = 40 := by
  cases o <;> simp [readAgentFields, agentFields, wrapFields]

section
variable {a : Nat} {v : Agent}

theorem agentFields_of_notReady {r : Nat} (h : v.status = .notReady r) : agentFields a v =
    [f2 a, f1 1, f1 1, f4 v.skills.toNat, f1 (bit v.autoReady), f1 r, f1 0, f2 0, f4 0, f4 0, f1 v.misses, f2 v.answered] ++
      wrapFields none := by
  simp only [agentFields, agentStateCode, agentFlags, reasonOf, pendingReasonOf, currentCallOf, heldSeqOf, coolDownOf, wrapOf, h]
  rfl

theorem agentFields_of_ready {n : Nat} {d : Option Time} (h : v.status = .ready n d) : agentFields a v =
    [f2 a, f1 2, f1 (8 + 16 * bit d.isSome), f4 v.skills.toNat, f1 (bit v.autoReady), f1 0, f1 0, f2 0, f4 (n % 2 ^ 32),
      f4 ((d.map (·.toNat)).getD 0), f1 v.misses, f2 v.answered] ++ wrapFields none := by
  simp only [agentFields, agentStateCode, agentFlags, reasonOf, pendingReasonOf, currentCallOf, heldSeqOf, coolDownOf, wrapOf, h]
  cases d <;> rfl

theorem agentFields_of_offered {h n : Nat} (hs : v.status = .offered h n) : agentFields a v =
    [f2 a, f1 3, f1 12, f4 v.skills.toNat, f1 (bit v.autoReady), f1 0, f1 0, f2 h, f4 (n % 2 ^ 32), f4 0, f1 v.misses,
      f2 v.answered] ++ wrapFields none := by
  simp only [agentFields, agentStateCode, agentFlags, reasonOf, pendingReasonOf, currentCallOf, heldSeqOf, coolDownOf, wrapOf, hs]
  rfl

theorem agentFields_of_talking {h : Nat} {p : Option Nat} (hs : v.status = .talking h p) : agentFields a v =
    [f2 a, f1 4, f1 (if p = none then 4 else 6), f4 v.skills.toNat, f1 (bit v.autoReady), f1 0, f1 (p.getD 0), f2 h, f4 0, f4 0,
      f1 v.misses, f2 v.answered] ++ wrapFields none := by
  simp only [agentFields, agentStateCode, agentFlags, reasonOf, pendingReasonOf, currentCallOf, heldSeqOf, coolDownOf, wrapOf, hs]
  cases p <;> rfl

theorem agentFields_of_wrap {w : WrapRecord} {p : Option Nat} (hs : v.status = .wrap w p) : agentFields a v =
    [f2 a, f1 5, f1 ((if p = none then 32 else 34) + if w.disposition = none then 0 else 64), f4 v.skills.toNat,
      f1 (bit v.autoReady), f1 0, f1 (p.getD 0), f2 0, f4 0, f4 0, f1 v.misses, f2 v.answered] ++ wrapFields (some w) := by
  simp only [agentFields, agentStateCode, agentFlags, reasonOf, pendingReasonOf, currentCallOf, heldSeqOf, coolDownOf, wrapOf, hs]
  cases p <;> cases hd : w.disposition <;> simp [hd, bit, orElse]

end

theorem exec_readAgentStates {s : State} (ht : takes s = true) {first : BitVec 16} {n : BitVec 8} (hf : first.toNat < 512)
    (hn : n ≠ 0) :
    exec (.readAgentStates first n) s = .next (answered 0x39 s (.accept
      (decide (64 < n.toNat ∨ 512 < first.toNat + n.toNat))
      ([f2 first.toNat, f1 (min (min n.toNat 64) (512 - first.toNat))] ++
        (List.range (min (min n.toNat 64) (512 - first.toNat))).map fun i => f1 (agentStateByte s (first.toNat + i))))) := by
  have hn' : n.toNat ≠ 0 := fun h => hn (BitVec.eq_of_toNat_eq h)
  have hcut : (min (min n.toNat 64) (512 - first.toNat) != n.toNat) = decide (64 < n.toNat ∨ 512 < first.toNat + n.toNat) := by
    rw [Bool.eq_iff_iff, bne_iff_ne, decide_eq_true_eq]; omega
  rw [exec_answered ht rfl rfl, handleReadAgentStates, if_neg (by omega), if_neg hn', ← hcut]
  rfl

/-! ### Clips (R129, R130) -/

theorem exec_readClip {s : State} (ht : takes s = true) {k : BitVec 8} {off : BitVec 32} {n : BitVec 8} {c : Clip}
    (hk : clipOf s k.toNat = some c) (hl : isLoading c = false) (ho : off.toNat < c.length) (h1 : 1 ≤ n.toNat) (h2 : n.toNat ≤ 240) :
    exec (.readClip k off n) s = .next (answered 0x45 s (.accept (decide (c.length < off.toNat + n.toNat))
      ([f1 k.toNat, f4 off.toNat, f1 (min n.toNat (c.length - off.toNat))] ++
        (List.range (min n.toNat (c.length - off.toNat))).map fun i =>
          f1 (sampleAt s (c.startPage * 512 + (off.toNat + i))).toNat))) := by
  have hcut : (min n.toNat (c.length - off.toNat) != n.toNat) = decide (c.length < off.toNat + n.toNat) := by
    rw [Bool.eq_iff_iff, bne_iff_ne, decide_eq_true_eq]; omega
  rw [exec_answered ht rfl rfl, ← hcut]
  cases hs : c.status with
  | loading cursor x e => simp [isLoading, hs] at hl
  | ready => simp only [handleReadClip, hk, hs, if_neg (Nat.not_le.2 ho)]; rw [if_neg (by omega)]; rfl
  | faulty f => simp only [handleReadClip, hk, hs, if_neg (Nat.not_le.2 ho)]; rw [if_neg (by omega)]; rfl

/-- The reply of READ CLIP ENTRY. -/
def clipEntryFields (s : State) (k : Nat) (o : Option Clip) : List LinkField :=
  [f1 k, f1 (clipStateCode o), f2 ((o.map (·.startPage)).getD 0), f4 ((o.map (·.length)).getD 0),
    f2 ((o.map fun c => pagesOf c.length).getD 0), f1 ((o.map (·.useCount)).getD 0), f1 (programRefs s k), f1 (voiceRefs s k)] ++
  match o with
  | none => [f4 0, f1 0, f4 0, f1 0]
  | some c =>
    match c.status with
    | .loading cursor x e => [f4 cursor, f1 x.toNat, f4 e, f1 0]
    | .ready => [f4 0, f1 0, f4 0, f1 0]
    | .faulty f => [f4 0, f1 0, f4 0, f1 (faultCauseCode f)]

theorem exec_readClipEntry {s : State} (ht : takes s = true) (k : BitVec 8) :
    exec (.readClipEntry k) s = .next (answered 0x46 s (.accept false (clipEntryFields s k.toNat (clipOf s k.toNat)))) := by
  rw [exec_answered ht rfl rfl, handleReadClipEntry]
  cases hk : clipOf s k.toNat with
  | none => rfl
  | some c => cases hs : c.status <;> (simp only [clipEntryFields, clipStateCode, causeCode, hs]; rfl)

theorem sizeOfFields_clipEntryFields (s : State) (k : Nat) (o : Option Clip) : sizeOfFields (clipEntryFields s k o) = 23 := by
  cases o with
  | none => rfl
  | some c => cases hs : c.status <;> simp [clipEntryFields, hs]

/-! ### Programs (R138) -/

/-- The number of references to a program that READ PROGRAM tells. -/
def programUseFields (s : State) (p : Nat) : List LinkField :=
  [f1 ((sharedVoiceOf s p).getD 255), f1 (s.voices.countP fun e => e.2.program == p), f2 (s.calls.countP fun e => e.2.program == some p)]

/-- The content part of READ PROGRAM's reply. -/
def contentFields (now : Time) (p : Nat) : Option Program → List LinkField
  | some r => programContentFields now p r
  | none => noContentFields

theorem exec_readProgram {s : State} (ht : takes s = true) {p : BitVec 8} (hp : p.toNat < 32) :
    exec (.readProgram p) s = .next (answered 0x52 s (.accept false ([f1 p.toNat, f1 (bit (programOf s p.toNat).isSome)] ++
      contentFields s.now p.toNat (programOf s p.toNat) ++ programUseFields s p.toNat))) := by
  rw [exec_answered ht rfl rfl, handleReadProgram, if_neg (by omega)]
  cases programOf s p.toNat <;> rfl

theorem sizeOfFields_contentFields (now : Time) (p : Nat) (o : Option Program) : sizeOfFields (contentFields now p o) = 39 := by
  cases o with
  | none => simp [contentFields, noContentFields, List.replicate, List.range_succ]
  | some r => simp [contentFields, programContentFields, optionClipField, List.range_succ]

theorem optionSum_eq (r : Program) : optionSum r = (if r.introClip = none then 0 else 1) + (if r.exitClip = none then 0 else 2) +
    (if r.overClip = none then 0 else 4) + if r.noEstimateClip = none then 0 else 8 := by
  unfold optionSum
  cases r.introClip <;> cases r.exitClip <;> cases r.overClip <;> cases r.noEstimateClip <;> rfl

/-! ### Voices (R158) -/

/-- The reply of READ VOICE. -/
def voiceFields (v : Nat) : Option Voice → List LinkField
  | none => [f1 v, f1 0, f1 255, f2 0, f2 65535, f1 0, f1 0, f1 0, f4 0, f1 255]
  | some r =>
    (match r.mode with
      | .private_ h => [f1 v, f1 1, f1 r.program, f2 1, f2 h]
      | .shared n => [f1 v, f1 2, f1 r.program, f2 n, f2 65535]) ++
    [f1 (segmentCode r.segment), f1 r.loopIndex, f1 r.clip, f4 r.offset, f1 (match r.segment with
      | .announce i => i
      | _ => 255)]

theorem exec_readVoice {s : State} (ht : takes s = true) {v : BitVec 8} (hv : v.toNat < 128) :
    exec (.readVoice v) s = .next (answered 0x53 s (.accept false (voiceFields v.toNat (voiceOf s v.toNat)))) := by
  rw [exec_answered ht rfl rfl, handleReadVoice, if_neg (by omega)]
  cases voiceOf s v.toNat with
  | none => rfl
  | some r => cases hm : r.mode <;> cases hs : r.segment <;> (simp only [voiceFields, voiceStateCode, hm, hs]; rfl)

theorem sizeOfFields_voiceFields (v : Nat) (o : Option Voice) : sizeOfFields (voiceFields v o) = 15 := by
  cases o with
  | none => rfl
  | some r => cases hm : r.mode <;> simp [voiceFields, hm]

/-! ### The engine (R171) -/

theorem exec_readEngine {s : State} (ht : takes s = true) : exec .readEngine s = .next (transmit { s with
    noticesLost := false, replies := s.replies ++ [replyFrame s 0x04 (handleReadEngine s).2] }) :=
  congrArg _ (takeOrder_of_takes ht .readEngine)

/-- Settles O26: each order's reply is its lemma above. -/
theorem readOrdersAnswerAndClearOnlyWhatTheySay : Obligations.ReadOrdersAnswerAndClearOnlyWhatTheySay := by
  refine ⟨fun s ht => ⟨?queue, ?statistics, ?waiting, ?call, ?agent, ?states, ?clip, ?entry, ?program, ?voice⟩,
    fun s ht => ⟨exec_readEngine ht, ?clearing⟩⟩
  case queue =>
    exact fun q hq => ⟨_, exec_readQueue ht hq, by simp [sizeOfFields_settingsFields], rfl⟩
  case statistics =>
    refine fun q hq => ⟨statisticsFields s q.toNat, exec_readQueueStatistics ht hq false, ?_, ?_⟩
    · simp [statisticsFields, counterFields]
    · rw [statisticsFields, staffed_eq, oldestWait_eq]; rfl
  case waiting => exact fun q first n => exec_readWaiting_size ht
  case call =>
    refine fun h c hc => ⟨_, exec_readCall ht hc, by simp [callFields], ?_⟩
    rw [callFields, callFlags_eq] <;> rfl
  case agent =>
    refine fun a ha => ⟨_, exec_readAgent ht ha, sizeOfFields_readAgentFields .., fun hn => by rw [hn]; rfl, fun v hv => ?_⟩
    rw [hv]
    exact ⟨fun r => agentFields_of_notReady, fun n => agentFields_of_ready, fun n d => agentFields_of_ready,
      fun h n => agentFields_of_offered, fun h p => agentFields_of_talking, fun w p => agentFields_of_wrap⟩
  case states => exact fun first n => exec_readAgentStates ht
  case clip => exact fun k off n c => exec_readClip ht
  case entry =>
    refine fun k => ⟨_, exec_readClipEntry ht k, sizeOfFields_clipEntryFields .., fun hn => by rw [hn]; rfl, fun c hc => ?_⟩
    rw [hc]
    refine ⟨fun cursor x e hs => ?_, fun hs => ?_, fun hs => ?_, fun hs => ?_⟩
    all_goals simp only [clipEntryFields, clipStateCode, hs]; rfl
  case program =>
    refine fun p hp => ⟨_, exec_readProgram ht hp, by simp [sizeOfFields_contentFields, programUseFields],
      fun hn => by rw [hn]; rfl, fun r hr => ?_⟩
    refine ⟨Config.absentClipField s.now p.toNat 3, Config.absentClipField s.now p.toNat 4,
      Config.absentClipField s.now p.toNat 5, Config.absentClipField s.now p.toNat 6, ?_⟩
    rw [hr, contentFields, programContentFields, optionSum_eq]
    rfl
  case voice =>
    refine fun v hv => ⟨_, exec_readVoice ht hv, sizeOfFields_voiceFields .., fun hn => by rw [hn]; rfl, fun r hr => ?_⟩
    rw [hr]
    refine ⟨fun h hm => ?_, fun n hm => ?_⟩
    all_goals simp only [voiceFields, hm]; cases r.segment <;> rfl
  case clearing =>
    refine fun q hq => ⟨_, _, exec_readQueueStatistics ht hq true, exec_readQueueStatistics ht hq false, ?_, fun j hj => ?_, rfl⟩
    · simp
    · simp [hj]

end Sys2Proof.Machine
end

-- ==== Sys2Proof/Proofs/ClearService ====
section
/-! CLEAR SERVICE, owner by owner (R27, R28, R51, R96, R116, R133, R160, R170). -/

namespace Sys2Proof.Machine

/-! ### Freeing the calls (R27) -/

theorem foldl_freeCall_calls (l : List Nat) (s : State) :
    (l.foldl (fun t h => freeCall t h) s).calls = s.calls.filter fun e => decide (e.1 ∉ l.map slotOf) := by
  induction l generalizing s with
  | nil => simp
  | cons h l ih =>
    rw [List.foldl_cons, ih, freeCall_calls, tableErase, List.filter_filter]
    refine List.filter_congr fun e _ => ?_
    simp [Bool.and_comm, eq_comm]

theorem foldl_freeCall_generation (l : List Nat) (hl : (l.map slotOf).Nodup) (s : State) (slot : Nat) :
    generationOf (l.foldl (fun t h => freeCall t h) s) slot =
      if slot ∈ l.map slotOf then (generationOf s slot + 1) % 32 else generationOf s slot := by
  induction l generalizing s with
  | nil => simp
  | cons h l ih =>
    obtain ⟨hh, hl'⟩ := List.nodup_cons.1 hl
    rw [List.foldl_cons, ih hl', generationOf_freeCall]
    by_cases he : slot = slotOf h
    · subst he; simp [hh]
    · simp [he]

theorem foldl_freeCall_frame (l : List Nat) (s : State) :
    ∃ c n, l.foldl (fun t h => freeCall t h) s = { s with calls := c, generations := n } := by
  induction l generalizing s with
  | nil => exact ⟨s.calls, s.generations, rfl⟩
  | cons h l ih => exact ih (freeCall s h)

/-- With the slots in range and listed once, every call is freed and the generation of its slot advances. -/
theorem freeAllCalls_spec {s : State} (hr : tableRising s.calls = true) (hb : ∀ e ∈ s.calls, e.1 < 2048) :
    (freeAllCalls s).calls = [] ∧ ∀ slot, generationOf (freeAllCalls s) slot =
      if (tableFind s.calls slot).isSome then (generationOf s slot + 1) % 32 else generationOf s slot := by
  have hslots : (s.calls.map (·.1)).map slotOf = s.calls.map (·.1) := by
    rw [List.map_map]
    exact List.map_congr_left fun e he => Nat.mod_eq_of_lt (hb e he)
  have hnodup : (s.calls.map (·.1)).Nodup :=
    List.pairwise_map.2 (((tableRising_iff_pairwise _).1 hr).imp fun h => Nat.ne_of_lt h)
  have hmem (slot : Nat) : slot ∈ s.calls.map (·.1) ↔ (tableFind s.calls slot).isSome = true := by
    rw [List.mem_map, Option.isSome_iff_exists]
    refine ⟨fun ⟨e, he, e1⟩ => ⟨e.2, (tableFind_eq_some_iff hr slot e.2).2 (by rw [← e1]; exact he)⟩,
      fun ⟨c, hc⟩ => ⟨(slot, c), mem_of_tableFind hc, rfl⟩⟩
  refine ⟨?_, fun slot => ?_⟩
  · rw [freeAllCalls, foldl_freeCall_calls, hslots, List.filter_eq_nil_iff]
    intro e he
    simpa using ⟨e.2, he⟩
  · rw [freeAllCalls, foldl_freeCall_generation _ (by rw [hslots]; exact hnodup), hslots]
    simp only [hmem]

/-! ### Clearing the queues (R28, R116) -/

theorem foldl_clearedQueue (l : List Nat) (hl : l.Nodup) (s : State) (q : Nat) :
    queueOf (l.foldl (fun t q => setQueueRec t q (clearedQueue t.now (queueOf t q))) s) q =
      if q ∈ l then clearedQueue s.now (queueOf s q) else queueOf s q := by
  induction l generalizing s with
  | nil => simp
  | cons j l ih =>
    obtain ⟨hj, hl'⟩ := List.nodup_cons.1 hl
    rw [List.foldl_cons, ih hl', queueOf_setQueueRec, setQueueRec_now]
    by_cases he : q = j
    · subst he; simp [hj]
    · simp [he]

theorem clearQueues_queueOf (s : State) {q : Nat} (hq : q < 64) : queueOf (clearQueues s) q = clearedQueue s.now (queueOf s q) := by
  rw [clearQueues, foldl_clearedQueue _ List.nodup_range]
  exact if_pos (List.mem_range.2 hq)

theorem foldl_clearedQueue_frame (l : List Nat) (s : State) :
    ∃ x, l.foldl (fun t q => setQueueRec t q (clearedQueue t.now (queueOf t q))) s = { s with queues := x } := by
  induction l generalizing s with
  | nil => exact ⟨s.queues, rfl⟩
  | cons q l ih => exact ih (setQueueRec s q (clearedQueue s.now (queueOf s q)))

/-! ### The whole clearing (R170) -/

/-- Clearing the calls and the queues moves nothing else. -/
theorem clearedTables_frame (s : State) : ∃ x, clearQueues (freeAllCalls s) =
    { s with calls := (freeAllCalls s).calls, generations := (freeAllCalls s).generations, queues := x } := by
  obtain ⟨c, n, hc⟩ := foldl_freeCall_frame (s.calls.map (·.1)) s
  obtain ⟨x, hx⟩ := foldl_clearedQueue_frame (List.range Config.queues) (freeAllCalls s)
  exact ⟨x, by rw [clearQueues, hx, freeAllCalls, hc]⟩

theorem clearAll_clipOf (s : State) (k : Nat) :
    clipOf (clearAll s) k = (clipOf s k).map fun c => { c with useCount := programRefs s k } := by
  obtain ⟨x, e⟩ := clearedTables_frame s
  have he : clipOf (clearAll s) k = tableFind ((clearQueues (freeAllCalls s)).clips.map fun f =>
      (f.1, { f.2 with useCount := programRefs (clearQueues (freeAllCalls s)) f.1 })) k := rfl
  rw [he, e]
  exact tableFind_map s.clips (fun j c => { c with useCount := programRefs s j }) k

/-- Settles O25. -/
theorem clearServiceRemovesAllTraffic : Obligations.ClearServiceRemovesAllTraffic := by
  intro dest s ht ⟨hcalls, _⟩ ⟨hslots, _⟩
  obtain ⟨hfree, hgen⟩ := freeAllCalls_spec hcalls hslots
  obtain ⟨c, n, hc⟩ := foldl_freeCall_frame (s.calls.map (·.1)) s
  obtain ⟨x, e⟩ := clearedTables_frame s
  refine ⟨clearAll s, exec_ended (r := handleClearService s) ht rfl rfl, rfl, ?calls, rfl, rfl, rfl, rfl, rfl, ?readies, ?arrivals,
    fun slot => ?generation, fun q hq => ?queue, clearAll_clipOf s, ?draws, ?ends, ?sending, ?outside⟩
  case calls => rw [clearAll, e]; exact hfree
  case readies => rw [clearAll, e]; rfl
  case arrivals => rw [clearAll, e]; rfl
  case generation =>
    rw [clearAll, e]
    exact hgen slot
  case queue =>
    have hcleared := clearQueues_queueOf (freeAllCalls s) hq
    rw [e] at hcleared
    rw [clearAll, e]
    exact hcleared.trans (by rw [freeAllCalls, hc]; rfl)
  case draws => rw [clearAll, e]; rfl
  case ends => rw [clearAll, e]; rfl
  case sending => rw [clearAll, e]; rfl
  case outside => rw [clearAll, e]; rfl

end Sys2Proof.Machine
end

-- ==== Sys2Proof/Proofs/Surge ====
section
/-! What one evaluation of a queue does, as the statements say it (`SurgeEvaluated`; R93, R109 to R114). -/

namespace Sys2Proof.Machine

/-! ### Notices of a kind -/

/-- The notices of a kind that wait. -/
def noticesOf (kind : Nat) (s : State) : List OutFrame := s.notices.filter fun f => f.kind == kind

theorem noticesOf_notify {s : State} (h : s.notices.length < 256) (k kind : Nat) (body : List LinkField) :
    noticesOf k (notify kind body s) = noticesOf k s ++
      if kind = k then [{ frameClass := 4, kind := kind, body := f4 s.now.toNat :: body }] else [] := by
  rw [notify_of_lt h]
  by_cases hk : kind = k <;> simp [noticesOf, hk]

theorem noticesOf_notify_of_ne {s : State} (h : s.notices.length < 256) {k kind : Nat} (hk : kind ≠ k) (body : List LinkField) :
    noticesOf k (notify kind body s) = noticesOf k s := by
  simp [noticesOf_notify h, hk]

/-! ### Entry and exit (R111, R112) -/

def entersSurge (s : State) (q : Nat) : Bool := !(queueOf s q).surge && (countMet s q || waitMet s q)

def leavesSurge (s : State) (q : Nat) : Bool := (queueOf s q).surge && exitMet s q

/-- A surge entry that trims wraps (R93). -/
def trimsWraps (s : State) (q : Nat) : Bool := entersSurge s q && (queueOf s q).settings.surgeTrim

theorem evalSurge_of_enters {s : State} {q : Nat} (h : entersSurge s q = true) : evalSurge q s = enterSurge q s := by
  obtain ⟨h1, h2⟩ : (queueOf s q).surge = false ∧ (countMet s q || waitMet s q) = true := by simpa [entersSurge] using h
  rw [evalSurge, h1, h2]; rfl

theorem evalSurge_of_leaves {s : State} {q : Nat} (h : leavesSurge s q = true) : evalSurge q s = leaveSurge q s := by
  obtain ⟨h1, h2⟩ : (queueOf s q).surge = true ∧ exitMet s q = true := by simpa [leavesSurge] using h
  rw [evalSurge, h1, h2]; rfl

theorem evalSurge_of_stays {s : State} {q : Nat} (he : entersSurge s q = false) (hl : leavesSurge s q = false) :
    evalSurge q s = s := by
  cases h : (queueOf s q).surge
  · have : (countMet s q || waitMet s q) = false := by simpa [entersSurge, h] using he
    rw [evalSurge, h, this]; rfl
  · have : exitMet s q = false := by simpa [leavesSurge, h] using hl
    rw [evalSurge, h, this]; rfl

/-- The surge flag after an evaluation. -/
theorem evalSurge_surge (s : State) (q : Nat) : (queueOf (evalSurge q s) q).surge =
    if (queueOf s q).surge then !leavesSurge s q else entersSurge s q := by
  rw [(evalSurge_spec q s).1, if_pos rfl]
  cases h : (queueOf s q).surge <;> simp [leavesSurge, entersSurge, h]

theorem evalSurge_waiting (s : State) (q j : Nat) : (queueOf (evalSurge q s) j).waiting = (queueOf s j).waiting := by
  rw [(evalSurge_spec q s).1]; split
  · next h => rw [h]
  · rfl

/-- The state with the surge flag of queue `q` written. -/
def flagged (s : State) (q : Nat) (b : Bool) : State := setQueueRec s q { queueOf s q with surge := b }

@[simp] theorem queueOf_flagged (s : State) (q : Nat) (b : Bool) : queueOf (flagged s q b) q = { queueOf s q with surge := b } := by
  simp [flagged]

/-- The two states agree on what a SURGE CHANGED notice of queue `q` tells. -/
structure SameLine (s t : State) (q : Nat) : Prop where
  waiting : (queueOf t q).waiting = (queueOf s q).waiting
  now : t.now = s.now
  calls : ∀ h, callOf t h = callOf s h

theorem SameLine.oldestWait {s t : State} {q : Nat} (h : SameLine s t q) : oldestWait t q = oldestWait s q := by
  simp only [oldestWait_eq, h.waiting, h.now, h.calls]

theorem sameLine_flagged (s : State) (q : Nat) (b : Bool) : SameLine s (flagged s q b) q :=
  ⟨by simp, rfl, fun _ => rfl⟩

theorem sameLine_trimWraps (s : State) (q : Nat) (b : Bool) : SameLine s (trimWraps (flagged s q b) q) q :=
  ⟨(sameLine_flagged s q b).waiting, rfl, fun _ => rfl⟩

theorem surgeNotice_notices {s t : State} {q : Nat} (h : SameLine s t q) (hn : t.notices.length < 256) (b : Bool) (m n : Nat) :
    (surgeNotice q b m n t).notices = t.notices ++ [{ frameClass := 4, kind := 0x85, body :=
      [f4 s.now.toNat, f1 q, f1 (bit b), f1 m, f2 (queueOf s q).waiting.length, f4 (oldestWait s q), f2 n] }] := by
  rw [surgeNotice, notify_of_lt hn, h.waiting, h.now, h.oldestWait]

/-- The deadline a surge entry trims to. -/
def trimLimit (s : State) (q : Nat) : Time := timeAfter s.now (queueOf s q).settings.surgeWrapAllowance

/-- The notice of an evaluation that changes the flag. -/
def surgeFrame (s : State) (q : Nat) : OutFrame :=
  { frameClass := 4, kind := 0x85, body :=
    [f4 s.now.toNat, f1 q, f1 (bit (entersSurge s q)),
      f1 (if entersSurge s q then bit (countMet s q) + 2 * bit (waitMet s q) else 0), f2 (queueOf s q).waiting.length,
      f4 (oldestWait s q), f2 (if trimsWraps s q then trimCount s q else 0)] }

/-- What an evaluation does to agents, due wraps and notices. -/
theorem evalSurge_moves (s : State) (q : Nat) :
    (∀ a, agentOf (evalSurge q s) a =
      if trimsWraps s q then (agentOf s a).map (trimmed q (trimLimit s q)) else agentOf s a) ∧
    (evalSurge q s).due.wraps = (if trimsWraps s q then
      s.due.wraps.filter fun a => !((s.agents.filter fun e => trims q (trimLimit s q) e.2).map (·.1)).contains a
      else s.due.wraps) ∧
    (s.notices.length < 256 → (evalSurge q s).notices =
      s.notices ++ if entersSurge s q || leavesSurge s q then [surgeFrame s q] else []) := by
  have hlimit : timeAfter (flagged s q true).now (queueOf (flagged s q true) q).settings.surgeWrapAllowance = trimLimit s q := by
    rw [queueOf_flagged]; rfl
  cases he : entersSurge s q with
  | true =>
    rw [evalSurge_of_enters he]
    cases ht : (queueOf s q).settings.surgeTrim with
    | true =>
      have htr : trimsWraps s q = true := by simp [trimsWraps, he, ht]
      have hcount : trimCount (flagged s q true) q = trimCount s q := by rw [trimCount, hlimit]; rfl
      have e : enterSurge q s = surgeNotice q true (bit (countMet s q) + 2 * bit (waitMet s q)) (trimCount s q)
          (trimWraps (flagged s q true) q) := by rw [enterSurge, ht, ← hcount]; rfl
      simp only [e, htr, if_true]
      refine ⟨fun a => ?_, ?_, fun hn => ?_⟩
      · rw [surgeNotice, agentOf_notify, agentOf_trimWraps, hlimit]; rfl
      · rw [surgeNotice, notify_due, trimWraps, hlimit]; rfl
      · rw [surgeNotice_notices (sameLine_trimWraps s q true) hn]
        simp only [surgeFrame, he, htr, if_true, Bool.true_or]; rfl
    | false =>
      have htr : trimsWraps s q = false := by simp [trimsWraps, he, ht]
      have e : enterSurge q s = surgeNotice q true (bit (countMet s q) + 2 * bit (waitMet s q)) 0 (flagged s q true) := by
        rw [enterSurge, ht]; rfl
      simp only [e, htr, Bool.false_eq_true, if_false]
      refine ⟨fun a => agentOf_notify .., congrArg DueWork.wraps (notify_due ..), fun hn => ?_⟩
      rw [surgeNotice_notices (sameLine_flagged s q true) hn]
      simp only [surgeFrame, he, htr, if_true, Bool.true_or, Bool.false_eq_true, if_false]; rfl
  | false =>
    have htr : trimsWraps s q = false := by simp [trimsWraps, he]
    simp only [htr, Bool.false_eq_true, if_false, Bool.false_or]
    cases hl : leavesSurge s q with
    | true =>
      rw [evalSurge_of_leaves hl]
      refine ⟨fun a => agentOf_notify .., congrArg DueWork.wraps (notify_due ..), fun hn => ?_⟩
      refine (surgeNotice_notices (sameLine_flagged s q false) hn _ _ _).trans ?_
      simp only [surgeFrame, he, htr, Bool.false_eq_true, if_false]; rfl
    | false =>
      rw [evalSurge_of_stays he hl]
      exact ⟨fun _ => rfl, rfl, fun _ => by simp⟩

/-! ### `SurgeEvaluated` -/

/-- A property of the wrap record of an agent, false without one. -/
def wrapHas (p : WrapRecord → Bool) (v : Agent) : Bool := ((wrapOf v).map p).getD false

/-- The wraps a surge entry of queue `q` trims. -/
def isCut (s : State) (q : Nat) (w : WrapRecord) : Bool :=
  trimsWraps s q && (w.queue == q && later w.deadline (trimLimit s q))

theorem trims_eq_wrapHas (q : Nat) (limit : Time) (v : Agent) :
    trims q limit v = wrapHas (fun w => w.queue == q && later w.deadline limit) v := by
  cases h : v.status <;> simp [trims, wrapHas, wrapOf, h]

theorem countP_isCut (s : State) (q : Nat) :
    (s.agents.countP fun e => wrapHas (isCut s q) e.2) = if trimsWraps s q then trimCount s q else 0 := by
  cases h : trimsWraps s q with
  | true =>
    have hcut : isCut s q = fun w => w.queue == q && later w.deadline (trimLimit s q) := funext fun w => by simp [isCut, h]
    rw [if_pos rfl, trimCount, hcut]
    exact List.countP_congr fun e _ => by rw [trims_eq_wrapHas]; rfl
  | false =>
    refine (List.countP_eq_zero.2 fun e _ => ?_).trans rfl
    cases hw : wrapOf e.2 <;> simp [wrapHas, isCut, h, hw]

/-- An agent in WRAP after an evaluation: its deadline is the trim's when the evaluation cuts it. -/
theorem agentOf_evalSurge_wrap {s : State} {q a : Nat} {v : Agent} {w : WrapRecord} {p : Option Nat} (hv : agentOf s a = some v)
    (hs : v.status = .wrap w p) : agentOf (evalSurge q s) a =
      some (if isCut s q w then { v with status := .wrap { w with deadline := trimLimit s q } p } else v) := by
  rw [(evalSurge_moves s q).1, hv]
  cases ht : trimsWraps s q with
  | true => simp [trimmed, hs, isCut, ht]
  | false => simp [isCut, ht]

/-- The wraps that stay due at this boundary are those the evaluation does not cut. -/
theorem mem_due_wraps_evalSurge {s : State} (hr : tableRising s.agents = true) (q a : Nat) :
    a ∈ (evalSurge q s).due.wraps ↔
      a ∈ s.due.wraps ∧ ∀ v w p, agentOf s a = some v → v.status = .wrap w p → isCut s q w = false := by
  rw [(evalSurge_moves s q).2.1]
  cases ht : trimsWraps s q with
  | false => simp [isCut, ht]
  | true =>
    simp only [if_true, List.mem_filter, Bool.not_eq_true', List.contains_eq_mem, decide_eq_false_iff_not, List.mem_map]
    refine and_congr_right fun _ => ⟨fun h v w p hv hs => ?_, fun h => ?_⟩
    · rw [← Bool.not_eq_true]
      intro hc
      refine h ⟨(a, v), ⟨mem_of_tableFind hv, ?_⟩, rfl⟩
      simpa [trims, hs, isCut, ht] using hc
    · rintro ⟨⟨b, v⟩, ⟨hm, htr⟩, rfl⟩
      have hv : agentOf s b = some v := (tableFind_eq_some_iff hr b v).2 hm
      cases hs : v.status with
      | wrap w p =>
        have := h v w p hv hs
        simp only [trims, hs] at htr
        simp [isCut, ht, htr] at this
      | notReady r => simp [trims, hs] at htr
      | ready n d => simp [trims, hs] at htr
      | offered h n => simp [trims, hs] at htr
      | talking h p => simp [trims, hs] at htr

/-- `t` is `s` after steps that leave what an evaluation of queue `q` looks at, but for the waiting list and the calls. -/
structure BeforeSurge (s t : State) (q : Nat) : Prop where
  settings : (queueOf t q).settings = (queueOf s q).settings
  surge : (queueOf t q).surge = (queueOf s q).surge
  now : t.now = s.now
  wraps : ∀ a v, wrapOf v ≠ none → (agentOf t a = some v ↔ agentOf s a = some v)
  due : t.due.wraps = s.due.wraps
  canonical : Canonical s → tableRising t.agents = true ∧
    ∀ p, (t.agents.countP fun e => wrapHas p e.2) = s.agents.countP fun e => wrapHas p e.2
  notices : s.notices.length < 250 → t.notices.length < 256 ∧ noticesOf 0x85 t = noticesOf 0x85 s

/-- `u` is `r` after steps that leave what an evaluation of queue `q` has written, where `room` says that notices find places. -/
structure AfterSurge (room : Prop) (r u : State) (q : Nat) : Prop where
  waiting : (queueOf u q).waiting = (queueOf r q).waiting
  surge : (queueOf u q).surge = (queueOf r q).surge
  arrival : ∀ h, (callOf u h).map (·.arrivalTime) = (callOf r h).map (·.arrivalTime)
  wraps : ∀ a v, wrapOf v ≠ none → agentOf r a = some v → agentOf u a = some v
  due : u.due.wraps = r.due.wraps
  notices : room → noticesOf 0x85 u = noticesOf 0x85 r

theorem AfterSurge.refl (room : Prop) (r : State) (q : Nat) : AfterSurge room r r q :=
  ⟨rfl, rfl, fun _ => rfl, fun _ _ _ h => h, rfl, fun _ => rfl⟩

/-- Of a boolean measure, the number the notice tells. -/
theorem bit_eq_ite (b : Bool) : bit b = if b then 1 else 0 := rfl

/-- An evaluation in the middle of an event is what the event's statement says of it. -/
theorem surgeEvaluated_of {s t u : State} {q : Nat} (hb : BeforeSurge s t q)
    (ha : AfterSurge (s.notices.length < 250) (evalSurge q t) u q) : SurgeEvaluated s u q := by
  unfold SurgeEvaluated
  intro x len oldest byCount byWait enters leaves limit cut
  have hwaiting : (queueOf u q).waiting = (queueOf t q).waiting := ha.waiting.trans (evalSurge_waiting t q q)
  have harrival (h : Nat) : (callOf u h).map (·.arrivalTime) = (callOf t h).map (·.arrivalTime) := by
    rw [ha.arrival, callOf_evalSurge]
  have hlen : len = (queueOf t q).waiting.length := congrArg List.length hwaiting
  have holdest : oldest = oldestWait t q := by
    have e (o : Option Call) : o.map (fun c => (s.now - c.arrivalTime).toNat) =
        (o.map (·.arrivalTime)).map fun d => (s.now - d).toNat := by cases o <;> rfl
    show (Option.map _ _).getD 0 = _
    rw [oldestWait_eq, hwaiting, hb.now]
    cases (queueOf t q).waiting.head? with
    | none => rfl
    | some h => rw [Option.bind_some, Option.bind_some, e, e, harrival]
  have hx : x = (queueOf t q).settings := hb.settings.symm
  have hcount : byCount = countMet t q := by
    show decide (x.surgeCount ≠ 0 ∧ x.surgeCount ≤ len) = _
    rw [hx, hlen, Bool.decide_and]; simp [countMet, bne, beq_eq_decide]
  have hwait : byWait = waitMet t q := by
    show decide (x.surgeWait ≠ 0 ∧ x.surgeWait ≤ oldest) = _
    rw [hx, holdest, Bool.decide_and]; simp [waitMet, bne, beq_eq_decide]
  have henters : enters = entersSurge t q := by
    show (!(queueOf s q).surge && (byCount || byWait)) = _
    rw [hcount, hwait, ← hb.surge]; rfl
  have hleaves : leaves = leavesSurge t q := by
    show ((queueOf s q).surge && decide ((x.surgeCount = 0 ∨ len ≤ 3 * x.surgeCount / 4) ∧
      (x.surgeWait = 0 ∨ oldest ≤ 3 * x.surgeWait / 4))) = _
    rw [hx, hlen, holdest, ← hb.surge, leavesSurge, exitMet, Bool.decide_and, Bool.decide_or, Bool.decide_or]
    simp [beq_eq_decide]
  have hlimit : limit = trimLimit t q := by
    show s.now + BitVec.ofNat 32 x.surgeWrapAllowance = _
    rw [hx, ← hb.now]; rfl
  have hcut (w : WrapRecord) : cut w = isCut t q w := by
    show (enters && x.surgeTrim && decide (w.queue = q ∧ w.deadline ≠ limit ∧ (w.deadline - limit).msb = false)) = _
    rw [henters, hx, hlimit, isCut, trimsWraps, later, Bool.decide_and, Bool.decide_and]
    simp [beq_eq_decide, bne]
  have hcutfun : cut = isCut t q := funext hcut
  clear_value cut limit leaves enters byWait byCount oldest len
  subst hcutfun hlimit hleaves henters hwait hcount holdest hlen
  refine ⟨?flag, fun a v w p hv hs => ?agents, fun hc => ⟨fun a => ?due, fun hn => ?notices⟩⟩
  case flag => rw [ha.surge, evalSurge_surge, hb.surge]
  case agents =>
    have hw : wrapOf v ≠ none := by simp [wrapOf, hs]
    refine ha.wraps a _ ?_ (agentOf_evalSurge_wrap ((hb.wraps a v hw).2 hv) hs)
    split <;> simp [wrapOf, hs]
  case due =>
    rw [ha.due, mem_due_wraps_evalSurge (hb.canonical hc).1, hb.due]
    refine and_congr_right fun _ => forall_congr' fun v => forall_congr' fun w => forall_congr' fun p => ?_
    refine ⟨fun h hv hs => h ((hb.wraps a v (by simp [wrapOf, hs])).2 hv) hs,
      fun h hv hs => h ((hb.wraps a v (by simp [wrapOf, hs])).1 hv) hs⟩
  case notices =>
    obtain ⟨hroom, hsame⟩ := hb.notices hn
    have hcp := (hb.canonical hc).2 (isCut t q)
    show noticesOf 0x85 u = noticesOf 0x85 s ++ _
    rw [ha.notices hn, noticesOf, (evalSurge_moves t q).2.2 hroom, List.filter_append, ← hsame]
    congr 1
    rw [show (s.agents.countP fun e => ((wrapOf e.2).map (isCut t q)).getD false) =
      if trimsWraps t q then trimCount t q else 0 from hcp.symm.trans (countP_isCut t q)]
    cases h1 : entersSurge t q <;> cases h2 : leavesSurge t q <;> simp [surgeFrame, h1, hb.now, bit_eq_ite]

end Sys2Proof.Machine
end

-- ==== Sys2Proof/Proofs/OfferEnds ====
section
/-! An offer that ends without an answer (R67, R68, R71): REFUSE OFFER, the expiry, and an agent that leaves its offer. -/

namespace Sys2Proof.Machine

/-! ### The call side -/

/-- A handle is its generation and its slot. -/
theorem handle_ext {g h : Nat} (hgen : g / Config.callSlots = h / Config.callSlots) (hslot : slotOf g = slotOf h) : g = h := by
  rw [← Nat.div_add_mod g Config.callSlots, ← Nat.div_add_mod h Config.callSlots, hgen]
  exact congrArg _ hslot

/-- Two handles that name calls in one slot are one. -/
theorem eq_of_slotOf_eq {s : State} {g h : Nat} {b c : Call} (hg : callOf s g = some b) (hh : callOf s h = some c)
    (hs : slotOf g = slotOf h) : g = h := by
  rw [callOf_eq_some] at hg hh
  exact handle_ext (by rw [← hg.1, ← hh.1, hs]) hs

/-- The calls after the record of a call in use is written. -/
theorem callOf_setCallRec {s : State} {h : Nat} {b : Call} (hb : callOf s h = some b) (c : Call) (g : Nat) :
    callOf (setCallRec s h c) g = if g = h then some c else callOf s g := by
  split
  · next hg => rw [hg, callOf_setCallRec_self hb]
  · next hg =>
    by_cases hs : slotOf g = slotOf h
    · have hgen : generationOf s (slotOf g) ≠ g / Config.callSlots := by
        intro e
        rw [callOf_eq_some] at hb
        exact hg (handle_ext (by rw [← e, hs, hb.1]) hs)
      rw [callOf, callOf, if_neg hgen, if_neg (by exact hgen)]
    · exact callOf_setCallRec_of_ne s c hs

/-- A record written with the arrival sequence kept leaves every arrival sequence. -/
theorem seqOf_setCallRec {s : State} {h : Nat} {b c : Call} (hb : callOf s h = some b) (hc : c.arrivalSeq = b.arrivalSeq) (g : Nat) :
    seqOf (setCallRec s h c) g = seqOf s g := by
  rw [seqOf, seqOf, callOf_setCallRec hb]
  split
  · next hg => simp [hg, hb, hc]
  · rfl

/-- Where a handle goes into a waiting list: behind the calls that arrived no later than it, ahead of one that arrived after it. -/
theorem arrivalInsert_split (s : State) (h seq : Nat) (l : List Nat) : ∃ before after, l = before ++ after ∧
    arrivalInsert s h seq l = before ++ h :: after ∧ (∀ g ∈ before, seqOf s g ≤ seq) ∧ ∀ g, after.head? = some g → seq < seqOf s g := by
  induction l with
  | nil => exact ⟨[], [], rfl, rfl, by simp, by simp⟩
  | cons x xs ih =>
    have hx : ((callOf s x).map fun c => decide (seq < c.arrivalSeq)).getD false = decide (seq < seqOf s x) := by
      cases hc : callOf s x <;> simp [seqOf, hc]
    rw [arrivalInsert, hx]
    by_cases hlt : seq < seqOf s x
    · exact ⟨[], x :: xs, rfl, by simp [hlt], by simp, by simpa using hlt⟩
    · obtain ⟨before, after, hl, hi, hb, ha⟩ := ih
      refine ⟨x :: before, after, by simp [hl], by simp [hlt, hi], ?_, ha⟩
      rw [List.forall_mem_cons]
      exact ⟨Nat.not_lt.1 hlt, hb⟩

/-- The record of a call whose offer by agent `a` has ended (R73). -/
def returned (a : Nat) (c : Call) : Call := { c with status := .waiting, exclusion := excludeAgent a c.exclusion }

/-- The state in which a returned call stands again, before the surge monitor evaluates its queue. -/
def rejoined (s : State) (h a : Nat) (c : Call) : State := joinList (setCallRec s h (returned a c)) h (returned a c)

theorem returnCall_eq (s : State) (h a : Nat) (c : Call) : returnCall h a c s = evalSurge c.queue (rejoined s h a c) := rfl

theorem callOf_returnCall {s : State} {h : Nat} {c : Call} (hc : callOf s h = some c) (a g : Nat) :
    callOf (returnCall h a c s) g = if g = h then some (returned a c) else callOf s g := by
  rw [returnCall_eq, callOf_evalSurge, rejoined, callOf_joinList, callOf_setCallRec hc]

theorem queueOf_returnCall_of_ne (s : State) (h a : Nat) (c : Call) {q : Nat} (hq : q ≠ c.queue) :
    queueOf (returnCall h a c s) q = queueOf s q := by
  rw [returnCall_eq, queueOf_evalSurge_of_ne _ hq, rejoined, queueOf_joinList, if_neg (by exact hq)]
  rfl

/-- The queue of a returned call: it stands in the list, and the surge flag is evaluated. -/
theorem queueOf_returnCall (s : State) (h a : Nat) (c : Call) : ∃ b, queueOf (returnCall h a c s) c.queue =
    { queueOf s c.queue with
      waiting := arrivalInsert (setCallRec s h (returned a c)) h c.arrivalSeq (queueOf s c.queue).waiting, surge := b } := by
  have hq := (evalSurge_spec c.queue (rejoined s h a c)).1 c.queue
  rw [if_pos rfl, rejoined, queueOf_joinList, if_pos (by rfl)] at hq
  exact ⟨_, hq⟩

theorem agentOf_returnCall (s : State) (h a b : Nat) (c : Call) :
    (agentOf (returnCall h a c s) b).map withoutDeadline = (agentOf s b).map withoutDeadline :=
  (evalSurge_spec c.queue (rejoined s h a c)).2.1 b

theorem agentOf_returnCall_of_not_wrap {s : State} {b : Nat} {v : Agent} (hv : agentOf s b = some v) (hw : wrapOf v = none)
    (h a : Nat) (c : Call) : agentOf (returnCall h a c s) b = some v :=
  agentOf_evalSurge_of_not_wrap (s := rejoined s h a c) hv hw c.queue

theorem returnCall_readyList (s : State) (h a : Nat) (c : Call) : (returnCall h a c s).readyList = s.readyList :=
  evalSurge_readyList ..

theorem returnCall_readies (s : State) (h a : Nat) (c : Call) : (returnCall h a c s).readies = s.readies := evalSurge_readies ..

theorem returnCall_now (s : State) (h a : Nat) (c : Call) : (returnCall h a c s).now = s.now := evalSurge_now ..

theorem returnCall_notices_length (s : State) (h a : Nat) (c : Call) :
    (returnCall h a c s).notices.length ≤ s.notices.length + 1 :=
  (evalSurge_spec c.queue (rejoined s h a c)).2.2.2.2.2.2.2.2.1

theorem withoutWraps_returnCall (s : State) (h a : Nat) (c : Call) :
    withoutWraps (returnCall h a c s).due = withoutWraps s.due := by
  have hspec := evalSurge_spec c.queue (rejoined s h a c)
  have ho : (returnCall h a c s).due.offers = s.due.offers := hspec.2.2.2.2.2.1
  have hd : (returnCall h a c s).due.coolDowns = s.due.coolDowns := hspec.2.2.2.2.2.2.1
  have hs : (returnCall h a c s).due.surge = s.due.surge := hspec.2.2.2.2.2.2.2.1
  rw [withoutWraps, withoutWraps, ho, hd, hs]

theorem settings_returnCall (s : State) (h a : Nat) (c : Call) :
    (queueOf (returnCall h a c s) c.queue).settings = (queueOf s c.queue).settings := by
  obtain ⟨b, e⟩ := queueOf_returnCall s h a c
  rw [e]

theorem counters_returnCall (s : State) (h a : Nat) (c : Call) :
    (queueOf (returnCall h a c s) c.queue).counters = (queueOf s c.queue).counters := by
  obtain ⟨b, e⟩ := queueOf_returnCall s h a c
  rw [e]

/-! ### The agent side -/

/-- `u` is `r` after steps that move the counters of queue `q` and agent `a` alone, with notices that are no SURGE CHANGED. -/
structure AgentMoved (r u : State) (a q : Nat) (f : Counters → Counters) : Prop where
  calls : u.calls = r.calls
  due : u.due = r.due
  outside : outsideMatching u = outsideMatching r
  queue : ∀ j, queueOf u j = if j = q then { queueOf r q with counters := f (queueOf r q).counters } else queueOf r j
  agents : ∀ b, b ≠ a → agentOf u b = agentOf r b
  agent : ∀ v, agentOf u a = some v → wrapOf v = none
  notices : r.notices.length < 252 → noticesOf 0x85 u = noticesOf 0x85 r

theorem AgentMoved.callOf {r u : State} {a q : Nat} {f : Counters → Counters} (m : AgentMoved r u a q f) (h : Nat) :
    callOf u h = callOf r h := by
  have hg : u.generations = r.generations := by simpa [outsideMatching] using congrArg State.generations m.outside
  rw [Machine.callOf, Machine.callOf, generationOf, generationOf, hg, m.calls]

/-- What the ends of offers without an answer have in common: `s` before, `u` before matching. -/
structure OfferEnded (s u : State) (h a : Nat) (c : Call) (f : Counters → Counters) : Prop where
  call : callOf u h = some { c with status := .waiting, exclusion := c.exclusion.drop (c.exclusion.length - 3) ++ [a] }
  rejoins : rejoins s u h c
  surge : SurgeEvaluated s u c.queue
  traffic : withoutTraffic (queueOf u c.queue) = withoutTraffic (queueOf s c.queue)
  counters : (queueOf u c.queue).counters = f (queueOf s c.queue).counters
  calls : ∀ k, slotOf k ≠ slotOf h → callOf u k = callOf s k
  agents : ∀ b, b ≠ a → (agentOf u b).map withoutDeadline = (agentOf s b).map withoutDeadline
  queues : ∀ q, q ≠ c.queue → queueOf u q = queueOf s q

theorem beforeSurge_rejoined (s : State) (h a : Nat) (c : Call) : BeforeSurge s (rejoined s h a c) c.queue where
  settings := by rw [rejoined, queueOf_joinList, if_pos (by rfl)]; rfl
  surge := by rw [rejoined, queueOf_joinList, if_pos (by rfl)]; rfl
  now := rfl
  wraps := fun _ _ _ => Iff.rfl
  due := rfl
  canonical := fun hc => ⟨hc.2.2.2.1, fun _ => rfl⟩
  notices := fun hn => ⟨show s.notices.length < 256 by omega, rfl⟩

/-- After the call side, an agent that moves keeps what the evaluation wrote. -/
theorem AgentMoved.afterSurge {s u : State} {h a : Nat} {c : Call} {f : Counters → Counters}
    (m : AgentMoved (returnCall h a c s) u a c.queue f) {v : Agent} (hv : agentOf s a = some v) (hw : wrapOf v = none) :
    AfterSurge (s.notices.length < 250) (evalSurge c.queue (rejoined s h a c)) u c.queue where
  waiting := by rw [m.queue, if_pos rfl]; rfl
  surge := by rw [m.queue, if_pos rfl]; rfl
  arrival := fun k => by rw [m.callOf]; rfl
  wraps := fun b w hwb hb => by
    have hne : b ≠ a := by
      rintro rfl
      rw [← returnCall_eq, agentOf_returnCall_of_not_wrap hv hw] at hb
      exact hwb (Option.some.inj hb ▸ hw)
    exact (m.agents b hne).trans hb
  due := congrArg DueWork.wraps m.due
  notices := fun hn => m.notices (by have := returnCall_notices_length s h a c; omega)

theorem AgentMoved.offerEnded {s u : State} {h a : Nat} {c : Call} {f : Counters → Counters}
    (m : AgentMoved (returnCall h a c s) u a c.queue f) (hc : Machine.callOf s h = some c) {v : Agent} (hv : agentOf s a = some v)
    (hw : wrapOf v = none) : OfferEnded s u h a c f where
  call := by rw [m.callOf, callOf_returnCall hc, if_pos rfl]; rfl
  rejoins := by
    obtain ⟨before, after, hl, hi, hb, ha⟩ :=
      arrivalInsert_split (setCallRec s h (returned a c)) h c.arrivalSeq (queueOf s c.queue).waiting
    simp only [seqOf_setCallRec hc (show (returned a c).arrivalSeq = c.arrivalSeq from rfl)] at hb ha
    obtain ⟨b, e⟩ := queueOf_returnCall s h a c
    exact ⟨before, after, hl, by rw [m.queue, if_pos rfl, e]; exact hi, hb, ha⟩
  surge := surgeEvaluated_of (beforeSurge_rejoined s h a c) (m.afterSurge hv hw)
  traffic := by
    obtain ⟨b, e⟩ := queueOf_returnCall s h a c
    rw [m.queue, if_pos rfl, e]; rfl
  counters := by rw [m.queue, if_pos rfl]; exact congrArg f (counters_returnCall s h a c)
  calls := fun k hk => by
    rw [m.callOf, callOf_returnCall hc, if_neg (fun e => hk (by rw [e]))]
  agents := fun b hb => by rw [m.agents b hb, agentOf_returnCall]
  queues := fun q hq => by rw [m.queue, if_neg hq, queueOf_returnCall_of_ne _ _ _ _ hq]

/-! Steps of the agent side. -/

section
variable {r u : State} {a q : Nat} {f : Counters → Counters}

theorem agentMoved_self {v : Agent} (hv : agentOf r a = some v) (hw : wrapOf v = none) (q : Nat) : AgentMoved r r a q id where
  calls := rfl
  due := rfl
  outside := rfl
  queue := fun j => by
    split
    · next h => rw [h]; rfl
    · rfl
  agents := fun _ _ => rfl
  agent := fun w hw' => by rw [hv] at hw'; exact Option.some.inj hw' ▸ hw
  notices := fun _ => rfl

theorem AgentMoved.count (m : AgentMoved r u a q id) (f : Counters → Counters) : AgentMoved r (count u q f) a q f where
  calls := m.calls
  due := m.due
  outside := m.outside
  queue := fun j => by
    rw [queueOf_count, m.queue q, if_pos rfl, m.queue j]
    split <;> rfl
  agents := m.agents
  agent := m.agent
  notices := m.notices

theorem AgentMoved.setAgentRec (m : AgentMoved r u a q f) {v : Agent} (hw : wrapOf v = none) :
    AgentMoved r (setAgentRec u a v) a q f where
  calls := m.calls
  due := m.due
  outside := m.outside
  queue := m.queue
  agents := fun b hb => by rw [agentOf_setAgentRec, if_neg hb, m.agents b hb]
  agent := fun w h => by rw [agentOf_setAgentRec, if_pos rfl] at h; exact Option.some.inj h ▸ hw
  notices := m.notices

theorem AgentMoved.enterReady (m : AgentMoved r u a q f) (v : Agent) (d : Option Time) : AgentMoved r (enterReady u a v d) a q f where
  calls := m.calls
  due := m.due
  outside := m.outside
  queue := m.queue
  agents := fun b hb => by rw [agentOf_enterReady, if_neg hb, m.agents b hb]
  agent := fun w h => by rw [agentOf_enterReady, if_pos rfl] at h; exact Option.some.inj h ▸ rfl
  notices := m.notices

theorem AgentMoved.dropAgent (m : AgentMoved r u a q f) : AgentMoved r (dropAgent u a) a q f where
  calls := m.calls
  due := m.due
  outside := m.outside
  queue := m.queue
  agents := fun b hb => by rw [agentOf_dropAgent, if_neg hb, m.agents b hb]
  agent := fun w h => by rw [agentOf_dropAgent, if_pos rfl] at h; cases h
  notices := m.notices

theorem AgentMoved.notify (m : AgentMoved r u a q f) (hlen : u.notices.length ≤ r.notices.length + 3) {kind : Nat} (hk : kind ≠ 0x85)
    (body : List LinkField) : AgentMoved r (notify kind body u) a q f where
  calls := (notify_calls ..).trans m.calls
  due := (notify_due ..).trans m.due
  outside := (outsideMatching_notify ..).trans m.outside
  queue := fun j => (queueOf_notify ..).trans (m.queue j)
  agents := fun b hb => (agentOf_notify ..).trans (m.agents b hb)
  agent := fun v h => m.agent v ((agentOf_notify ..).symm.trans h)
  notices := fun hn => (noticesOf_notify_of_ne (by omega) hk body).trans (m.notices hn)

end

/-! ### REFUSE OFFER (R67) -/

theorem coolDownEndFor_eq (s : State) (q : Nat) : coolDownEndFor s q =
    if (queueOf s q).settings.coolDown = 0 then none else some (s.now + BitVec.ofNat 32 (queueOf s q).settings.coolDown) := rfl

/-- The state of REFUSE OFFER before the agent moves. -/
def refusedCall (s : State) (h a : Nat) (c : Call) : State :=
  count (returnCall h a c s) c.queue fun k => { k with refusedOffers := sat16 (k.refusedOffers + 1) }

theorem coolDownEndFor_refusedCall (s : State) (h a : Nat) (c : Call) :
    coolDownEndFor (refusedCall s h a c) c.queue = coolDownEndFor s c.queue := by
  rw [coolDownEndFor_eq, coolDownEndFor_eq, refusedCall, queueOf_count, if_pos rfl]
  rw [settings_returnCall, count_now, returnCall_now]

theorem refuseCall_eq {s : State} {h a : Nat} {c : Call} {v : Agent} (hv : agentOf s a = some v) (hw : wrapOf v = none)
    (reason : Option Nat) : refuseCall h a reason c s = offerAgent a (matchCall h (match reason with
      | some r => setAgentRec (refusedCall s h a c) a { v with status := .notReady r }
      | none => enterReady (refusedCall s h a c) a v (coolDownEndFor s c.queue))) := by
  have hv' : agentOf (refusedCall s h a c) a = some v := agentOf_returnCall_of_not_wrap hv hw h a c
  rw [← coolDownEndFor_refusedCall s h a c]
  show offerAgent a (matchCall h (refusingAgent a c.queue reason (refusedCall s h a c))) = _
  cases reason <;> simp only [refusingAgent, hv']

/-- Settles O38: the common end of an offer, with the refusal counted and the agent set aside or back. -/
theorem refuseOfferReturnsTheCall : Obligations.RefuseOfferReturnsTheCall := by
  intro h a present reason c v d n s ht hs hc ha hst hv hvs hp
  have hw : wrapOf v = none := by simp [wrapOf, hvs]
  have hv' : agentOf (returnCall h.toNat a.toNat c s) a.toNat = some v := agentOf_returnCall_of_not_wrap hv hw ..
  have moved : AgentMoved (returnCall h.toNat a.toNat c s) (refusedCall s h.toNat a.toNat c) a.toNat c.queue
      fun k => { k with refusedOffers := sat16 (k.refusedOffers + 1) } := (agentMoved_self hv' hw _).count _
  have handled (hp1 : present.toNat ≤ 1) (hr : present.toNat = 1 → reason.toNat ≤ 199) :
      handleRefuseOffer h a present reason s =
        (let t := refuseCall h.toNat a.toNat (if present.toNat = 1 then some reason.toNat else none) c s
         (t, .accept false [f2 h.toNat, f2 a.toNat, f1 (((callOf t h.toNat).map fun d => callStateCode d.status).getD 0),
            f1 (agentStateCode (agentOf t a.toNat))])) := by
    rw [handleRefuseOffer, withCall_of_some hc, if_neg (by omega), if_neg (by omega), if_neg (by omega), withOffer, hst]
    simp only [if_true]
  -- What both forms of the order have in common, from what they make of the agent.
  have finish {u : State} (m : AgentMoved (returnCall h.toNat a.toNat c s) u a.toNat c.queue
      fun k => { k with refusedOffers := sat16 (k.refusedOffers + 1) }) :
      withoutWraps u.due = withoutWraps s.due ∧ outsideMatching u = outsideMatching s ∧
        OfferEnded s u h.toNat a.toNat c fun k => { k with refusedOffers := sat16 (k.refusedOffers + 1) } :=
    ⟨by rw [m.due, withoutWraps_returnCall], by rw [m.outside, outsideMatching_returnCall], m.offerEnded hc hv hw⟩
  rcases hp with rfl | ⟨rfl, hr⟩
  · obtain ⟨hdue, hout, e⟩ := finish (moved.enterReady v (coolDownEndFor s c.queue))
    refine ⟨_, _, rfl, exec_service ht hs rfl rfl ((handled (by decide) fun h => absurd h (by decide)).trans ?_), e.call, e.rejoins, e.surge, hdue,
      e.traffic, e.counters, fun h => absurd h (by decide), fun _ => ⟨?_, ?_, ?_⟩, e.calls, e.agents, e.queues, hout⟩
    · rw [if_neg (by decide), refuseCall_eq hv hw]
    · rw [agentOf_enterReady, if_pos rfl, refusedCall, count_readies, returnCall_readies, coolDownEndFor_eq]
    · rw [enterReady_readyList, refusedCall, count_readyList, returnCall_readyList]
    · rw [enterReady_readies, refusedCall, count_readies, returnCall_readies]
  · obtain ⟨hdue, hout, e⟩ := finish (moved.setAgentRec (v := { v with status := .notReady reason.toNat }) rfl)
    refine ⟨_, _, rfl, exec_service ht hs rfl rfl ((handled (by decide) (fun _ => hr)).trans ?_), e.call, e.rejoins, e.surge, hdue,
      e.traffic, e.counters, fun _ => ⟨?_, ?_⟩, fun h => absurd h (by decide), e.calls, e.agents, e.queues, hout⟩
    · rw [if_pos (by decide), refuseCall_eq hv hw]
    · rw [agentOf_setAgentRec, if_pos rfl]
    · rw [setAgentRec_readyList, refusedCall, count_readyList, returnCall_readyList]

/-! ### LOGOUT and SET NOT READY of an OFFERED agent (R35, R37, R71) -/

/-- Matching a call leaves an agent that is not READY as it is. -/
theorem agentOf_matchCall_of_notReady {s : State} {a r : Nat} {v : Agent} (hv : agentOf s a = some v) (hs : v.status = .notReady r)
    (h : Nat) : agentOf (matchCall h s) a = some v := by
  rcases matchCall_cases h s with e | ⟨c, b, hc, -, -, hb, e⟩
  · rw [e, hv]
  · obtain ⟨w, n, hw, hws⟩ := ready_of_chooseAgent hb
    have hne : a ≠ b := by
      rintro rfl
      rw [hv] at hw
      cases hw
      rw [hs] at hws
      cases hws
    rw [e, makeOffer_eq hc hw, offerNotice, agentOf_notify]
    refine agentOf_evalSurge_of_not_wrap ?_ (by simp [wrapOf, hs]) _
    split <;> simp [hne, hv]

/-- What withdrawing an offer leaves before matching, with the agent side `after`. -/
theorem withdrawAgent_eq {s : State} {h a : Nat} {v : Agent} {c : Call} (hc : callOf s h = some c) (reason : Option Nat) :
    withdrawAgent a h v reason s = matchCall h (withdrawnNotice h a c 2 (match reason with
      | none => dropAgent (returnCall h a c s) a
      | some r => setAgentRec (returnCall h a c s) a { v with status := .notReady r })) := by
  cases reason <;> simp only [withdrawAgent, hc]

/-- The notices of a withdrawal end with OFFER WITHDRAWN. -/
theorem withdrawnNotice_getLast {s u : State} {h a : Nat} {c : Call} (hn : u.notices.length < 256) (hnow : u.now = s.now) (k : Nat) :
    (withdrawnNotice h a c k u).notices.getLast? = some { frameClass := 4, kind := 0x82, body :=
      [f4 s.now.toNat, f2 h, f4 c.tag.toNat, f2 a, f1 c.queue, f1 k,
        f1 (agentStateCode (agentOf (withdrawnNotice h a c k u) a))] } := by
  rw [withdrawnNotice, notify_getLast hn, agentOf_notify, hnow]

/-- Settles O43: the common end of an offer, with the agent gone or NOT_READY. -/
theorem leavingAgentsWithdrawTheirOffer : Obligations.LeavingAgentsWithdrawTheirOffer := by
  intro a reason v h n b d c s ht hs ha hr hv hvs hc hst
  have hw : wrapOf v = none := by simp [wrapOf, hvs]
  have hv' : agentOf (returnCall h a.toNat c s) a.toNat = some v := agentOf_returnCall_of_not_wrap hv hw ..
  have moved : AgentMoved (returnCall h a.toNat c s) (returnCall h a.toNat c s) a.toNat c.queue id := agentMoved_self hv' hw _
  have hcode : agentStateCode (some v) = 3 := by simp [agentStateCode, hvs]
  refine ⟨withdrawnNotice h a.toNat c 2 (dropAgent (returnCall h a.toNat c s) a.toNat), withdrawnNotice h a.toNat c 2
    (setAgentRec (returnCall h a.toNat c s) a.toNat { v with status := .notReady reason.toNat }), ?_, ?_, ?_, ?_, ?_⟩
  · refine exec_service ht hs rfl rfl ?_
    rw [handleLogout, if_neg (by omega), hv]
    simp only [hvs, logoutAgent, withdrawAgent_eq hc, hcode]
  · refine exec_service ht hs rfl rfl ?_
    rw [handleSetNotReady, if_neg (by omega), if_neg (by omega), hv]
    simp only [hvs, notReadyAgent, withdrawAgent_eq hc, hcode]
    rw [agentOf_matchCall_of_notReady (v := { v with status := .notReady reason.toNat }) ?_ rfl h]
    · rfl
    · rw [withdrawnNotice, agentOf_notify, agentOf_setAgentRec, if_pos rfl]
  · rw [withdrawnNotice, agentOf_notify, agentOf_dropAgent, if_pos rfl]
  · rw [withdrawnNotice, agentOf_notify, agentOf_setAgentRec, if_pos rfl]
  · -- Both states are the returned call's, but for the agent and the notice.
    have finish (t : State) (m : AgentMoved (returnCall h a.toNat c s) t a.toNat c.queue id)
        (hnotices : t.notices = (returnCall h a.toNat c s).notices) (hready : t.readyList = s.readyList) (hnow : t.now = s.now) :
        let x := withdrawnNotice h a.toNat c 2 t
        callOf x h = some { c with status := .waiting, exclusion := c.exclusion.drop (c.exclusion.length - 3) ++ [a.toNat] } ∧
        rejoins s x h c ∧ SurgeEvaluated s x c.queue ∧ withoutWraps x.due = withoutWraps s.due ∧
        withoutTraffic (queueOf x c.queue) = withoutTraffic (queueOf s c.queue) ∧
        (queueOf x c.queue).counters = (queueOf s c.queue).counters ∧
        (s.notices.length < 250 → x.notices.getLast? = some
        { frameClass := 4, kind := 0x82, body :=
          [f4 s.now.toNat, f2 h, f4 c.tag.toNat, f2 a.toNat, f1 c.queue, f1 2, f1 (agentStateCode (agentOf x a.toNat))] }) ∧
        (∀ k, slotOf k ≠ slotOf h → callOf x k = callOf s k) ∧
        (∀ e, e ≠ a.toNat → (agentOf x e).map withoutDeadline = (agentOf s e).map withoutDeadline) ∧
        (∀ q, q ≠ c.queue → queueOf x q = queueOf s q) ∧ x.readyList = s.readyList ∧ outsideMatching x = outsideMatching s := by
      intro x
      have mx : AgentMoved (returnCall h a.toNat c s) x a.toNat c.queue id := m.notify (by rw [hnotices]; omega) (by decide) _
      have e : OfferEnded s x h a.toNat c id := mx.offerEnded hc hv hw
      refine ⟨e.call, e.rejoins, e.surge, by rw [mx.due, withoutWraps_returnCall], e.traffic, e.counters, fun hn => ?_, e.calls,
        e.agents, e.queues, (notify_readyList ..).trans hready, by rw [mx.outside, outsideMatching_returnCall]⟩
      have := returnCall_notices_length s h a.toNat c
      exact withdrawnNotice_getLast (by rw [hnotices]; omega) hnow 2
    rintro x (rfl | rfl)
    · exact finish _ moved.dropAgent rfl (returnCall_readyList ..) (returnCall_now ..)
    · exact finish _ (moved.setAgentRec rfl) rfl (returnCall_readyList ..) (returnCall_now ..)

/-! ### The expiry of an offer (R68) -/

/-- The state of an expiry before the agent moves. -/
def missedCall (s : State) (h a : Nat) (c : Call) : State :=
  count (returnCall h a c s) c.queue fun k => { k with missedOffers := sat16 (k.missedOffers + 1) }

theorem settings_missedCall (s : State) (h a : Nat) (c : Call) :
    (queueOf (missedCall s h a c) c.queue).settings = (queueOf s c.queue).settings := by
  rw [missedCall, queueOf_count, if_pos rfl, settings_returnCall]

theorem now_missedCall (s : State) (h a : Nat) (c : Call) : (missedCall s h a c).now = s.now := returnCall_now ..

theorem coolDownEndFor_missedCall (s : State) (h a : Nat) (c : Call) :
    coolDownEndFor (missedCall s h a c) c.queue = coolDownEndFor s c.queue := by
  rw [coolDownEndFor_eq, coolDownEndFor_eq, settings_missedCall, now_missedCall]

/-- The agent is parked for its misses (R47). -/
def parks (s : State) (c : Call) (v : Agent) : Prop :=
  (queueOf s c.queue).settings.missLimit ≤ min 15 (v.misses + 1) ∨ (queueOf s c.queue).settings.missAction = .park

theorem missOffer_of_parks {s : State} {h a : Nat} {c : Call} {v : Agent} (hp : parks s c v) :
    missOffer h a c v (missedCall s h a c) =
      notify 0x83 [f2 a, f2 h, f4 c.tag.toNat, f1 c.queue, f1 (min 15 (v.misses + 1))]
        (setAgentRec (missedCall s h a c) a { v with status := .notReady 240, misses := min 15 (v.misses + 1) }) := by
  rw [missOffer, settings_missedCall]
  exact if_pos hp

theorem missOffer_of_not_parks {s : State} {h a : Nat} {c : Call} {v : Agent} (hp : ¬ parks s c v) :
    missOffer h a c v (missedCall s h a c) =
      enterReady (missedCall s h a c) a { v with misses := min 15 (v.misses + 1) } (coolDownEndFor s c.queue) := by
  rw [missOffer, settings_missedCall, coolDownEndFor_missedCall]
  exact if_neg hp

/-- The steps of an expiry before matching. -/
theorem expireOffer_eq {s : State} {h a : Nat} {c : Call} {v : Agent} (hv : agentOf s a = some v) (hw : wrapOf v = none) :
    expireOffer h a c s =
      offerAgent a (matchCall h (expiredNotice h a c (missOffer h a c v (missedCall s h a c)))) := by
  have hv' : agentOf (missedCall s h a c) a = some v := agentOf_returnCall_of_not_wrap hv hw h a c
  show offerAgent a (matchCall h (expiredNotice h a c (match agentOf (missedCall s h a c) a with
    | some v => missOffer h a c v (missedCall s h a c)
    | none => missedCall s h a c))) = _
  rw [hv']

theorem execOfferExpiry_of_due {h : BitVec 16} {s : State} {c : Call} {a : Nat} {d : Time} (hrun : running s = true)
    (hsync : s.syncPresent = true) (hdue : s.due.offers.contains h.toNat = true) (hc : callOf s h.toNat = some c)
    (hst : c.status = .offered a (some d)) (hd : reached s.now d = true) :
    exec (.offerExpiry h) s =
      .next (settle (expireOffer h.toNat a c { s with due := { s.due with offers := s.due.offers.erase h.toNat } })) := by
  show execOfferExpiry h s = _
  simp only [execOfferExpiry, hc, hst, inSync, hrun, hsync, hdue, offerDue, hd, Bool.and_self, if_true]

/-- The notices of an expiry end with OFFER EXPIRED. -/
theorem expiredNotice_getLast {t : State} {h a : Nat} {c : Call} {v : Agent} (hn : t.notices.length < 256)
    (hv : agentOf t a = some v) : (expiredNotice h a c t).notices.getLast? = some { frameClass := 4, kind := 0x81, body :=
      [f4 t.now.toNat, f2 h, f4 c.tag.toNat, f2 a, f1 c.queue,
        f1 (if available v then 0 else if (coolDownOf v).isSome then 1 else 2), f1 v.misses, f1 c.offerCount] } := by
  rw [expiredNotice, notify_getLast hn, missOutcome, hv]
  rfl

theorem mem_notify_of_mem {t : State} {f : OutFrame} (hn : t.notices.length < 256) (hf : f ∈ t.notices) (k : Nat) (body : List LinkField) :
    f ∈ (notify k body t).notices := by
  rw [notify_of_lt hn]
  exact List.mem_append_left _ hf

/-- The state once the expiry of an offer has been taken out of the boundary's due work. -/
def popped (s : State) (h : Nat) : State := { s with due := { s.due with offers := s.due.offers.erase h } }

theorem surgeEvaluated_of_popped {s u : State} {h q : Nat} (e : SurgeEvaluated (popped s h) u q) : SurgeEvaluated s u q := by
  unfold SurgeEvaluated at e ⊢
  exact e

theorem missedCall_notices_length (s : State) (h a : Nat) (c : Call) :
    (missedCall s h a c).notices.length ≤ s.notices.length + 1 := by
  rw [missedCall, count_notices]
  exact returnCall_notices_length s h a c

/-- The expiry of an offer up to its notice. -/
theorem offerEnded_expired {s t : State} {h a : Nat} {c : Call} {v : Agent} {f : Counters → Counters}
    (hc : callOf s h = some c) (hv : agentOf s a = some v) (hw : wrapOf v = none)
    (m : AgentMoved (returnCall h a c (popped s h)) t a c.queue f)
    (hl : t.notices.length ≤ (returnCall h a c (popped s h)).notices.length + 3) :
    OfferEnded s (expiredNotice h a c t) h a c f ∧
      withoutWraps (expiredNotice h a c t).due = withoutWraps { s.due with offers := s.due.offers.erase h } ∧
      outsideMatching (expiredNotice h a c t) = outsideMatching s := by
  have mx : AgentMoved (returnCall h a c (popped s h)) (expiredNotice h a c t) a c.queue f := m.notify (kind := 0x81) hl (by decide) _
  obtain ⟨call, rejoins, surge, traffic, counters, calls, agents, queues⟩ := mx.offerEnded (s := popped s h) hc hv hw
  refine ⟨⟨call, rejoins, surgeEvaluated_of_popped surge, traffic, counters, calls, agents, queues⟩, ?_, ?_⟩
  · rw [mx.due, withoutWraps_returnCall]; rfl
  · rw [mx.outside, outsideMatching_returnCall]; rfl

theorem agentMoved_missedCall {s : State} {h a : Nat} {c : Call} {v : Agent} (hv : agentOf s a = some v) (hw : wrapOf v = none) :
    AgentMoved (returnCall h a c s) (missedCall s h a c) a c.queue fun k => { k with missedOffers := sat16 (k.missedOffers + 1) } :=
  (agentMoved_self (agentOf_returnCall_of_not_wrap hv hw h a c) hw _).count _

/-- Settles O11: the common end of an offer, with the miss counted and the agent parked or back. -/
theorem offerExpiryCountsTheMissAndReturnsTheCall : Obligations.OfferExpiryCountsTheMissAndReturnsTheCall := by
  intro h s c v a n d hrun hsync hdue hc hst hd hv hvs settings misses
  have hw : wrapOf v = none := by simp [wrapOf, hvs]
  have moved := agentMoved_missedCall (s := popped s h.toNat) (h := h.toNat) (c := c) hv hw
  have hlen := missedCall_notices_length (popped s h.toNat) h.toNat a c
  have hrun' : exec (.offerExpiry h) s = .next (settle (offerAgent a (matchCall h.toNat (expiredNotice h.toNat a c
      (missOffer h.toNat a c v (missedCall (popped s h.toNat) h.toNat a c)))))) := by
    rw [execOfferExpiry_of_due hrun hsync hdue hc hst hd, ← popped, expireOffer_eq (s := popped s h.toNat) hv hw]
  by_cases hp : parks (popped s h.toNat) c v
  · obtain ⟨r, hr⟩ : ∃ r, r = setAgentRec (missedCall (popped s h.toNat) h.toNat a c) a
      { v with status := .notReady 240, misses := misses } := ⟨_, rfl⟩
    obtain ⟨t, ht⟩ : ∃ t, t = notify 0x83 [f2 a, f2 h.toNat, f4 c.tag.toNat, f1 c.queue, f1 misses] r := ⟨_, rfl⟩
    have hrl : r.notices.length ≤ s.notices.length + 1 := by rw [hr, setAgentRec_notices]; exact hlen
    have htl : t.notices.length ≤ r.notices.length + 1 := by rw [ht]; exact notify_length_le ..
    have hrv : agentOf t a = some { v with status := .notReady 240, misses := misses } := by
      rw [ht, agentOf_notify, hr, agentOf_setAgentRec, if_pos rfl]
    have hrnow : r.now = s.now := by rw [hr, setAgentRec_now, now_missedCall]; rfl
    have hrc : r.notices.length ≤ (returnCall h.toNat a c (popped s h.toNat)).notices.length := by
      rw [hr, setAgentRec_notices, missedCall, count_notices]
    have mt : AgentMoved (returnCall h.toNat a c (popped s h.toNat)) t a c.queue
        fun k => { k with missedOffers := sat16 (k.missedOffers + 1) } := by
      rw [ht]
      refine AgentMoved.notify ?_ (by omega) (by decide) _
      rw [hr]
      exact moved.setAgentRec rfl
    obtain ⟨e, hdw, hout⟩ := offerEnded_expired hc hv hw mt (by omega)
    rw [missOffer_of_parks hp, ← hr, ← ht] at hrun'
    refine ⟨_, hrun', e.call, e.rejoins, e.surge, e.traffic, e.counters, fun _ => ⟨?_, ?_, ?_, fun hn => ?_⟩, fun h1 h2 => ?_,
      fun hn => ?_, e.calls, e.agents, e.queues, hdw, hout⟩
    · rw [expiredNotice, agentOf_notify, hrv]
    · rw [expiredNotice, notify_readyList, ht, notify_readyList, hr, setAgentRec_readyList]
      exact returnCall_readyList ..
    · rw [expiredNotice, notify_readies, ht, notify_readies, hr, setAgentRec_readies]
      exact returnCall_readies ..
    · refine mem_notify_of_mem (by omega) ?_ _ _
      rw [ht, notify_of_lt (by omega), ← hrnow]
      exact List.mem_append_right _ (List.mem_singleton.2 rfl)
    · exact absurd hp (by rintro (hp | hp); exacts [absurd h1 (Nat.not_lt.2 hp), absurd (h2.symm.trans hp) (by decide)])
    · rw [expiredNotice_getLast (by omega) hrv, if_pos (show settings.missLimit ≤ misses ∨ settings.missAction = .park from hp),
        ht, notify_now, hrnow]
      rfl
  · obtain ⟨t, ht⟩ : ∃ t, t = enterReady (missedCall (popped s h.toNat) h.toNat a c) a { v with misses := misses }
      (coolDownEndFor s c.queue) := ⟨_, rfl⟩
    have htl : t.notices.length ≤ s.notices.length + 1 := by rw [ht, enterReady_notices]; exact hlen
    have hrv : agentOf t a = some { v with status := .ready s.readies (coolDownEndFor s c.queue), misses := misses } := by
      rw [ht, agentOf_enterReady, if_pos rfl, missedCall, count_readies, returnCall_readies]
      rfl
    have hrc : t.notices.length ≤ (returnCall h.toNat a c (popped s h.toNat)).notices.length := by
      rw [ht, enterReady_notices, missedCall, count_notices]
    have mt : AgentMoved (returnCall h.toNat a c (popped s h.toNat)) t a c.queue
        fun k => { k with missedOffers := sat16 (k.missedOffers + 1) } := by
      rw [ht]
      exact moved.enterReady _ _
    obtain ⟨e, hdw, hout⟩ := offerEnded_expired hc hv hw mt (by omega)
    rw [missOffer_of_not_parks hp, ← show coolDownEndFor s c.queue = coolDownEndFor (popped s h.toNat) c.queue from rfl, ← ht] at hrun'
    refine ⟨_, hrun', e.call, e.rejoins, e.surge, e.traffic, e.counters, fun h1 => absurd h1 hp, fun _ _ => ⟨?_, ?_, ?_⟩,
      fun hn => ?_, e.calls, e.agents, e.queues, hdw, hout⟩
    · rw [expiredNotice, agentOf_notify, hrv, coolDownEndFor_eq]
    · rw [expiredNotice, notify_readyList, ht, enterReady_readyList, missedCall, count_readyList, returnCall_readyList]
      rfl
    · rw [expiredNotice, notify_readies, ht, enterReady_readies, missedCall, count_readies, returnCall_readies]
      rfl
    · rw [expiredNotice_getLast (by omega) hrv, if_neg (show ¬ (settings.missLimit ≤ misses ∨ settings.missAction = .park) from hp),
        ht, enterReady_now, now_missedCall, coolDownEndFor_eq]
      by_cases hcool : (queueOf s c.queue).settings.coolDown = 0
      · simp [settings, hcool, available] <;> rfl
      · simp [settings, hcool, available, coolDownOf] <;> rfl

end Sys2Proof.Machine
end

-- ==== Sys2Proof/Proofs/Admission ====
section
/-! ENQUEUE: the checks, the admission and the attachment (R18 to R22). -/

namespace Sys2Proof.Machine

/-! ### What attaching a call leaves alone -/

/-- From `s` to `t` only the record of the call that `h` names, the voices and the use counts have moved. -/
def OneCallAudio (h : Nat) (s t : State) : Prop :=
  { t with calls := s.calls, voices := s.voices, clips := s.clips } = s ∧ ∀ k, slotOf k ≠ slotOf h → callOf t k = callOf s k

theorem OneCallAudio.refl (h : Nat) (s : State) : OneCallAudio h s s := ⟨rfl, fun _ _ => rfl⟩

theorem OneCallAudio.eq_with {h : Nat} {s t : State} (m : OneCallAudio h s t) :
    t = { s with calls := t.calls, voices := t.voices, clips := t.clips } := by
  obtain ⟨e, -⟩ := m
  rw [← e]

theorem OneCallAudio.trans {h : Nat} {s t u : State} (m : OneCallAudio h s t) (m' : OneCallAudio h t u) : OneCallAudio h s u := by
  refine ⟨?_, fun k hk => (m'.2 k hk).trans (m.2 k hk)⟩
  rw [m'.eq_with, m.eq_with]

theorem oneCallAudio_setCallRec (h : Nat) (s : State) (c : Call) : OneCallAudio h s (setCallRec s h c) :=
  ⟨rfl, fun _ hk => callOf_setCallRec_of_ne s c hk⟩

theorem oneCallAudio_setVoiceRec (h : Nat) (s : State) (v : Nat) (r : Voice) : OneCallAudio h s (setVoiceRec s v r) :=
  ⟨rfl, fun _ _ => rfl⟩

theorem oneCallAudio_changeUse (h : Nat) (s : State) (k : Nat) (f : Nat → Nat) : OneCallAudio h s (changeUse s k f) := by
  unfold changeUse
  split
  · exact ⟨rfl, fun _ _ => rfl⟩
  · exact .refl h s

theorem oneCallAudio_startVoice (h : Nat) (s : State) (v p : Nat) (mode : VoiceMode) (segment : Segment) (i k : Nat) :
    OneCallAudio h s (startVoice s v p mode segment i k) :=
  (oneCallAudio_setVoiceRec ..).trans (oneCallAudio_changeUse ..)

theorem oneCallAudio_attach (h : Nat) (s : State) : OneCallAudio h s (attach h s) := by
  unfold attach
  split
  · exact .refl h s
  · split
    · exact .refl h s
    · dsimp only
      split
      · exact (oneCallAudio_setCallRec ..).trans (oneCallAudio_startVoice ..)
      · split
        · split
          · exact (oneCallAudio_setCallRec ..).trans (oneCallAudio_setVoiceRec ..)
          · exact .refl h s
        · exact .refl h s
      · exact (oneCallAudio_setCallRec ..).trans (oneCallAudio_startVoice ..)
      · exact oneCallAudio_setCallRec ..

/-- A call without a program is attached to nothing. -/
theorem attach_of_no_program {h : Nat} {s : State} {c : Call} (hc : callOf s h = some c) (hp : c.program = none) :
    attach h s = s := by
  simp only [attach, hc, hp, Option.bind_none]

/-! ### The lowest FREE slot (R3) -/

theorem lowestFreeSlot_eq_none (s : State) :
    lowestFreeSlot s = none ↔ (List.range 2048).all (fun k => (tableFind s.calls k).isSome) = true := by
  rw [lowestFreeSlot, List.find?_eq_none, List.all_eq_true]
  refine forall₂_congr fun k _ => ?_
  cases tableFind s.calls k <;> simp

theorem lowestFreeSlot_eq_some {s : State} {slot : Nat} (hs : slot < 2048) (hfree : tableFind s.calls slot = none)
    (hlow : ∀ k < slot, tableFind s.calls k ≠ none) : lowestFreeSlot s = some slot := by
  rw [lowestFreeSlot, List.find?_range_eq_some]
  refine ⟨by simp [hfree], List.mem_range.2 hs, fun k hk => ?_⟩
  simpa [Option.isSome_iff_ne_none] using hlow k hk

theorem slotOf_handleOf (s : State) {slot : Nat} (hs : slot < 2048) : slotOf (handleOf s slot) = slot := by
  rw [slotOf, handleOf, Nat.mul_comm, Nat.mul_add_mod]
  exact Nat.mod_eq_of_lt hs

theorem handleOf_div (s : State) {slot : Nat} (hs : slot < 2048) : handleOf s slot / Config.callSlots = generationOf s slot := by
  rw [handleOf, Nat.mul_comm, Nat.mul_add_div (by decide), Nat.div_eq_of_lt (show slot < Config.callSlots from hs), Nat.add_zero]

theorem callOf_handleOf (s : State) {slot : Nat} (hs : slot < 2048) : callOf s (handleOf s slot) = tableFind s.calls slot := by
  rw [callOf, slotOf_handleOf s hs, handleOf_div s hs, if_pos rfl]

/-! ### Admitting a call (R21) -/

/-- The counters of queue `j` once call `c` is admitted. -/
def admittedCounters (c : Call) (j : Nat) (k : Counters) : Counters :=
  { k with
    arrived := if j = c.queue then min (k.arrived + 1) 65535 else k.arrived
    overflowedOut := if c.originQueue = some j then min (k.overflowedOut + 1) 65535 else k.overflowedOut
    overflowedIn := if c.originQueue.isSome ∧ j = c.queue then min (k.overflowedIn + 1) 65535 else k.overflowedIn }

/-- The queues after an admission. -/
theorem queueOf_admitCall (slot : Nat) (c : Call) (s : State) (j : Nat) : queueOf (admitCall slot c s) j =
    { queueOf s j with
      waiting := (queueOf s j).waiting ++ if j = c.queue then [handleOf s slot] else []
      counters := admittedCounters c j (queueOf s j).counters } := by
  have hbase : queueOf { s with calls := tableInsert s.calls slot c, arrivals := s.arrivals + 1 } = queueOf s := rfl
  cases ho : c.originQueue with
  | none =>
    simp only [admitCall, ho, queueOf_count, queueOf_setQueueRec, hbase, admittedCounters, sat16]
    by_cases hj : j = c.queue <;> simp [hj]
  | some q =>
    simp only [admitCall, ho, queueOf_count, queueOf_setQueueRec, hbase, admittedCounters, sat16]
    by_cases hj : j = c.queue
    · subst hj
      by_cases hq : c.queue = q
      · simp [hq]
      · simp [hq, Ne.symm hq]
    · by_cases hq : j = q
      · simp [hq, hq ▸ hj]
      · simp [hj, hq, Ne.symm hq]

/-- An admission writes the slot, the arrival counter and the queues. -/
theorem admitCall_frame (slot : Nat) (c : Call) (s : State) : admitCall slot c s =
    { s with calls := tableInsert s.calls slot c, arrivals := s.arrivals + 1, queues := (admitCall slot c s).queues } := by
  cases ho : c.originQueue <;> simp only [admitCall, ho] <;> rfl

theorem callOf_admitCall_self {slot : Nat} (hs : slot < 2048) (c : Call) (s : State) :
    callOf (admitCall slot c s) (handleOf s slot) = some c := by
  have hh : handleOf s slot = handleOf (admitCall slot c s) slot := by rw [admitCall_frame]; rfl
  rw [hh, callOf_handleOf _ hs, admitCall_frame]
  exact tableFind_tableInsert_self ..

theorem callOf_admitCall_of_ne {slot k : Nat} (c : Call) (s : State) (hk : slotOf k ≠ slot) :
    callOf (admitCall slot c s) k = callOf s k := by
  rw [admitCall_frame]
  exact congrArg (fun o => if generationOf s (slotOf k) = k / Config.callSlots then o else none) (tableFind_tableInsert_of_ne _ _ hk)

/-- The calls after an admission into a FREE slot. -/
theorem callOf_admitCall {slot : Nat} (hs : slot < 2048) (s : State) (c : Call) (g : Nat) :
    callOf (admitCall slot c s) g = if g = handleOf s slot then some c else callOf s g := by
  split
  · next hg => rw [hg, callOf_admitCall_self hs]
  · next hg =>
    by_cases hk : slotOf g = slot
    · have hgen : generationOf s (slotOf g) ≠ g / Config.callSlots := by
        intro e
        exact hg (handle_ext (by rw [handleOf_div s hs, ← e, hk]) (by rw [slotOf_handleOf s hs, hk]))
      rw [callOf, callOf, if_neg hgen, if_neg]
      rw [admitCall_frame]
      exact hgen
    · exact callOf_admitCall_of_ne c s hk

/-! ### Rank and estimate of the call admitted (R21, R103) -/

/-- A count over the WAITING calls of a queue, taken over its list. -/
theorem countP_waitingCalls (s : State) (q : Nat) (p : Call → Bool) :
    (waitingCalls s q).countP (fun e => p e.2) =
      (queueOf s q).waiting.countP fun h => ((callOf s h).map fun c => p c && isWaiting c).getD false := by
  rw [waitingCalls, listedCalls, List.countP_filter, List.countP_filterMap]
  refine List.countP_congr fun h _ => ?_
  cases callOf s h <;> simp

theorem settings_admitCall (slot : Nat) (c : Call) (s : State) (q : Nat) :
    (queueOf (admitCall slot c s) q).settings = (queueOf s q).settings := by rw [queueOf_admitCall]

theorem now_admitCall (slot : Nat) (c : Call) (s : State) : (admitCall slot c s).now = s.now := by rw [admitCall_frame]

theorem effPriority_admitCall (slot : Nat) (c : Call) (s : State) (d : Call) :
    effPriority (admitCall slot c s) d = effPriority s d := by
  rw [effPriority_eq, effPriority_eq, settings_admitCall, now_admitCall]

/-- A call that arrives now has waited for no aging step. -/
theorem effPriority_of_arrival {s : State} {c : Call} (htime : c.arrivalTime = s.now) (hbase : c.basePriority ≤ 127) :
    effPriority s c = c.basePriority := by
  rw [effPriority_eq, htime]
  simp only [BitVec.sub_self, BitVec.toNat_ofNat, Nat.zero_mod, Nat.zero_div, Nat.add_zero]
  split <;> omega

/-- The rank the admitted call takes is the one the decision gave it (R20, R21). -/
theorem rankOf_admitCall {s : State} {slot : Nat} {c : Call} (hs : slot < 2048) (hfree : tableFind s.calls slot = none) (hbase : c.basePriority ≤ 127)
    (htime : c.arrivalTime = s.now) (hseq : c.arrivalSeq = s.arrivals)
    (hall : ∀ e ∈ waitingCalls s c.queue, e.2.arrivalSeq < s.arrivals) :
    rankOf (admitCall slot c s) c = newRank s c.queue c.basePriority := by
  have hahead {d : Call} (hd : d.arrivalSeq < s.arrivals) :
      ahead (admitCall slot c s) d c = decide (c.basePriority ≤ effPriority s d) := by
    rw [Bool.eq_iff_iff, ahead_eq_true, decide_eq_true_eq, effPriority_admitCall, effPriority_admitCall,
      effPriority_of_arrival htime hbase, hseq]
    omega
  rw [rankOf, newRank, countP_waitingCalls _ _ fun d => ahead (admitCall slot c s) d c,
    countP_waitingCalls _ _ fun d => decide (c.basePriority ≤ effPriority s d), queueOf_admitCall]
  simp only [if_true, List.countP_append, callOf_admitCall hs]
  have hlast : List.countP (fun h => ((if h = handleOf s slot then some c else callOf s h).map fun d =>
      ahead (admitCall slot c s) d c && isWaiting d).getD false) [handleOf s slot] = 0 := by simp
  rw [hlast, Nat.add_zero, List.countP_congr]
  intro g hg
  split
  · next hg' => simp [hg', callOf_handleOf s hs, hfree]
  · cases hd : callOf s g with
    | none => simp
    | some d =>
      cases hw : isWaiting d with
      | false => simp [hw]
      | true =>
        have hmem : (g, d) ∈ waitingCalls s c.queue := by
          rw [waitingCalls, listedCalls, List.mem_filter, List.mem_filterMap]
          exact ⟨⟨g, hg, by rw [hd]; rfl⟩, hw⟩
        simp [hw, hahead (hall _ hmem)]

theorem ewt_admitCall (slot : Nat) (c : Call) (s : State) (q p : Nat) : ewt (admitCall slot c s) q p = ewt s q p := by
  have hstaffed : staffed (admitCall slot c s) q = staffed s q := by
    rw [staffed, staffed, settings_admitCall, admitCall_frame]
  rw [ewt, ewt, hstaffed, queueOf_admitCall]

/-! ### The checks (R18) -/

/-- The checks of ENQUEUE before the overflow decision, in their order. -/
def enqueueChecks (s : State) (queue options program : BitVec 8) : List (Bool × Answer) :=
  [(decide (63 < queue.toNat), .refuse .badField 2 0),
    (decide (options.getLsbD 2 = true ∧ 32 ≤ program.toNat ∧ program.toNat ≤ 254), .refuse .badField 6 0),
    (decide (options.getLsbD 2 = true ∧ program.toNat < 32 ∧ programOf s program.toNat = none), .refuse .noSuch 6 program.toNat),
    ((List.range 2048).all fun k => (tableFind s.calls k).isSome, .refuse .noRoom 0 2048)]

/-- The steps of an ENQUEUE that the overflow decision admits to `chosen`. -/
def enqueued (slot chosen : Nat) (c : Call) (s : State) : State :=
  attach (handleOf s slot) (evalSurge chosen (admitCall slot c s))

theorem handleEnqueue_of_check {tag skills : BitVec 32} {queue options priority program : BitVec 8} {s : State} {e : Bool × Answer}
    (he : (enqueueChecks s queue options program).find? (fun e => e.1) = some e) :
    handleEnqueue tag queue options priority skills program s = (s, e.2) := by
  have h : ((enqueueChecks s queue options program).find? fun e => e.1).map (·.2) = some e.2 := by rw [he]; rfl
  have hslots : ((List.range 2048).all fun k => (tableFind s.calls k).isSome) = decide (lowestFreeSlot s = none) := by
    rw [Bool.eq_iff_iff, decide_eq_true_eq, lowestFreeSlot_eq_none]
  rw [enqueueChecks, hslots, find?_check_cons, find?_check_cons, find?_check_cons, find?_check_cons] at h
  simp only [handleEnqueue, badField, optionBit, gt_iff_lt, Bool.and_eq_true, decide_eq_true_eq, Option.isNone_iff_eq_none, and_assoc]
  by_cases h1 : 63 < queue.toNat
  · rw [if_pos h1] at h ⊢
    rw [Option.some.inj h]
  by_cases h2 : options.getLsbD 2 = true ∧ 32 ≤ program.toNat ∧ program.toNat ≤ 254
  · rw [if_neg h1, if_pos h2] at h ⊢
    rw [Option.some.inj h]
  by_cases h3 : options.getLsbD 2 = true ∧ program.toNat < 32 ∧ programOf s program.toNat = none
  · rw [if_neg h1, if_neg h2, if_pos h3] at h ⊢
    rw [Option.some.inj h]
  rw [if_neg h1, if_neg h2, if_neg h3] at h ⊢
  by_cases h4 : lowestFreeSlot s = none
  · rw [if_pos h4] at h
    rw [h4, Option.some.inj h]
  · simp [h4] at h

/-- With the fields in order and a FREE slot, the overflow decision decides. -/
theorem handleEnqueue_of_slot {queue options program : BitVec 8} {s : State} {slot : Nat} (hq : queue.toNat < 64)
    (hp : options.getLsbD 2 = true → program.toNat = 255 ∨ program.toNat < 32 ∧ (programOf s program.toNat).isSome)
    (hslot : lowestFreeSlot s = some slot) (tag skills : BitVec 32) (priority : BitVec 8) :
    handleEnqueue tag queue options priority skills program s =
      match overflowDecision s queue.toNat (enqueuePriority s queue.toNat options priority) with
      | .inr r => (s, r)
      | .inl (chosen, overflowed) =>
        let base := enqueuePriority s queue.toNat options priority
        let c := newCall s tag queue.toNat chosen overflowed base (if optionBit options 1 then some skills else none)
          (enqueueProgram s queue.toNat options program)
        let u := enqueued slot chosen c s
        let t := matchCall (handleOf s slot) u
        (t, .accept (optionBit options 0 && decide (127 < priority.toNat))
          [f2 (handleOf s slot), f1 chosen, f1 (bit overflowed), f2 (rankOf (admitCall slot c s) c),
            f2 (ewt (admitCall slot c s) chosen (rankOf (admitCall slot c s) c)),
            f1 (orElse ((callOf u (handleOf s slot)).bind (·.voice)) 255), f1 (bit (offeredNow t (handleOf s slot)))]) := by
  have h2 : ¬ (options.getLsbD 2 = true ∧ 32 ≤ program.toNat ∧ program.toNat ≤ 254) := by
    rintro ⟨h, h32, h254⟩
    have := hp h
    omega
  have h3 : ¬ (options.getLsbD 2 = true ∧ program.toNat < 32 ∧ programOf s program.toNat = none) := by
    rintro ⟨h, h32, hn⟩
    rcases hp h with h255 | ⟨-, hsome⟩
    · omega
    · simp [hn] at hsome
  simp only [handleEnqueue, badField, optionBit, gt_iff_lt, Bool.and_eq_true, decide_eq_true_eq, Option.isNone_iff_eq_none, and_assoc,
    if_neg (Nat.not_lt.2 (Nat.le_of_lt_succ hq)), if_neg h2, if_neg h3, hslot]
  rfl

/-! ### The state before matching -/

theorem beforeSurge_admitCall (slot : Nat) (c : Call) (s : State) (q : Nat) : BeforeSurge s (admitCall slot c s) q where
  settings := settings_admitCall ..
  surge := by rw [queueOf_admitCall]
  now := now_admitCall ..
  wraps := fun a v _ => by rw [admitCall_frame]; rfl
  due := by rw [admitCall_frame]
  canonical := fun hc => by rw [admitCall_frame]; exact ⟨hc.2.2.2.1, fun _ => rfl⟩
  notices := fun hn => by rw [admitCall_frame]; exact ⟨show s.notices.length < 256 by omega, rfl⟩

theorem afterSurge_attach (room : Prop) (r : State) (h q : Nat) : AfterSurge room r (attach h r) q := by
  have e := (oneCallAudio_attach h r).eq_with
  refine ⟨?_, ?_, fun k => ?_, fun a v _ ha => ?_, ?_, fun _ => ?_⟩
  · rw [e]; rfl
  · rw [e]; rfl
  · have hk (o : Option Call) : o.map (·.arrivalTime) = (o.map withoutAudio).map (·.arrivalTime) := by cases o <;> rfl
    rw [hk, hk (callOf r k), (audioOnly_attach h r).callOf]
  · rw [e]; exact ha
  · rw [e]
  · rw [e]; rfl

theorem surgeEvaluated_enqueued (slot chosen : Nat) (c : Call) (s : State) : SurgeEvaluated s (enqueued slot chosen c s) chosen :=
  surgeEvaluated_of (beforeSurge_admitCall slot c s chosen) (afterSurge_attach _ _ _ _)

/-- The state an admitted call is attached in. -/
def beforeAttach (slot chosen : Nat) (c : Call) (s : State) : State := evalSurge chosen (admitCall slot c s)

theorem queueOf_enqueued_eq (slot chosen : Nat) (c : Call) (s : State) (j : Nat) :
    queueOf (enqueued slot chosen c s) j = queueOf (beforeAttach slot chosen c s) j := by
  rw [queueOf, queueOf, enqueued, (audioOnly_attach _ _).queues]
  rfl

theorem surge_enqueued_of_ne {chosen j : Nat} (hj : j ≠ chosen) (slot : Nat) (c : Call) (s : State) :
    (queueOf (enqueued slot chosen c s) j).surge = (queueOf s j).surge := by
  rw [queueOf_enqueued_eq, beforeAttach, queueOf_evalSurge_of_ne _ hj, queueOf_admitCall]

theorem queueOf_enqueued (slot chosen : Nat) (c : Call) (s : State) (j : Nat) : queueOf (enqueued slot chosen c s) j =
    { queueOf s j with
      waiting := (queueOf s j).waiting ++ if j = c.queue then [handleOf s slot] else []
      counters := admittedCounters c j (queueOf s j).counters
      surge := (queueOf (enqueued slot chosen c s) j).surge } := by
  rw [queueOf_enqueued_eq, beforeAttach, (evalSurge_spec chosen (admitCall slot c s)).1]
  by_cases hj : j = chosen
  · subst hj
    rw [if_pos rfl, queueOf_admitCall]
  · rw [if_neg hj, queueOf_admitCall]

/-- What the attachment finds: the call admitted, the audio side as it was. -/
theorem beforeAttach_spec {slot : Nat} (hs : slot < 2048) (chosen : Nat) (c : Call) (s : State) :
    let w := beforeAttach slot chosen c s
    callOf w (handleOf s slot) = some c ∧ (∀ k, slotOf k ≠ slot → callOf w k = callOf s k) ∧
      outsideMatching w = { outsideMatching s with arrivals := s.arrivals + 1 } ∧ withoutWraps w.due = withoutWraps s.due ∧
      (∀ a, (agentOf w a).map withoutDeadline = (agentOf s a).map withoutDeadline) ∧ w.readyList = s.readyList := by
  intro w
  obtain ⟨-, hagents, -, hready, -, hoffers, hcool, hsurge, -, hout⟩ := evalSurge_spec chosen (admitCall slot c s)
  refine ⟨?_, fun k hk => ?_, ?_, ?_, fun a => ?_, ?_⟩
  · rw [show w = evalSurge chosen (admitCall slot c s) from rfl, callOf_evalSurge, callOf_admitCall_self hs]
  · rw [show w = evalSurge chosen (admitCall slot c s) from rfl, callOf_evalSurge, callOf_admitCall_of_ne c s hk]
  · rw [show w = evalSurge chosen (admitCall slot c s) from rfl, hout, admitCall_frame]; rfl
  · rw [withoutWraps, withoutWraps, show w = evalSurge chosen (admitCall slot c s) from rfl, hoffers, hcool, hsurge, admitCall_frame]
  · rw [show w = evalSurge chosen (admitCall slot c s) from rfl, hagents, admitCall_frame]; rfl
  · rw [show w = evalSurge chosen (admitCall slot c s) from rfl, hready, admitCall_frame]

/-- Settles O34. -/
theorem enqueueAdmitsTheCall : Obligations.EnqueueAdmitsTheCall := by
  unfold Obligations.EnqueueAdmitsTheCall
  refine ⟨fun tag queue options priority skills program s ht hs e he => ?_, fun tag queue options priority skills program s slot
    base ht hs hq hp hslot hfree hlow hbase => ?_⟩
  · exact exec_service ht hs rfl rfl (handleEnqueue_of_check he)
  have handled := handleEnqueue_of_slot hq hp (lowestFreeSlot_eq_some hslot hfree hlow) tag skills priority
  rw [show enqueuePriority s queue.toNat options priority = base from hbase.symm] at handled
  refine ⟨fun r hr => ?_, fun chosen moved hd hle hall => ?_⟩
  · rw [hr] at handled
    exact exec_service ht hs rfl rfl handled
  rw [hd] at handled
  obtain ⟨c, hc⟩ : ∃ c, c = newCall s tag queue.toNat chosen moved base (if optionBit options 1 then some skills else none)
    (enqueueProgram s queue.toNat options program) := ⟨_, rfl⟩
  simp only [← hc] at handled
  have hcq : c.queue = chosen := by rw [hc]; rfl
  have horigin : c.originQueue = if moved then some queue.toNat else none := by rw [hc]; rfl
  have hrank : rankOf (admitCall slot c s) c = newRank s chosen base := by
    rw [← hcq, rankOf_admitCall hslot hfree (by rw [hc]; exact hle) (by rw [hc]; rfl) (by rw [hc]; rfl) (by rw [hcq]; exact hall), hc]
    rfl
  rw [hrank, ewt_admitCall] at handled
  obtain ⟨hcall, hcalls, hout, hdue, hagents, hready⟩ := beforeAttach_spec hslot chosen c s
  have audio := audioOnly_attach (handleOf s slot) (beforeAttach slot chosen c s)
  have one := oneCallAudio_attach (handleOf s slot) (beforeAttach slot chosen c s)
  obtain ⟨u, hu⟩ : ∃ u, u = enqueued slot chosen c s := ⟨_, rfl⟩
  have hua : u = attach (handleOf s slot) (beforeAttach slot chosen c s) := hu
  rw [← hua] at audio one
  rw [← hu] at handled
  have hslotOf := slotOf_handleOf s hslot
  obtain ⟨d, hd', hdc⟩ : ∃ d, callOf u (handleOf s slot) = some d ∧ withoutAudio d = c := by
    have h := audio.callOf (handleOf s slot)
    rw [hcall] at h
    obtain ⟨d, hd, e⟩ := Option.map_eq_some_iff.1 h
    exact ⟨d, hd, by rw [e, hc]; rfl⟩
  rw [hd', Option.bind_some] at handled
  have hqueue (j : Nat) := hu ▸ queueOf_enqueued slot chosen c s j
  have houtu : outsideMatching u = { outsideMatching s with
      arrivals := s.arrivals + 1, voices := u.voices, clips := u.clips } := by
    rw [one.eq_with]
    show { outsideMatching (beforeAttach slot chosen c s) with voices := u.voices, clips := u.clips } = _
    rw [hout]
  refine ⟨beforeAttach slot chosen c s, u, d, c, exec_service ht hs rfl rfl handled, hd', hdc, ?record, hua, hcall, hcalls, ?voices,
    ?clips, ?programs, one.1, ?noProgram, ?arrivals, ?list, ?arrived, ?others, hu ▸ surgeEvaluated_enqueued slot chosen c s, ?due, ?traffic,
    ?calls, ?agents, ?ready, ?gens, ?overflow, ?outside⟩
  case record => rw [hc]; rfl
  case voices => exact (congrArg State.voices hout :)
  case clips => exact (congrArg State.clips hout :)
  case programs => exact (congrArg State.programs hout :)
  case noProgram => intro hn; rw [hua, attach_of_no_program hcall hn]
  case arrivals => exact (congrArg State.arrivals houtu :)
  case list => rw [hqueue]; simp [hcq]
  case arrived => rw [hqueue]; simp [hcq, admittedCounters]
  case others => intro q hq; rw [hqueue]; simp [hcq, hq, admittedCounters]
  case due => rw [one.eq_with]; exact hdue
  case traffic =>
    intro q
    refine ⟨by rw [hqueue]; rfl, by rw [hqueue]; rfl, fun hq => ?_, fun h => ?_, fun h => ?_⟩
    · rw [hu, surge_enqueued_of_ne hq]
    · rw [hqueue]
      rcases h with h | h
      · simp [admittedCounters, hcq, h]
      · simp [admittedCounters, horigin, h]
    · rw [hqueue]
      rcases h with h | h
      · simp [admittedCounters, horigin, Ne.symm h]
      · simp [admittedCounters, horigin, h]
  case calls => intro k hk; rw [one.2 k (by rw [hslotOf]; exact hk), hcalls k hk]
  case agents => intro a; rw [one.eq_with]; exact hagents a
  case ready => rw [one.eq_with]; exact hready
  case gens => exact (congrArg State.generations houtu :)
  case overflow =>
    intro hm hne
    rw [hqueue, hqueue queue.toNat]
    simp [admittedCounters, hcq, horigin, hm]
  case outside =>
    unfold outsideTraffic
    rw [houtu]

end Sys2Proof.Machine
end

-- ==== Sys2Proof/Proofs/TakenOff ====
section
/-! Taking a call off its voice in the middle of an order (`TakenOffVoice`; R143 to R145). -/

namespace Sys2Proof.Machine

/-! ### States alike to the audio side -/

/-- Two entries of the calls alike but for the status of the call in slot `k`. -/
def LikeCall (k : Nat) (e f : Nat × Call) : Prop :=
  f.1 = e.1 ∧ (e.1 ≠ k → f = e) ∧ ∃ st, f.2 = { e.2 with status := st }

/-- States alike to the audio side, but for the status of the call in slot `k`. -/
structure AudioLike (k : Nat) (s t : State) : Prop where
  voices : t.voices = s.voices
  clips : t.clips = s.clips
  programs : t.programs = s.programs
  generations : t.generations = s.generations
  now : t.now = s.now
  calls : List.Forall₂ (LikeCall k) s.calls t.calls

theorem LikeCall.refl (k : Nat) (e : Nat × Call) : LikeCall k e e := ⟨rfl, fun _ => rfl, e.2.status, rfl⟩

theorem likeCalls_refl (k : Nat) (t : Table Call) : List.Forall₂ (LikeCall k) t t := List.forall₂_same.2 fun e _ => .refl k e

/-- Writing the record at `k` keeps tables alike. -/
theorem likeCalls_tableInsert {k : Nat} {t u : Table Call} (h : List.Forall₂ (LikeCall k) t u) {c d : Call}
    (hcd : ∃ st, d = { c with status := st }) : List.Forall₂ (LikeCall k) (tableInsert t k c) (tableInsert u k d) := by
  have hnew : LikeCall k (k, c) (k, d) := ⟨rfl, fun hk => absurd rfl hk, hcd⟩
  induction h with
  | nil => exact .cons hnew .nil
  | @cons e f t u hef htu ih =>
    obtain ⟨i, x⟩ := e
    obtain ⟨j, y⟩ := f
    obtain rfl : j = i := hef.1
    simp only [tableInsert]
    split
    · exact .cons hnew (.cons hef htu)
    · split
      · exact .cons hnew htu
      · exact .cons hef ih

theorem tableInsert_tableInsert {α : Type} (t : Table α) (k : Nat) (x y : α) :
    tableInsert (tableInsert t k x) k y = tableInsert t k y := by
  induction t with
  | nil => simp [tableInsert]
  | cons e t ih =>
    obtain ⟨i, w⟩ := e
    by_cases h1 : k < i
    · simp [tableInsert, h1]
    · by_cases h2 : k = i
      · simp [tableInsert, h2]
      · simp [tableInsert, h1, h2, ih]

theorem tableFind_likeCalls {k : Nat} {t u : Table Call} (h : List.Forall₂ (LikeCall k) t u) {j : Nat} (hj : j ≠ k) :
    tableFind u j = tableFind t j := by
  induction h with
  | nil => rfl
  | @cons e f t u hef htu ih =>
    obtain ⟨i, x⟩ := e
    obtain ⟨i', y⟩ := f
    obtain ⟨rfl, hne, -⟩ := hef
    by_cases hij : i' = j
    · cases hne (by rw [hij]; exact hj); simp [tableFind, hij]
    · simp [tableFind, hij, ih]

theorem AudioLike.callOf {k : Nat} {s t : State} (m : AudioLike k s t) {h : Nat} (hh : slotOf h ≠ k) : callOf t h = callOf s h := by
  rw [Machine.callOf, Machine.callOf, generationOf, generationOf, m.generations, tableFind_likeCalls m.calls hh]

theorem AudioLike.voiceOf {k : Nat} {s t : State} (m : AudioLike k s t) (v : Nat) : voiceOf t v = voiceOf s v := by
  rw [Machine.voiceOf, Machine.voiceOf, m.voices]

theorem AudioLike.setVoiceRec {k : Nat} {s t : State} (m : AudioLike k s t) (v : Nat) (r : Voice) :
    AudioLike k (setVoiceRec s v r) (setVoiceRec t v r) :=
  ⟨congrArg (tableInsert · v r) m.voices, m.clips, m.programs, m.generations, m.now, m.calls⟩

theorem AudioLike.dropVoice {k : Nat} {s t : State} (m : AudioLike k s t) (v : Nat) : AudioLike k (dropVoice s v) (dropVoice t v) :=
  ⟨congrArg (tableErase · v) m.voices, m.clips, m.programs, m.generations, m.now, m.calls⟩

theorem AudioLike.changeUse {k : Nat} {s t : State} (m : AudioLike k s t) (j : Nat) (f : Nat → Nat) :
    AudioLike k (changeUse s j f) (changeUse t j f) := by
  have hc : clipOf t j = clipOf s j := by rw [clipOf, clipOf, m.clips]
  unfold Machine.changeUse
  rw [hc]
  cases clipOf s j with
  | none => exact m
  | some c => exact ⟨m.voices, congrArg (tableInsert · j _) m.clips, m.programs, m.generations, m.now, m.calls⟩

theorem AudioLike.notify {k : Nat} {s t : State} (m : AudioLike k s t) (kind : Nat) (body : List LinkField) :
    AudioLike k (notify kind body s) (notify kind body t) := by
  refine ⟨?_, ?_, ?_, ?_, ?_, ?_⟩
  all_goals simp only [notify_voices, notify_clips, notify_programs, notify_generations, notify_now, notify_calls]
  exacts [m.voices, m.clips, m.programs, m.generations, m.now, m.calls]

theorem AudioLike.startVoice {k : Nat} {s t : State} (m : AudioLike k s t) (v p : Nat) (mode : VoiceMode) (segment : Segment) (i j : Nat) :
    AudioLike k (startVoice s v p mode segment i j) (startVoice t v p mode segment i j) := (m.setVoiceRec ..).changeUse ..

/-! ### A freed voice in alike states -/

theorem oldestSilent_like {k : Nat} {t u : Table Call} (h : List.Forall₂ (LikeCall k) t u) :
    (oldestSilent u).map (fun c => (c.arrivalSeq, c.program)) = (oldestSilent t).map fun c => (c.arrivalSeq, c.program) := by
  induction h with
  | nil => rfl
  | @cons e f t u hef htu ih =>
    obtain ⟨i, x⟩ := e
    obtain ⟨i', y⟩ := f
    obtain ⟨-, -, st, rfl⟩ := hef
    cases ht : oldestSilent t with
    | none =>
      rw [ht, Option.map_none, Option.map_eq_none_iff] at ih
      simp only [oldestSilent, ht, ih]
      split <;> rfl
    | some d =>
      rw [ht] at ih
      obtain ⟨d', hd', e⟩ := Option.map_eq_some_iff.1 ih
      obtain ⟨hseq, hprog⟩ := Prod.ext_iff.1 e
      simp only at hseq hprog
      simp only [oldestSilent, ht, hd', hseq]
      split <;> simp [hseq, hprog]

theorem countP_silentFor_like {k : Nat} {t u : Table Call} (h : List.Forall₂ (LikeCall k) t u) (p : Nat) :
    (u.countP fun e => silentFor p e.2) = t.countP fun e => silentFor p e.2 := by
  induction h with
  | nil => rfl
  | @cons e f t u hef htu ih =>
    obtain ⟨-, -, st, e'⟩ := hef
    rw [List.countP_cons, List.countP_cons, ih, e']
    rfl

/-- The record of a call that a freed voice is handed to. -/
def handed (v p : Nat) (e : Nat × Call) : Nat × Call :=
  if silentFor p e.2 then (e.1, { e.2 with voice := some v, awaitingVoice := false }) else e

theorem map_handed_like {k : Nat} {t u : Table Call} (h : List.Forall₂ (LikeCall k) t u) (v p : Nat) :
    List.Forall₂ (LikeCall k) (t.map (handed v p)) (u.map (handed v p)) := by
  rw [List.forall₂_map_left_iff, List.forall₂_map_right_iff]
  refine h.imp fun e f => ?_
  rintro ⟨hkey, hne, st, hst⟩
  have hs : silentFor p f.2 = silentFor p e.2 := by rw [hst]; rfl
  unfold handed
  rw [hs]
  split
  · exact ⟨hkey, fun hk => by rw [hne hk], st, by rw [hst]⟩
  · exact ⟨hkey, hne, st, hst⟩

/-- The silent calls a voice that becomes FREE is handed to decide what happens, and alike states do alike. -/
theorem handVoice_eq (v : Nat) (s : State) : handVoice v s =
    match (oldestSilent s.calls).bind (·.program) with
    | none => s
    | some p => notify 0x86 [f1 v, f1 p, f2 (s.calls.countP fun e => silentFor p e.2)]
        (startVoice { s with calls := s.calls.map (handed v p) } v p (.shared (s.calls.countP fun e => silentFor p e.2)) .loop 0
          (((programOf s p).map fun r => loopClip r 0).getD 0)) := rfl

theorem AudioLike.oldest {k : Nat} {s t : State} (m : AudioLike k s t) :
    (oldestSilent t.calls).bind (·.program) = (oldestSilent s.calls).bind (·.program) := by
  have hb (o : Option Call) : o.bind (·.program) = (o.map fun c => (c.arrivalSeq, c.program)).bind (·.2) := by cases o <;> rfl
  rw [hb, hb (oldestSilent s.calls), oldestSilent_like m.calls]

theorem AudioLike.handVoice {k : Nat} {s t : State} (m : AudioLike k s t) (v : Nat) : AudioLike k (handVoice v s) (handVoice v t) := by
  rw [handVoice_eq, handVoice_eq, m.oldest]
  cases (oldestSilent s.calls).bind (·.program) with
  | none => exact m
  | some p =>
    have hp : programOf t p = programOf s p := by rw [programOf, programOf, m.programs]
    simp only [countP_silentFor_like m.calls, hp]
    refine (AudioLike.startVoice ?_ ..).notify ..
    exact ⟨m.voices, m.clips, m.programs, m.generations, m.now, map_handed_like m.calls v p⟩

theorem AudioLike.freeVoice {k : Nat} {s t : State} (m : AudioLike k s t) (v : Nat) : AudioLike k (freeVoice v s) (freeVoice v t) := by
  unfold Machine.freeVoice
  rw [m.voiceOf]
  cases Machine.voiceOf s v with
  | none => exact m
  | some r => exact ((m.dropVoice v).changeUse ..).handVoice v

/-! ### The notices of a freed voice -/

theorem changeUse_notices (s : State) (j : Nat) (f : Nat → Nat) : (changeUse s j f).notices = s.notices := by
  unfold changeUse; split <;> rfl

theorem changeUse_now (s : State) (j : Nat) (f : Nat → Nat) : (changeUse s j f).now = s.now := by
  unfold changeUse; split <;> rfl

theorem startVoice_notices (s v p mode segment i j) : (startVoice s v p mode segment i j).notices = s.notices :=
  changeUse_notices ..

/-- The notice a voice that becomes FREE makes, if it is handed over. -/
def startedFrames (v : Nat) (s : State) : List OutFrame :=
  match (oldestSilent s.calls).bind (·.program) with
  | none => []
  | some p => [{ frameClass := 4, kind := 0x86, body :=
      [f4 s.now.toNat, f1 v, f1 p, f2 (s.calls.countP fun e => silentFor p e.2)] }]

theorem handVoice_notices {s : State} (hn : s.notices.length < 256) (v : Nat) :
    (handVoice v s).notices = s.notices ++ startedFrames v s := by
  rw [handVoice_eq, startedFrames]
  cases (oldestSilent s.calls).bind (·.program) with
  | none => simp
  | some p =>
    simp only
    rw [notify_of_lt (by rw [startVoice_notices]; exact hn), startVoice_notices, startVoice, takeUse, changeUse_now]
    rfl

theorem freeVoice_notices {s : State} (hn : s.notices.length < 256) (v : Nat) : (freeVoice v s).notices =
    s.notices ++ if (voiceOf s v).isSome then startedFrames v s else [] := by
  unfold freeVoice
  cases voiceOf s v with
  | none => simp
  | some r =>
    simp only [giveUse]
    rw [handVoice_notices (by rw [changeUse_notices]; exact hn), changeUse_notices]
    have hcalls : (changeUse (dropVoice s v) r.clip (· - 1)).calls = s.calls := by unfold changeUse; split <;> rfl
    rw [startedFrames, startedFrames, hcalls, changeUse_now]
    rfl

theorem AudioLike.startedFrames {k : Nat} {s t : State} (m : AudioLike k s t) (v : Nat) : startedFrames v t = startedFrames v s := by
  rw [Machine.startedFrames, Machine.startedFrames, m.oldest]
  simp only [countP_silentFor_like m.calls, m.now]

theorem startedFrames_length (v : Nat) (s : State) : (startedFrames v s).length ≤ 1 := by
  unfold startedFrames; split <;> simp

theorem startedFrames_kind {v : Nat} {s : State} {f : OutFrame} (hf : f ∈ startedFrames v s) : f.kind = 0x86 := by
  unfold startedFrames at hf
  split at hf
  · cases hf
  · rw [List.mem_singleton.1 hf]

/-! ### `TakenOffVoice` -/

theorem detach_of_no_voice {h : Nat} {t : State} {c : Call} (hc : callOf t h = some c) (hv : c.voice = none) : detach h t = t := by
  simp only [detach, hc, hv]

/-- `t` is `s` after steps that leave the audio side alone but for the record of the call that `h` names. -/
structure AudioKept (h : Nat) (s t : State) : Prop where
  voices : t.voices = s.voices
  clips : t.clips = s.clips
  programs : t.programs = s.programs
  generations : t.generations = s.generations
  now : t.now = s.now
  calls : ∀ x, tableInsert t.calls (slotOf h) x = tableInsert s.calls (slotOf h) x
  notices : s.notices.length < 250 → t.notices.length < 254 ∧ noticesOf 0x86 t = noticesOf 0x86 s

theorem AudioKept.callOf {h : Nat} {s t : State} (m : AudioKept h s t) {c : Call} {k : Nat} (hk : slotOf k ≠ slotOf h) :
    callOf t k = callOf s k := by
  have hfind : tableFind t.calls (slotOf k) = tableFind s.calls (slotOf k) := by
    rw [← tableFind_tableInsert_of_ne t.calls c hk, m.calls, tableFind_tableInsert_of_ne s.calls c hk]
  rw [Machine.callOf, Machine.callOf, generationOf, generationOf, m.generations, hfind]

theorem AudioKept.like {h : Nat} {s t : State} (m : AudioKept h s t) {c d : Call} (hcd : ∃ st, d = { c with status := st }) :
    AudioLike (slotOf h) (setCallRec s h c) (setCallRec t h d) := by
  refine ⟨m.voices, m.clips, m.programs, m.generations, m.now, ?_⟩
  show List.Forall₂ _ (tableInsert s.calls _ c) (tableInsert t.calls _ d)
  rw [m.calls]
  exact likeCalls_tableInsert (likeCalls_refl ..) hcd

/-- Detaching a call from its voice after steps that leave the audio side alone takes it off its voice. -/
theorem takenOffVoice_detach {s t : State} {h : Nat} {c d : Call} (m : AudioKept h s t) (hd : callOf t h = some d)
    (hcd : ∃ st, d = { c with status := st }) : TakenOffVoice s (detach h t) h c := by
  obtain ⟨st, hcd⟩ := hcd
  have hvoice : d.voice = c.voice := by rw [hcd]
  refine ⟨fun hv => ?_, fun v r hv hr => ?_⟩
  · rw [detach_of_no_voice hd (hvoice.trans hv)]
    exact ⟨m.voices, m.clips, fun k hk => m.callOf (c := c) hk⟩
  · have hvoiceOf (w : Nat) : voiceOf t w = voiceOf s w := by rw [voiceOf, voiceOf, m.voices]
    have hdetach := detach_of_voice hd (hvoice.trans hv) ((hvoiceOf v).trans hr)
    have like : AudioLike (slotOf h) (setCallRec s h { c with voice := none, announceDue := none })
        (setCallRec t h { d with voice := none, announceDue := none }) := m.like ⟨st, by rw [hcd]⟩
    refine ⟨fun n hmode hn => ?_, fun hmode => ?_⟩
    · obtain ⟨n, rfl⟩ := Nat.exists_eq_add_of_lt hn
      have e : detach h t = setVoiceRec (setCallRec t h { d with voice := none, announceDue := none }) v
          { r with mode := .shared (1 + n) } := by
        rw [hdetach, hmode, show 1 + n + 1 = n + 2 by omega, show 1 + n = n + 1 by omega]
      rw [e]
      refine ⟨by rw [voiceOf_setVoiceRec, if_pos rfl, Nat.add_sub_cancel], fun w hw => ?_, m.clips, fun k hk => ?_⟩
      · rw [voiceOf_setVoiceRec, if_neg hw]
        exact hvoiceOf w
      · exact (callOf_setCallRec_of_ne t _ hk).trans (m.callOf (c := c) hk)
    · have e : detach h t = freeVoice v (setCallRec t h { d with voice := none, announceDue := none }) := by
        rcases hmode with hmode | ⟨k, hmode⟩ <;> rw [hdetach, hmode]
      have free := like.freeVoice v
      rw [e]
      refine ⟨free.voices, free.clips, fun k hk => free.callOf hk, fun hn => ?_⟩
      obtain ⟨ht, hsame⟩ := m.notices hn
      show noticesOf 0x86 _ = noticesOf 0x86 _
      rw [noticesOf, noticesOf, freeVoice_notices, freeVoice_notices, List.filter_append, List.filter_append, like.voiceOf,
        like.startedFrames]
      · exact congrArg (· ++ _) hsame
      · show s.notices.length < 256
        omega
      · show t.notices.length < 256
        omega

/-- What comes after the call is off its voice and leaves the voices alone. -/
theorem TakenOffVoice.after {s x u : State} {h : Nat} {c : Call} (t : TakenOffVoice s x h c) (hv : u.voices = x.voices)
    (hk : u.clips = x.clips) (hc : ∀ k, slotOf k ≠ slotOf h → callOf u k = callOf x k)
    (hn : s.notices.length < 250 → noticesOf 0x86 u = noticesOf 0x86 x) : TakenOffVoice s u h c := by
  obtain ⟨hnone, hsome⟩ := t
  have hvoiceOf (w : Nat) : voiceOf u w = voiceOf x w := by rw [voiceOf, voiceOf, hv]
  refine ⟨fun hcv => ?_, fun v r hcv hr => ?_⟩
  · obtain ⟨h1, h2, h3⟩ := hnone hcv
    exact ⟨hv.trans h1, hk.trans h2, fun k hk' => (hc k hk').trans (h3 k hk')⟩
  · obtain ⟨hshared, hfreed⟩ := hsome v r hcv hr
    refine ⟨fun n hm hl => ?_, fun hm => ?_⟩
    · obtain ⟨h1, h2, h3, h4⟩ := hshared n hm hl
      exact ⟨(hvoiceOf v).trans h1, fun w hw => (hvoiceOf w).trans (h2 w hw), hk.trans h3, fun k hk' => (hc k hk').trans (h4 k hk')⟩
    · obtain ⟨h1, h2, h3, h4⟩ := hfreed hm
      exact ⟨hv.trans h1, hk.trans h2, fun k hk' => (hc k hk').trans (h3 k hk'), fun hl => (hn hl).trans (h4 hl)⟩

/-- The notices a detachment makes are VOICE STARTED. -/
theorem detach_notices {s : State} (hn : s.notices.length < 256) (h : Nat) : ∃ l : List OutFrame, l.length ≤ 1 ∧
    (∀ f ∈ l, f.kind = 0x86) ∧ (detach h s).notices = s.notices ++ l := by
  have none : ∃ l : List OutFrame, l.length ≤ 1 ∧ (∀ f ∈ l, f.kind = 0x86) ∧ s.notices = s.notices ++ l :=
    ⟨[], by simp, by simp, by simp⟩
  have free (v : Nat) (t : State) (ht : t.notices = s.notices) :
      ∃ l : List OutFrame, l.length ≤ 1 ∧ (∀ f ∈ l, f.kind = 0x86) ∧ (freeVoice v t).notices = s.notices ++ l := by
    refine ⟨if (voiceOf t v).isSome then startedFrames v t else [], ?_, ?_, by rw [freeVoice_notices (by rw [ht]; exact hn), ht]⟩
    · split
      · exact startedFrames_length v t
      · simp
    · intro f hf
      split at hf
      · exact startedFrames_kind hf
      · cases hf
  unfold detach
  split
  · exact none
  · split
    · exact none
    · dsimp only
      split
      · exact none
      · split
        · exact free _ _ rfl
        · split
          · exact free _ _ rfl
          · exact none

end Sys2Proof.Machine
end

-- ==== Sys2Proof/Proofs/Removal ====
section
/-! REMOVE: the call leaves its place, its voice and its slot (R23, R24, R70). -/

namespace Sys2Proof.Machine

/-! ### What the steps keep -/

@[simp] theorem outsideTraffic_outsideMatching (s : State) : outsideTraffic (outsideMatching s) = outsideTraffic s := by
  cases h : s.sending <;> simp [outsideTraffic, outsideMatching, sendingBlanked, h]

@[simp] theorem outsideTraffic_outsideAudio (s : State) : outsideTraffic (outsideAudio s) = outsideTraffic s := by
  cases h : s.sending <;> simp [outsideTraffic, outsideMatching, outsideAudio, sendingBlanked, h]

theorem outsideTraffic_of_matching {s t : State} (h : outsideMatching t = outsideMatching s) : outsideTraffic t = outsideTraffic s := by
  simpa using congrArg outsideTraffic h

theorem outsideTraffic_of_audio {s t : State} (h : AudioOnly s t) : outsideTraffic t = outsideTraffic s := by
  simpa using congrArg outsideTraffic h.1

@[simp] theorem outsideTraffic_freeCall (s : State) (h : Nat) : outsideTraffic (freeCall s h) = outsideTraffic s := rfl

@[simp] theorem outsideTraffic_count (s : State) (q : Nat) (f : Counters → Counters) :
    outsideTraffic (count s q f) = outsideTraffic s := rfl

theorem AudioOnly.queueOf {s t : State} (h : AudioOnly s t) (q : Nat) : queueOf t q = queueOf s q := by
  rw [Machine.queueOf, Machine.queueOf, h.queues]

theorem AudioOnly.agentOf {s t : State} (h : AudioOnly s t) (a : Nat) : agentOf t a = agentOf s a := by
  rw [Machine.agentOf, Machine.agentOf, h.agents]

theorem AudioOnly.due {s t : State} (h : AudioOnly s t) : t.due = s.due := by
  simpa [outsideAudio] using congrArg State.due h.1

theorem AudioOnly.readyList {s t : State} (h : AudioOnly s t) : t.readyList = s.readyList := by
  simpa [outsideAudio] using congrArg State.readyList h.1

theorem AudioOnly.readies {s t : State} (h : AudioOnly s t) : t.readies = s.readies := by
  simpa [outsideAudio] using congrArg State.readies h.1

theorem AudioOnly.arrivals {s t : State} (h : AudioOnly s t) : t.arrivals = s.arrivals := by
  simpa [outsideAudio] using congrArg State.arrivals h.1

/-- Replacing a record that a count does not count by another such. -/
theorem countP_tableInsert_of_false {α : Type} (p : α → Bool) (t : Table α) (k : Nat) {v : α}
    (hold : ∀ w, tableFind t k = some w → p w = false) (hnew : p v = false) :
    ((tableInsert t k v).countP fun e => p e.2) = t.countP fun e => p e.2 := by
  induction t with
  | nil => simp [tableInsert, hnew]
  | cons e t ih =>
    obtain ⟨i, w⟩ := e
    by_cases h1 : k < i
    · simp [tableInsert, h1, List.countP_cons, hnew]
    · by_cases h2 : k = i
      · have hw : p w = false := hold w (by simp [tableFind, h2])
        simp [tableInsert, h2, hnew, hw]
      · have := ih fun w hw => hold w (by simpa [tableFind, Ne.symm h2] using hw)
        simp [tableInsert, h1, h2, List.countP_cons, this]

/-! ### The call leaves its place (R24, step 1) -/

/-- `t` is `s` after the call that `h` names has left its place, `wait` being what its queue's waiting list has become. -/
structure PlaceLeft (s t : State) (h : Nat) (c : Call) (wait : List Nat) : Prop where
  audio : AudioKept h s t
  call : ∃ st, callOf t h = some { c with status := st }
  queue : ∀ j, queueOf t j = if j = c.queue then { queueOf s c.queue with waiting := wait } else queueOf s j
  due : t.due = s.due
  outside : outsideMatching t = outsideMatching s
  wraps : ∀ a v, wrapOf v ≠ none → (agentOf t a = some v ↔ agentOf s a = some v)
  counted : ∀ p, (t.agents.countP fun e => wrapHas p e.2) = s.agents.countP fun e => wrapHas p e.2
  rising : Canonical s → tableRising t.agents = true
  notices : s.notices.length < 250 → noticesOf 0x85 t = noticesOf 0x85 s

theorem placeLeft_leaveList {s : State} {h : Nat} {c : Call} (hc : callOf s h = some c) :
    PlaceLeft s (leaveList s h c.queue) h c ((queueOf s c.queue).waiting.erase h) where
  audio := ⟨rfl, rfl, rfl, rfl, rfl, fun _ => rfl, fun hn => ⟨show s.notices.length < 254 by omega, rfl⟩⟩
  call := ⟨c.status, hc⟩
  queue := fun _ => by rw [queueOf_leaveList]
  due := rfl
  outside := rfl
  wraps := fun _ _ _ => Iff.rfl
  counted := fun _ => rfl
  rising := fun hcan => hcan.2.2.2.1
  notices := fun _ => rfl

/-- The two sides of an offer of a call that is removed, with the notice. -/
theorem withdrawRemoved_eq {s : State} {h a n : Nat} {c : Call} {v : Agent} (hv : agentOf s a = some v) (hs : v.status = .offered h n) :
    withdrawRemoved h a c s =
      withdrawnNotice h a c 1 (returnToPlace (setCallRec s h { c with status := .waiting }) a v n) := by
  have hv' : agentOf (setCallRec s h { c with status := .waiting }) a = some v := hv
  have hseq : readySeqOf (setCallRec s h { c with status := .waiting }) a = n := by simp only [readySeqOf, hv', hs]
  simp only [withdrawRemoved, hv', hseq]

theorem placeLeft_withdrawRemoved {s : State} {h a n : Nat} {c : Call} {v : Agent} (hc : callOf s h = some c)
    (hv : agentOf s a = some v) (hs : v.status = .offered h n) :
    PlaceLeft s (withdrawRemoved h a c s) h c (queueOf s c.queue).waiting := by
  have hw : wrapOf v = none := by simp [wrapOf, hs]
  rw [withdrawRemoved_eq hv hs, withdrawnNotice]
  refine ⟨⟨notify_voices .., notify_clips .., notify_programs .., notify_generations .., notify_now .., fun x => ?_, fun hn => ⟨?_, ?_⟩⟩,
    ⟨.waiting, ?_⟩, fun j => ?_, notify_due .., outsideMatching_notify .., fun b w hb => ?_, fun p => ?_, fun hcan => ?_, fun hn => ?_⟩
  · rw [notify_calls]
    exact tableInsert_tableInsert ..
  · have := notify_length_le 0x82 [f2 h, f4 c.tag.toNat, f2 a, f1 c.queue, f1 1, f1 (agentStateCode (agentOf
      (returnToPlace (setCallRec s h { c with status := .waiting }) a v n) a))]
      (returnToPlace (setCallRec s h { c with status := .waiting }) a v n)
    simp only [returnToPlace_notices, setCallRec_notices] at this
    omega
  · refine (noticesOf_notify_of_ne (k := 0x86) (kind := 0x82) ?_ (by decide) _).trans rfl
    show s.notices.length < 256
    omega
  · rw [callOf_notify, callOf_returnToPlace, callOf_setCallRec_self hc]
  · rw [queueOf_notify, queueOf_returnToPlace, queueOf_setCallRec]
    split
    · next hj => rw [hj]
    · rfl
  · rw [agentOf_notify, agentOf_returnToPlace]
    split
    · next hba =>
      refine ⟨fun e => absurd ?_ hb, fun e => absurd ?_ hb⟩
      · rw [← Option.some.inj e]; rfl
      · rw [hba, hv] at e
        rw [← Option.some.inj e, hw]
    · exact Iff.rfl
  · rw [notify_agents, returnToPlace_agents]
    refine countP_tableInsert_of_false (wrapHas p) s.agents a (fun w hw' => ?_) rfl
    obtain rfl : v = w := Option.some.inj (hv.symm.trans hw')
    simp [wrapHas, hw]
  · rw [notify_agents, returnToPlace_agents]
    exact tableRising_tableInsert _ _ hcan.2.2.2.1
  · refine (noticesOf_notify_of_ne (k := 0x85) (kind := 0x82) ?_ (by decide) _).trans rfl
    show s.notices.length < 256
    omega

/-! ### Off the voice, counted, freed and evaluated (R24, steps 2 to 5) -/

/-- The steps of REMOVE after the call has left its place. -/
def removed (h : Nat) (q : Nat) (f : Counters → Counters) (t : State) : State :=
  evalSurge q (freeCall (count (detach h t) q f) h)

theorem evalSurge_voices (q : Nat) (s : State) : (evalSurge q s).voices = s.voices := by
  simpa [outsideMatching] using congrArg State.voices (outsideMatching_evalSurge q s)

theorem evalSurge_clips (q : Nat) (s : State) : (evalSurge q s).clips = s.clips := by
  simpa [outsideMatching] using congrArg State.clips (outsideMatching_evalSurge q s)

theorem evalSurge_arrivals (q : Nat) (s : State) : (evalSurge q s).arrivals = s.arrivals := by
  simpa [outsideMatching] using congrArg State.arrivals (outsideMatching_evalSurge q s)

theorem callOf_removed_of_ne {h k : Nat} (hk : slotOf k ≠ slotOf h) (q : Nat) (f : Counters → Counters) (t : State) :
    callOf (removed h q f t) k = callOf (detach h t) k := by
  rw [removed, callOf_evalSurge, callOf_freeCall_of_ne _ hk, callOf_count]

theorem callOf_removed_self (h q : Nat) (f : Counters → Counters) (t : State) : callOf (removed h q f t) h = none := by
  rw [removed, callOf_evalSurge, callOf_freeCall_of_eq _ rfl]

section
variable {s t : State} {h : Nat} {c : Call} {wait : List Nat} (m : PlaceLeft s t h c wait) (f : Counters → Counters)
include m

theorem PlaceLeft.queueOf_freed (j : Nat) : queueOf (freeCall (count (detach h t) c.queue f) h) j =
    if j = c.queue then { queueOf s c.queue with waiting := wait, counters := f (queueOf s c.queue).counters } else queueOf s j := by
  rw [queueOf_freeCall, queueOf_count, (audioOnly_detach h t).queueOf, (audioOnly_detach h t).queueOf, m.queue, m.queue, if_pos rfl]
  split <;> rfl

theorem PlaceLeft.beforeSurge : BeforeSurge s (freeCall (count (detach h t) c.queue f) h) c.queue := by
  have audio := audioOnly_detach h t
  refine ⟨by rw [m.queueOf_freed, if_pos rfl], by rw [m.queueOf_freed, if_pos rfl], audio.now.trans m.audio.now, fun a v hv => ?_,
    congrArg DueWork.wraps (audio.due.trans m.due), fun hcan => ⟨?_, fun p => ?_⟩, fun hn => ?_⟩
  · rw [agentOf_freeCall, agentOf_count, audio.agentOf, m.wraps a v hv]
  · show tableRising (detach h t).agents = true
    rw [audio.agents]
    exact m.rising hcan
  · show ((detach h t).agents.countP fun e => wrapHas p e.2) = _
    rw [audio.agents, m.counted]
  · obtain ⟨hl, -⟩ := m.audio.notices hn
    obtain ⟨l, hlen, hkind, e⟩ := detach_notices (show t.notices.length < 256 by omega) h
    refine ⟨?_, ?_⟩
    · show (detach h t).notices.length < 256
      rw [e, List.length_append]
      omega
    · show noticesOf 0x85 (detach h t) = _
      have hother : (l.filter fun x => x.kind == 0x85) = [] := List.filter_eq_nil_iff.2 fun x hx => by simp [hkind x hx]
      rw [noticesOf, e, List.filter_append, hother, List.append_nil]
      exact m.notices hn

/-- What REMOVE leaves, but for the agent that is matched. -/
theorem PlaceLeft.surgeEvaluated : SurgeEvaluated s (removed h c.queue f t) c.queue :=
  surgeEvaluated_of (m.beforeSurge f) (.refl ..)

theorem PlaceLeft.queueOf_removed : ∃ b, queueOf (removed h c.queue f t) c.queue =
    { queueOf s c.queue with waiting := wait, counters := f (queueOf s c.queue).counters, surge := b } := by
  have e := (evalSurge_spec c.queue (freeCall (count (detach h t) c.queue f) h)).1 c.queue
  rw [if_pos rfl, m.queueOf_freed, if_pos rfl] at e
  exact ⟨_, e⟩

theorem PlaceLeft.queueOf_removed_of_ne {q : Nat} (hq : q ≠ c.queue) : queueOf (removed h c.queue f t) q = queueOf s q := by
  rw [removed, queueOf_evalSurge_of_ne _ hq, m.queueOf_freed, if_neg hq]

theorem PlaceLeft.takenOff : TakenOffVoice s (removed h c.queue f t) h c := by
  obtain ⟨st, hst⟩ := m.call
  refine (takenOffVoice_detach m.audio hst ⟨st, rfl⟩).after ((evalSurge_voices ..).trans rfl) ((evalSurge_clips ..).trans rfl)
    (fun k hk => callOf_removed_of_ne hk ..) fun hn => ?_
  obtain ⟨-, -, hnotices⟩ := evalSurge_moves (freeCall (count (detach h t) c.queue f) h) c.queue
  obtain ⟨hroom, -⟩ := (m.beforeSurge f).notices hn
  have hother (b : Bool) (r : State) : ((if b then [surgeFrame r c.queue] else []).filter fun x => x.kind == 0x86) = [] := by
    cases b <;> simp [surgeFrame]
  rw [noticesOf, removed, hnotices hroom, List.filter_append, hother, List.append_nil]
  rfl

theorem PlaceLeft.mem_notices (hn : s.notices.length < 250) {x : OutFrame} (hx : x ∈ t.notices) :
    x ∈ (removed h c.queue f t).notices := by
  obtain ⟨-, -, hnotices⟩ := evalSurge_moves (freeCall (count (detach h t) c.queue f) h) c.queue
  obtain ⟨hroom, -⟩ := (m.beforeSurge f).notices hn
  obtain ⟨hl, -⟩ := m.audio.notices hn
  obtain ⟨l, -, -, e⟩ := detach_notices (show t.notices.length < 256 by omega) h
  rw [removed, hnotices hroom]
  refine List.mem_append_left _ ?_
  show x ∈ (detach h t).notices
  rw [e]
  exact List.mem_append_left _ hx

/-- What both forms of REMOVE leave, and keep. -/
theorem PlaceLeft.kept : let u := removed h c.queue f t
    generationOf u (slotOf h) = (generationOf s (slotOf h) + 1) % 32 ∧ withoutWraps u.due = withoutWraps s.due ∧
      withoutTraffic (queueOf u c.queue) = withoutTraffic (queueOf s c.queue) ∧
      (queueOf u c.queue).waiting = wait ∧ (queueOf u c.queue).counters = f (queueOf s c.queue).counters ∧
      (∀ k, slotOf k ≠ slotOf h → (callOf u k).map withoutAudio = (callOf s k).map withoutAudio) ∧
      (∀ b, (agentOf u b).map withoutDeadline = (agentOf t b).map withoutDeadline) ∧ u.readyList = t.readyList ∧
      u.readies = t.readies ∧ u.arrivals = s.arrivals ∧ outsideTraffic u = outsideTraffic s := by
  intro u
  have hu : u = evalSurge c.queue (freeCall (count (detach h t) c.queue f) h) := rfl
  have audio := audioOnly_detach h t
  obtain ⟨-, hagents, -, hready, hreadies, hoffers, hcool, hsurge, -, hout⟩ :=
    evalSurge_spec c.queue (freeCall (count (detach h t) c.queue f) h)
  obtain ⟨b, hq⟩ := m.queueOf_removed f
  refine ⟨?_, ?_, by rw [hq]; rfl, by rw [hq], by rw [hq], fun k hk => ?_, fun b => ?_, hready.trans audio.readyList,
    hreadies.trans audio.readies, ?_, ?_⟩
  · rw [hu, generationOf_evalSurge, generationOf_freeCall,
      if_pos rfl, generationOf_count]
    simp only [generationOf, audio.generations, m.audio.generations]
  · have hdue : (freeCall (count (detach h t) c.queue f) h).due = s.due := audio.due.trans m.due
    rw [withoutWraps, withoutWraps, hu, hoffers, hcool,
      hsurge, hdue]
  · rw [callOf_removed_of_ne hk, audio.callOf, m.audio.callOf (c := c) hk]
  · rw [hu, hagents, agentOf_freeCall, agentOf_count, audio.agentOf]
  · rw [hu, evalSurge_arrivals, freeCall_arrivals, count_arrivals, audio.arrivals]
    exact (congrArg State.arrivals m.outside :)
  · rw [hu, outsideTraffic_of_matching hout, outsideTraffic_freeCall, outsideTraffic_count, outsideTraffic_of_audio audio,
      outsideTraffic_of_matching m.outside]

end

/-! ### REMOVE -/

theorem countRemoved_one : countRemoved 1 = fun k => { k with abandoned := sat16 (k.abandoned + 1) } := rfl

theorem countRemoved_two : countRemoved 2 = fun k => { k with withdrawn := sat16 (k.withdrawn + 1) } := rfl

/-- Settles O36: the call leaves its place, and then what both forms share. -/
theorem removeFreesTheCall : Obligations.RemoveFreesTheCall := by
  intro h cause c s ht hs hc
  refine ⟨fun h1 h2 => ?_, fun hcause => ?_⟩
  · refine exec_service ht hs rfl rfl ?_
    have h1' : cause.toNat ≠ 1 := fun e => h1 (BitVec.eq_of_toNat_eq e)
    have h2' : cause.toNat ≠ 2 := fun e => h2 (BitVec.eq_of_toNat_eq e)
    rw [handleRemove, withCall_of_some hc, if_pos ⟨h1', h2'⟩]
    rfl
  have hcause' : ¬ (cause.toNat ≠ 1 ∧ cause.toNat ≠ 2) := by rcases hcause with rfl | rfl <;> decide
  refine ⟨fun t hst => ?_, fun hst => ?_, fun a d v n hst hv hvs => ?_⟩
  · refine exec_service ht hs rfl rfl ?_
    rw [handleRemove, withCall_of_some hc, if_neg hcause', hst]
    rfl
  · have m := placeLeft_leaveList hc
    obtain ⟨hgen, hdue, htraffic, hwait, hcount, hcalls, hagents, hready, -, harr, hout⟩ := m.kept (countRemoved cause)
    refine ⟨removed h.toNat c.queue (countRemoved cause) (leaveList s h.toNat c.queue), exec_service ht hs rfl rfl ?_,
      callOf_removed_self .., hgen, hwait, fun e => ?_, fun e => ?_, m.surgeEvaluated _, m.takenOff _, hdue, htraffic,
      fun q hq => m.queueOf_removed_of_ne _ hq, hcalls, hagents, hready, harr, hout⟩
    · rw [handleRemove, withCall_of_some hc, if_neg hcause']
      cases hs' : c.status with
      | waiting => simp only [removeCall, leavePlace, hs', removed]
      | diverting b => simp only [removeCall, leavePlace, hs', removed]
      | offered a d => simp [isWaiting, isDiverting, hs'] at hst
      | connected t => simp [isWaiting, isDiverting, hs'] at hst
    · rw [hcount, e, countRemoved_one]; rfl
    · rw [hcount, e, countRemoved_two]; rfl
  · have m := placeLeft_withdrawRemoved hc hv hvs
    obtain ⟨-, hdue, htraffic, hwait, hcount, hcalls, hagents, hready, hreadies, -, hout⟩ := m.kept (countRemoved cause)
    have eqn := withdrawRemoved_eq (c := c) hv hvs
    have hat : agentOf (withdrawRemoved h.toNat a c s) a = some { v with status := .ready n none } := by
      rw [eqn, withdrawnNotice, agentOf_notify, agentOf_returnToPlace, if_pos rfl]
    refine ⟨removed h.toNat c.queue (countRemoved cause) (withdrawRemoved h.toNat a c s), exec_service ht hs rfl rfl ?_,
      callOf_removed_self .., ?_, ?_, m.surgeEvaluated _, m.takenOff _, hdue, htraffic, ?_, hwait, fun e => ?_, fun e => ?_,
      fun hn => m.mem_notices _ hn ?_, hcalls, fun b hb => ?_, fun q hq => m.queueOf_removed_of_ne _ hq, hout⟩
    · rw [handleRemove, withCall_of_some hc, if_neg hcause']
      simp only [removeCall, leavePlace, hst, removed, callStateCode]
    · refine agentOf_evalSurge_of_not_wrap ?_ rfl _
      rw [agentOf_freeCall, agentOf_count, (audioOnly_detach ..).agentOf, hat]
    · rw [hready, eqn, withdrawnNotice, notify_readyList, returnToPlace_readyList, mem_readyInsert]
      exact .inl rfl
    · rw [hreadies, eqn, withdrawnNotice, notify_readies]
      rfl
    · rw [hcount, e, countRemoved_one]; rfl
    · rw [hcount, e, countRemoved_two]; rfl
    · rw [eqn, withdrawnNotice, notify_of_lt, agentOf_returnToPlace, if_pos rfl]
      · exact List.mem_append_right _ (List.mem_singleton.2 rfl)
      · show s.notices.length < 256
        omega
    · rw [hagents, eqn, withdrawnNotice, agentOf_notify, agentOf_returnToPlace, if_neg hb]
      rfl

end Sys2Proof.Machine
end

-- ==== Sys2Proof/Proofs/Diverting ====
section
/-! DIVERT and CANCEL DIVERT (R153 to R155). -/

namespace Sys2Proof.Machine

/-! ### Use counts (R121) -/

theorem clipOf_changeUse (s : State) (k : Nat) (f : Nat → Nat) (j : Nat) : clipOf (changeUse s k f) j =
    if j = k then (clipOf s j).map fun c => { c with useCount := f c.useCount } else clipOf s j := by
  unfold changeUse
  split
  · next c hc =>
    rw [clipOf_setClipRec]
    split
    · next hj => rw [hj, hc]; rfl
    · rfl
  · next hc =>
    split
    · next hj => rw [hj, hc]; rfl
    · rfl

/-- A voice that takes a clip takes one use of it. -/
theorem clipOf_takeUse (s : State) (k j : Nat) : clipOf (takeUse s k) j = (clipOf s j).map (movedUse none (some k) j) := by
  rw [takeUse, clipOf_changeUse]
  by_cases hj : j = k
  · subst hj
    cases clipOf s j <;> simp [movedUse]
  · have hk : k ≠ j := Ne.symm hj
    cases clipOf s j <;> simp [movedUse, hj, hk]

/-- A voice that goes from one clip to another moves one use. -/
theorem clipOf_moveUse {old new : Nat} (hne : new ≠ old) (s : State) (j : Nat) :
    clipOf (moveUse s old new) j = (clipOf s j).map (movedUse (some old) (some new) j) := by
  rw [moveUse, if_neg hne.symm, clipOf_takeUse, giveUse, clipOf_changeUse]
  by_cases hj : j = old
  · subst hj
    cases clipOf s j <;> simp [movedUse]
  · have hk : old ≠ j := Ne.symm hj
    cases clipOf s j <;> simp [movedUse, hj, hk]

theorem moveUse_self (s : State) (k : Nat) : moveUse s k k = s := if_pos rfl

theorem changeUse_voices (s : State) (k : Nat) (f : Nat → Nat) : (changeUse s k f).voices = s.voices := by
  unfold changeUse; split <;> rfl

theorem changeUse_calls (s : State) (k : Nat) (f : Nat → Nat) : (changeUse s k f).calls = s.calls := by
  unfold changeUse; split <;> rfl

theorem moveUse_voices (s : State) (old new : Nat) : (moveUse s old new).voices = s.voices := by
  unfold moveUse; split
  · rfl
  · rw [takeUse, changeUse_voices, giveUse, changeUse_voices]

theorem moveUse_notices (s : State) (old new : Nat) : (moveUse s old new).notices = s.notices := by
  unfold moveUse; split
  · rfl
  · rw [takeUse, changeUse_notices, giveUse, changeUse_notices]

/-! ### A voice goes on to a clip, or starts one -/

section
variable (v : Nat) (r : Voice) (segment : Segment) (i k : Nat) (s : State)

theorem voiceOf_nextClip (w : Nat) : voiceOf (nextClip v r segment i k s) w =
    if w = v then some { r with segment := segment, loopIndex := i, clip := k, offset := 0 } else voiceOf s w := by
  rw [nextClip, voiceOf_setVoiceRec, voiceOf, moveUse_voices]
  rfl

theorem clipOf_nextClip {k : Nat} (hk : k ≠ r.clip) (j : Nat) :
    clipOf (nextClip v r segment i k s) j = (clipOf s j).map (movedUse (some r.clip) (some k) j) := by
  rw [nextClip, clipOf_setVoiceRec, clipOf_moveUse hk]

theorem nextClip_clips_of_same : (nextClip v r segment i r.clip s).clips = s.clips := by
  rw [nextClip, moveUse_self]; rfl

theorem nextClip_notices : (nextClip v r segment i k s).notices = s.notices := moveUse_notices ..

theorem oneCallAudio_nextClip (h : Nat) : OneCallAudio h s (nextClip v r segment i k s) := by
  refine OneCallAudio.trans (t := moveUse s r.clip k) ?_ (oneCallAudio_setVoiceRec ..)
  unfold moveUse
  split
  · exact .refl h s
  · exact (oneCallAudio_changeUse ..).trans (oneCallAudio_changeUse ..)

end

theorem moveUse_calls (s : State) (old new : Nat) : (moveUse s old new).calls = s.calls := by
  unfold moveUse; split
  · rfl
  · rw [takeUse, changeUse_calls, giveUse, changeUse_calls]

theorem callOf_congr {s t : State} (hc : t.calls = s.calls) (hg : t.generations = s.generations) (h : Nat) : callOf t h = callOf s h := by
  rw [callOf, callOf, generationOf, generationOf, hc, hg]

theorem callOf_nextClip (v : Nat) (r : Voice) (segment : Segment) (i k : Nat) (s : State) (h : Nat) :
    callOf (nextClip v r segment i k s) h = callOf s h :=
  callOf_congr (moveUse_calls ..) (audioOnly_nextClip v r segment i k s).generations h

theorem voiceOf_startVoice (s : State) (v p : Nat) (mode : VoiceMode) (segment : Segment) (i k w : Nat) :
    voiceOf (startVoice s v p mode segment i k) w = if w = v then
      some { program := p, mode := mode, segment := segment, loopIndex := i, clip := k, offset := 0 } else voiceOf s w := by
  rw [startVoice, takeUse, voiceOf, changeUse_voices]
  exact voiceOf_setVoiceRec ..

theorem clipOf_startVoice (s : State) (v p : Nat) (mode : VoiceMode) (segment : Segment) (i k j : Nat) :
    clipOf (startVoice s v p mode segment i k) j = (clipOf s j).map (movedUse none (some k) j) := by
  rw [startVoice, clipOf_takeUse, clipOf_setVoiceRec]

theorem callOf_startVoice (s : State) (v p : Nat) (mode : VoiceMode) (segment : Segment) (i k h : Nat) :
    callOf (startVoice s v p mode segment i k) h = callOf s h :=
  callOf_congr (changeUse_calls ..) (audioOnly_startVoice s v p mode segment i k).generations h

/-! ### The record of a call that is taken off its voice -/

/-- The record of a call taken off its voice. -/
def offVoice (c : Call) : Call := { c with voice := none, announceDue := if c.voice.isSome then none else c.announceDue }

theorem offVoice_of_no_voice {c : Call} (hv : c.voice = none) : offVoice c = c := by
  cases c
  cases hv
  rfl

/-- A freed voice is handed to silent calls alone. -/
theorem callOf_handVoice_of_not_silent {s : State} {h : Nat} {c : Call} (hc : callOf s h = some c) (hs : c.awaitingVoice = false)
    (v : Nat) : callOf (handVoice v s) h = some c := by
  rw [handVoice_eq]
  cases (oldestSilent s.calls).bind (·.program) with
  | none => exact hc
  | some p =>
    simp only
    rw [callOf_notify, callOf_startVoice]
    rw [callOf_eq_some] at hc ⊢
    refine ⟨hc.1, ?_⟩
    have hmap : s.calls.map (handed v p) = s.calls.map fun e =>
        (e.1, if silentFor p e.2 then { e.2 with voice := some v, awaitingVoice := false } else e.2) :=
      List.map_congr_left fun e _ => by unfold handed; split <;> rfl
    have hfind := tableFind_map s.calls
      (fun _ c => if silentFor p c then { c with voice := some v, awaitingVoice := false } else c) (slotOf h)
    show tableFind (s.calls.map (handed v p)) (slotOf h) = some c
    rw [hmap, hfind, hc.2]
    simp [silentFor, hs]

theorem callOf_freeVoice_of_not_silent {s : State} {h : Nat} {c : Call} (hc : callOf s h = some c) (hs : c.awaitingVoice = false)
    (v : Nat) : callOf (freeVoice v s) h = some c := by
  unfold freeVoice
  split
  · exact hc
  · refine callOf_handVoice_of_not_silent ?_ hs v
    rw [← hc]
    exact callOf_congr (changeUse_calls ..) (audioOnly_giveUse ..).generations h

theorem callOf_detach_self {s : State} {h : Nat} {c : Call} (hc : callOf s h = some c) (hs : c.awaitingVoice = false) :
    callOf (detach h s) h = some (offVoice c) := by
  cases hv : c.voice with
  | none => rw [detach_of_no_voice hc hv, hc, offVoice_of_no_voice hv]
  | some v =>
    have hoff : callOf (setCallRec s h { c with voice := none, announceDue := none }) h = some (offVoice c) := by
      rw [callOf_setCallRec_self hc, offVoice, hv]; rfl
    have hsilent : (offVoice c).awaitingVoice = false := hs
    simp only [detach, hc, hv]
    split
    · exact hoff
    · split
      · exact callOf_freeVoice_of_not_silent hoff hsilent _
      · split
        · exact callOf_freeVoice_of_not_silent hoff hsilent _
        · exact hoff

/-! ### The divert at once (R153, R154) -/

/-- The state in which a divert that is done has its notice. -/
def divertNotified (s : State) (h : Nat) (c : Call) (played : Bool) : State :=
  notify 0x87 [f2 h, f4 c.tag.toNat, f1 c.queue, f1 (bit played)] s

theorem divertDone_eq {s : State} {h : Nat} {c : Call} (hc : callOf s h = some c) (hd : isDiverting c = true)
    (hs : c.awaitingVoice = false) (played : Bool) : divertDone h played s =
      setCallRec (detach h (divertNotified s h c played)) h { offVoice c with status := .diverting true } := by
  have hn : callOf (divertNotified s h c played) h = some c := (callOf_notify ..).trans hc
  have he := callOf_detach_self hn hs
  simp only [divertDone, hc, hd, if_true]
  rw [← divertNotified, he]

theorem callOf_divertDone {s : State} {h : Nat} {c : Call} (hc : callOf s h = some c) (hd : isDiverting c = true)
    (hs : c.awaitingVoice = false) (played : Bool) :
    callOf (divertDone h played s) h = some { offVoice c with status := .diverting true } := by
  have hn : callOf (divertNotified s h c played) h = some c := (callOf_notify ..).trans hc
  rw [divertDone_eq hc hd hs, callOf_setCallRec_self (callOf_detach_self hn hs)]

/-- The notice of a divert that is done is queued. -/
theorem mem_divertDone_notices {s : State} {h : Nat} {c : Call} (hc : callOf s h = some c) (hd : isDiverting c = true)
    (hs : c.awaitingVoice = false) (played : Bool) (hn : s.notices.length < 255) :
    { frameClass := 4, kind := 0x87, body := [f4 s.now.toNat, f2 h, f4 c.tag.toNat, f1 c.queue, f1 (bit played)] } ∈
      (divertDone h played s).notices := by
  have hlen : (divertNotified s h c played).notices.length ≤ s.notices.length + 1 := notify_length_le ..
  obtain ⟨l, -, -, e⟩ := detach_notices (s := divertNotified s h c played) (by omega) h
  rw [divertDone_eq hc hd hs, setCallRec_notices, e, divertNotified, notify_of_lt (by omega)]
  exact List.mem_append_left _ (List.mem_append_right _ (List.mem_singleton.2 rfl))

/-- A divert done at once takes the call off its voice. -/
theorem takenOffVoice_divertDone {s : State} {h : Nat} {b c : Call} (hb : callOf s h = some b) (hd : isDiverting c = true)
    (hs : c.awaitingVoice = false) : TakenOffVoice s (divertDone h false (setCallRec s h c)) h c := by
  have hc : callOf (setCallRec s h c) h = some c := callOf_setCallRec_self hb c
  have kept : AudioKept h s (divertNotified (setCallRec s h c) h c false) := by
    refine ⟨notify_voices .., notify_clips .., notify_programs .., notify_generations .., notify_now .., fun x => ?_, fun hn => ⟨?_, ?_⟩⟩
    · rw [divertNotified, notify_calls]
      exact tableInsert_tableInsert ..
    · have hlen : (divertNotified (setCallRec s h c) h c false).notices.length ≤ s.notices.length + 1 := notify_length_le ..
      omega
    · refine (noticesOf_notify_of_ne (k := 0x86) (kind := 0x87) ?_ (by decide) _).trans rfl
      show s.notices.length < 256
      omega
  have hn : callOf (divertNotified (setCallRec s h c) h c false) h = some c := (callOf_notify ..).trans hc
  rw [divertDone_eq hc hd hs]
  exact (takenOffVoice_detach kept hn ⟨c.status, rfl⟩).after rfl rfl (fun k hk => callOf_setCallRec_of_ne _ _ hk) fun _ => rfl

/-! ### The exit of a diverting call (R153) -/

theorem exitOf_eq_some (s : State) (c : Call) (p k : Nat) : exitOf s c = some (p, k) ↔
    c.program = some p ∧ ∃ r, programOf s p = some r ∧ r.exitClip = some k := by
  simp only [exitOf, Option.bind_eq_some_iff, Option.map_eq_some_iff, Prod.mk.injEq]
  constructor
  · rintro ⟨p', hp, r, hr, k', hk, rfl, rfl⟩
    exact ⟨hp, r, hr, hk⟩
  · rintro ⟨hp, r, hr, hk⟩
    exact ⟨p, hp, r, hr, k, hk, rfl, rfl⟩

/-- A call in its diverting state, before its exit is looked for. -/
def diverting (c : Call) : Call := { c with status := .diverting false, awaitingVoice := false }

/-- The state in which the exit is looked for. -/
def divertStart (s : State) (h : Nat) (c : Call) : State := setCallRec s h (diverting c)

section
variable {s : State} {h : Nat} {c : Call}

theorem divertExit_atOnce (hno : exitOf s c = none ∨ c.voice = none) :
    divertExit h (diverting c) (divertStart s h c) = divertDone h false (divertStart s h c) := by
  unfold divertExit
  split
  · next p k v r hexit hvoice =>
    rcases hno with hno | hno
    · exact absurd (hno.symm.trans hexit) (by simp)
    · rw [show (diverting c).voice = none from hno] at hvoice
      cases hvoice
  · rfl

theorem divertExit_private {p k v : Nat} {r : Voice} {g : Nat} (hexit : exitOf s c = some (p, k)) (hv : c.voice = some v)
    (hr : voiceOf s v = some r) (hm : r.mode = .private_ g) :
    divertExit h (diverting c) (divertStart s h c) = nextClip v r .exit r.loopIndex k (divertStart s h c) := by
  have hexit' : exitOf (divertStart s h c) (diverting c) = some (p, k) := hexit
  have hr' : ((diverting c).voice.bind fun v => (voiceOf (divertStart s h c) v).map fun r => (v, r)) = some (v, r) := by
    rw [show (diverting c).voice = some v from hv, Option.bind_some, show voiceOf (divertStart s h c) v = some r from hr]
    rfl
  simp only [divertExit, hexit', hr', hm]

theorem divertExit_shared {p k v : Nat} {r : Voice} {n : Nat} (hexit : exitOf s c = some (p, k)) (hv : c.voice = some v)
    (hr : voiceOf s v = some r) (hm : r.mode = .shared n) :
    divertExit h (diverting c) (divertStart s h c) = divertFromShared h p k (divertStart s h c) := by
  have hexit' : exitOf (divertStart s h c) (diverting c) = some (p, k) := hexit
  have hr' : ((diverting c).voice.bind fun v => (voiceOf (divertStart s h c) v).map fun r => (v, r)) = some (v, r) := by
    rw [show (diverting c).voice = some v from hv, Option.bind_some, show voiceOf (divertStart s h c) v = some r from hr]
    rfl
  simp only [divertExit, hexit', hr', hm]

theorem callOf_divertStart (hc : callOf s h = some c) : callOf (divertStart s h c) h = some (diverting c) := callOf_setCallRec_self hc _

theorem callOf_detach_divertStart (hc : callOf s h = some c) : callOf (detach h (divertStart s h c)) h = some (offVoice (diverting c)) :=
  callOf_detach_self (callOf_divertStart hc) rfl

end

/-- The voice taken for an exit, in the state `w` in which the call has left its shared voice. -/
def exitStarted (w : State) (h p k x : Nat) (d : Call) : State :=
  startVoice { setCallRec w h d with freeDraws := w.freeDraws + 1 } x p (.private_ h) .exit (Config.unstatedLoopIndex w.freeDraws).val k

theorem divertFromShared_of_free {s : State} {h p k x : Nat} {c : Call} (hc : callOf (detach h s) h = some c)
    (hx : lowestFreeVoice (detach h s) = some x) : divertFromShared h p k s =
      exitStarted (detach h s) h p k x { c with voice := some x, announceDue := some (firstDue (detach h s) c.queue) } := by
  simp only [divertFromShared, hc, hx]
  rfl

theorem divertFromShared_of_none {s : State} {h p k : Nat} (hx : lowestFreeVoice (detach h s) = none) :
    divertFromShared h p k s = divertDone h false (detach h s) := by
  unfold divertFromShared
  dsimp only
  split
  · next c v hc hv => exact absurd (hx.symm.trans hv) (by simp)
  · rfl

/-- From `s` to `t` the audio side alone has moved, but for the count of free values drawn. -/
def AudioOrDraw (s t : State) : Prop := AudioOnly s { t with freeDraws := s.freeDraws }

theorem audioOrDraw_of_audio {s t : State} (h : AudioOnly s t) : AudioOrDraw s t := by
  have hd : t.freeDraws = s.freeDraws := by simpa [outsideAudio] using congrArg State.freeDraws h.1
  have e : { t with freeDraws := s.freeDraws } = t := by rw [← hd]
  rw [AudioOrDraw, e]
  exact h

theorem audioOrDraw_exitStarted {w : State} {h : Nat} {b d : Call} (hb : callOf w h = some b) (hd : withoutAudio d = withoutAudio b)
    (p k x : Nat) : AudioOrDraw w (exitStarted w h p k x d) := by
  obtain ⟨h1, h2, h3⟩ := audioOnly_startVoice { setCallRec w h d with freeDraws := w.freeDraws + 1 } x p (.private_ h) .exit
    (Config.unstatedLoopIndex w.freeDraws).val k
  obtain ⟨g1, g2, g3⟩ := audioOnly_setCallRec hb hd
  refine ⟨?_, fun slot => (h2 slot).trans (g2 slot), fun j => (h3 j).trans (g3 j)⟩
  calc outsideAudio { exitStarted w h p k x d with freeDraws := w.freeDraws }
      = { outsideAudio (exitStarted w h p k x d) with freeDraws := w.freeDraws } := rfl
    _ = { outsideAudio { setCallRec w h d with freeDraws := w.freeDraws + 1 } with freeDraws := w.freeDraws } := by
      rw [exitStarted, h1]
    _ = outsideAudio w := g1

theorem AudioOrDraw.after {s t u : State} (h : AudioOnly s t) (h' : AudioOrDraw t u) : AudioOrDraw s u := by
  have hd : t.freeDraws = s.freeDraws := by simpa [outsideAudio] using congrArg State.freeDraws h.1
  rw [AudioOrDraw, ← hd]
  exact h.trans h'

theorem audioOrDraw_divertExit {s : State} {h : Nat} {c : Call} (hc : callOf s h = some c) :
    AudioOrDraw (divertStart s h c) (divertExit h (diverting c) (divertStart s h c)) := by
  unfold divertExit
  split
  · next p k v r hexit hvoice =>
    split
    · exact audioOrDraw_of_audio (audioOnly_nextClip ..)
    · have hd := callOf_detach_divertStart hc
      cases hx : lowestFreeVoice (detach h (divertStart s h c)) with
      | none =>
        rw [divertFromShared_of_none hx]
        exact audioOrDraw_of_audio ((audioOnly_detach ..).trans (audioOnly_divertDone ..))
      | some x =>
        rw [divertFromShared_of_free hd hx]
        refine AudioOrDraw.after (audioOnly_detach ..) (audioOrDraw_exitStarted hd ?_ p k x)
        rfl
  · exact audioOrDraw_of_audio (audioOnly_divertDone ..)

theorem AudioOrDraw.callOf {s t : State} (h : AudioOrDraw s t) (k : Nat) :
    (callOf t k).map withoutAudio = (callOf s k).map withoutAudio := AudioOnly.callOf h k

theorem callOf_exitStarted {w : State} {h : Nat} {b : Call} (hb : callOf w h = some b) (p k x : Nat) (d : Call) :
    callOf (exitStarted w h p k x d) h = some d := by
  rw [exitStarted, callOf_startVoice]
  exact callOf_setCallRec_self hb d

/-- What becomes of the record of a call that is diverted. -/
theorem callOf_divertExit {s : State} {h : Nat} {c : Call} (hc : callOf s h = some c) : ∃ d,
    callOf (divertExit h (diverting c) (divertStart s h c)) h = some d ∧ isDiverting d = true ∧ d.awaitingVoice = false := by
  have hstart := callOf_divertStart hc
  unfold divertExit
  split
  · next p k v r hexit hvoice =>
    split
    · exact ⟨diverting c, by rw [callOf_nextClip, hstart], rfl, rfl⟩
    · have hd := callOf_detach_divertStart hc
      cases hx : lowestFreeVoice (detach h (divertStart s h c)) with
      | none =>
        rw [divertFromShared_of_none hx, callOf_divertDone hd rfl rfl]
        exact ⟨_, rfl, rfl, rfl⟩
      | some x =>
        rw [divertFromShared_of_free hd hx, callOf_exitStarted hd]
        exact ⟨_, rfl, rfl, rfl⟩
  · rw [callOf_divertDone hstart rfl rfl]
    exact ⟨_, rfl, rfl, rfl⟩

theorem handleDivert_of_waiting {h : BitVec 16} {s : State} {c d : Call} (hc : callOf s h.toNat = some c) (hw : isWaiting c = true)
    (hd : callOf (divertExit h.toNat (diverting c) (divertStart s h.toNat c)) h.toNat = some d) :
    handleDivert h s = (divertExit h.toNat (diverting c) (divertStart s h.toNat c),
      .accept false [f2 h.toNat, f1 (if d.voice.isSome then 1 else 0), f1 (d.voice.getD 255)]) := by
  have hst := (isWaiting_eq_true c).1 hw
  have e : handleDivert h s =
      (let t := divertExit h.toNat (diverting c) (divertStart s h.toNat c)
       let voice := (callOf t h.toNat).bind (·.voice)
       (t, .accept false [f2 h.toNat, f1 (bit voice.isSome), f1 (orElse voice 255)])) := by
    rw [handleDivert, withCall_of_some hc, hst]
    rfl
  rw [e]
  simp only [hd, Option.bind_some, orElse, bit]

theorem wrong_divert {h : BitVec 16} {s : State} {c : Call} (hc : callOf s h.toNat = some c) (hw : isWaiting c = false) :
    handleDivert h s = (s, .refuse .wrongState 1 (callStateCode c.status)) := by
  rw [handleDivert, withCall_of_some hc]
  cases hst : c.status with
  | waiting => simp [isWaiting, hst] at hw
  | diverting b => rfl
  | offered a d => rfl
  | connected t => rfl

theorem wrong_cancelDivert {h : BitVec 16} {s : State} {c : Call} (hc : callOf s h.toNat = some c) (hw : isDiverting c = false) :
    handleCancelDivert h s = (s, .refuse .wrongState 1 (callStateCode c.status)) := by
  rw [handleCancelDivert, withCall_of_some hc]
  cases hst : c.status with
  | diverting b => simp [isDiverting, hst] at hw
  | waiting => rfl
  | offered a d => rfl
  | connected t => rfl

/-- The state of CANCEL DIVERT before matching (R155). -/
def divertCancelled (s : State) (h : Nat) (c : Call) : State :=
  cancelVoice h { c with status := .waiting } (setCallRec s h { c with status := .waiting })

theorem handleCancelDivert_of_diverting {h : BitVec 16} {s : State} {c d : Call} (hc : callOf s h.toNat = some c)
    (hw : isDiverting c = true) (hd : callOf (divertCancelled s h.toNat c) h.toNat = some d) :
    handleCancelDivert h s = (matchCall h.toNat (divertCancelled s h.toNat c), .accept false
      [f2 h.toNat, f1 (d.voice.getD 255), f1 (if d.awaitingVoice then 1 else 0),
        f1 (bit (offeredNow (matchCall h.toNat (divertCancelled s h.toNat c)) h.toNat))]) := by
  have e : handleCancelDivert h s =
      (let t := divertCancelled s h.toNat c
       (matchCall h.toNat t, .accept false [f2 h.toNat, f1 (orElse ((callOf t h.toNat).bind (·.voice)) 255),
         f1 (bit (((callOf t h.toNat).map (·.awaitingVoice)).getD false)),
         f1 (bit (offeredNow (matchCall h.toNat t) h.toNat))])) := by
    rw [handleCancelDivert, withCall_of_some hc]
    cases hst : c.status with
    | diverting b => rfl
    | waiting => simp [isDiverting, hst] at hw
    | offered a d => simp [isDiverting, hst] at hw
    | connected t => simp [isDiverting, hst] at hw
  rw [e]
  simp only [hd, Option.bind_some, Option.map_some, Option.getD_some, orElse]
  rfl

theorem cancelVoice_of_voice {h : Nat} {s : State} {c : Call} {v : Nat} {r : Voice} {p : Program} (hv : c.voice = some v)
    (hr : voiceOf s v = some r) (hp : programOf s r.program = some p) :
    cancelVoice h c s = nextClip v r .loop 0 (loopClip p 0) s := by
  simp only [cancelVoice, hv, hr, Option.bind_some, hp, Option.map_some]

theorem cancelVoice_of_no_voice {h : Nat} {s : State} {c : Call} (hv : c.voice = none) : cancelVoice h c s = attach h s := by
  simp only [cancelVoice, hv]

theorem audioOnly_cancelVoice (h : Nat) (c : Call) (s : State) : AudioOnly s (cancelVoice h c s) := by
  unfold cancelVoice
  split
  · split
    · exact audioOnly_nextClip ..
    · exact .refl s
  · exact audioOnly_attach ..

theorem oneCallAudio_cancelVoice (h : Nat) (c : Call) (s : State) : OneCallAudio h s (cancelVoice h c s) := by
  unfold cancelVoice
  split
  · split
    · exact oneCallAudio_nextClip ..
    · exact .refl h s
  · exact oneCallAudio_attach ..

/-- What every DIVERT leaves, by the form its exit takes. -/
theorem divert_spec {s : State} {h : Nat} {c : Call} (hc : callOf s h = some c) :
    let u := divertExit h (diverting c) (divertStart s h c)
    u.queues = s.queues ∧ u.agents = s.agents ∧
      (∀ j, slotOf j ≠ slotOf h → (callOf u j).map withoutAudio = (callOf s j).map withoutAudio) ∧
      (∀ j, (clipOf u j).map withoutUse = (clipOf s j).map withoutUse) ∧
      outsideAudio { u with freeDraws := s.freeDraws } = outsideAudio s := by
  intro u
  have m : AudioOrDraw (divertStart s h c) u := audioOrDraw_divertExit hc
  refine ⟨(AudioOnly.queues (show AudioOnly _ _ from m) :), (AudioOnly.agents (show AudioOnly _ _ from m) :), fun j hj => ?_, m.2.2, m.1⟩
  rw [m.callOf, divertStart, callOf_setCallRec_of_ne s _ hj]

/-- Settles O40. -/
theorem divertAndCancelDivert : Obligations.DivertAndCancelDivert := by
  refine ⟨exitOf_eq_some, fun h c s ht hs hc => ⟨fun hw => ?_, fun hw => ?_, fun hw => ?_, fun hw => ?_⟩⟩
  · have hcalls := callOf_divertStart hc
    obtain ⟨d, hd, hdiv, hawait⟩ := callOf_divertExit hc
    have haudio : withoutAudio d = withoutAudio { c with status := .diverting false } := by
      have e := (audioOrDraw_divertExit hc).callOf h.toNat
      rw [hd, hcalls] at e
      exact Option.some.inj e
    refine ⟨_, d, exec_service ht hs rfl rfl (handleDivert_of_waiting hc hw hd), hd, hdiv, hawait, haudio,
      ⟨fun hno => ?atOnce, fun p k v r hexit hv hr hm => ?priv, fun p k v r n hexit hv hr hm => ⟨fun x hx => ?free, fun hx => ?none⟩⟩,
      divert_spec hc⟩
    case atOnce =>
      have e := divertExit_atOnce (h := h.toNat) hno
      have hd' := callOf_divertDone hcalls rfl rfl false
      rw [e] at hd ⊢
      obtain rfl := Option.some.inj (hd.symm.trans hd')
      refine ⟨⟨rfl, rfl, fun hn => ?_⟩, takenOffVoice_divertDone hc rfl rfl⟩
      exact mem_divertDone_notices hcalls rfl rfl false (show s.notices.length < 255 by omega)
    case priv =>
      have e := divertExit_private (h := h.toNat) hexit hv hr hm
      rw [e] at hd ⊢
      rw [callOf_nextClip, hcalls] at hd
      refine ⟨(Option.some.inj hd).symm, nextClip_notices .., by rw [voiceOf_nextClip, if_pos rfl], fun w hne => ?_, fun hk => ?_,
        fun hk j => ?_⟩
      · rw [voiceOf_nextClip, if_neg hne]; rfl
      · rw [hk, nextClip_clips_of_same]; rfl
      · rw [clipOf_nextClip _ _ _ _ _ hk]; rfl
    case free =>
      have e := divertExit_shared (h := h.toNat) hexit hv hr hm
      have hoff := callOf_detach_divertStart hc
      rw [e, divertFromShared_of_free hoff hx] at hd ⊢
      rw [callOf_exitStarted hoff] at hd
      have hdue : firstDue (detach h.toNat (divertStart s h.toNat c)) c.queue = firstDue s c.queue := by
        have audio := audioOnly_detach h.toNat (divertStart s h.toNat c)
        rw [firstDue, firstDue, audio.queueOf, audio.now]
        rfl
      refine ⟨?_, ⟨_, (Config.unstatedLoopIndex (detach h.toNat (divertStart s h.toNat c)).freeDraws).isLt, ?_⟩, fun y hy => ?_,
        fun j => ?_, ?_⟩
      · rw [← Option.some.inj hd, show (offVoice (diverting c)).queue = c.queue from rfl, hdue]
        rfl
      · rw [exitStarted, voiceOf_startVoice, if_pos rfl]
      · rw [exitStarted, voiceOf_startVoice, if_neg hy]
        rfl
      · rw [exitStarted, clipOf_startVoice]
        rfl
      · rw [exitStarted, startVoice_notices]
        rfl
    case none =>
      have e := divertExit_shared (h := h.toNat) hexit hv hr hm
      have hoff := callOf_detach_divertStart hc
      have hd' := callOf_divertDone hoff rfl rfl false
      rw [e, divertFromShared_of_none (s := divertStart s h.toNat c) hx] at hd ⊢
      obtain rfl := Option.some.inj (hd.symm.trans hd')
      have hsame : detach h.toNat (divertNotified (detach h.toNat (divertStart s h.toNat c)) h.toNat (offVoice (diverting c)) false) =
          divertNotified (detach h.toNat (divertStart s h.toNat c)) h.toNat (offVoice (diverting c)) false :=
        detach_of_no_voice ((callOf_notify ..).trans hoff) rfl
      refine ⟨⟨rfl, rfl, fun hn => ?_⟩, ?_, ?_⟩
      · obtain ⟨l, hl, -, el⟩ := detach_notices (s := divertStart s h.toNat c) (show s.notices.length < 256 by omega) h.toNat
        have hlen : (detach h.toNat (divertStart s h.toNat c)).notices.length < 255 := by
          rw [el, List.length_append, show (divertStart s h.toNat c).notices = s.notices from rfl]
          omega
        have hmem := mem_divertDone_notices hoff rfl rfl false hlen
        rw [(audioOnly_detach h.toNat (divertStart s h.toNat c)).now] at hmem
        exact hmem
      · rw [divertDone_eq hoff rfl rfl, hsame, setCallRec_voices, divertNotified, notify_voices]
        rfl
      · rw [divertDone_eq hoff rfl rfl, hsame, setCallRec_clips, divertNotified, notify_clips]
        rfl
  · have hcalls : callOf (setCallRec s h.toNat { c with status := .waiting }) h.toNat = some { c with status := .waiting } :=
      callOf_setCallRec_self hc _
    have audio : AudioOnly _ (divertCancelled s h.toNat c) := audioOnly_cancelVoice ..
    have one : OneCallAudio h.toNat _ (divertCancelled s h.toNat c) := oneCallAudio_cancelVoice ..
    obtain ⟨d, hd, hda⟩ : ∃ d, callOf (divertCancelled s h.toNat c) h.toNat = some d ∧
        withoutAudio d = withoutAudio { c with status := .waiting } := by
      have e := audio.callOf h.toNat
      rw [hcalls] at e
      exact Option.map_eq_some_iff.1 e
    have hdw : isWaiting d = true := by
      have e : (withoutAudio d).status = .waiting := by rw [hda]; rfl
      rw [isWaiting_eq_true]
      cases hst : d.status <;> simp [withoutAudio, hst] at e ⊢
    refine ⟨_, d, exec_service ht hs rfl rfl (handleCancelDivert_of_diverting hc hw hd), hd, hdw, hda,
      fun v r p hv hr hp => ?_, fun hv => cancelVoice_of_no_voice hv, audio.queues, audio.agents, fun j hj => ?_, audio.2.2, audio.1⟩
    · have e : divertCancelled s h.toNat c = nextClip v r .loop 0 (loopClip p 0) (setCallRec s h.toNat { c with status := .waiting }) :=
        cancelVoice_of_voice hv hr hp
      rw [e] at hd ⊢
      rw [callOf_nextClip, hcalls] at hd
      refine ⟨(Option.some.inj hd).symm, by rw [voiceOf_nextClip, if_pos rfl]; rfl, fun w hne => ?_, fun hk => ?_, fun hk j => ?_⟩
      · rw [voiceOf_nextClip, if_neg hne]; rfl
      · rw [show loopClip p 0 = r.clip from hk, nextClip_clips_of_same]; rfl
      · rw [clipOf_nextClip _ _ _ _ _ (show loopClip p 0 ≠ r.clip from hk)]; rfl
    · exact (one.2 j hj).trans (callOf_setCallRec_of_ne s _ hj)
  · exact exec_service ht hs rfl rfl (wrong_divert hc hw)
  · exact exec_service ht hs rfl rfl (wrong_cancelDivert hc hw)

end Sys2Proof.Machine
end

-- ==== Sys2Proof/Proofs/Steps ====
section
/-! A step keeps every invariant of the records that the owners' handling and the boundary's work keep: the link, the pins and the
time base move no record. -/

namespace Sys2Proof.Machine

/-! ### The records -/

/-- The records of a state: what the owners of calls, queues, agents, clips, programs and voices hold. -/
def records (s : State) : State :=
  { State.reset with
    generations := s.generations, arrivals := s.arrivals, calls := s.calls, queues := s.queues, agents := s.agents,
    readyList := s.readyList, readies := s.readies, samples := s.samples, clips := s.clips, programs := s.programs,
    voices := s.voices }

@[simp] theorem records_notify (kind body s) : records (notify kind body s) = records s :=
  notify_read records (fun _ _ _ _ _ => rfl) kind body s

@[simp] theorem records_transmit (s : State) : records (transmit s) = records s := by
  rcases transmit_cases s with ⟨e, -⟩ | ⟨r, rs, -, -, e⟩ | ⟨n, ns, -, -, -, e⟩ <;> rw [e] <;> rfl

@[simp] theorem records_conclude (kind : Nat) (r : State × Answer) : records (conclude kind r) = records r.1 := rfl

@[simp] theorem records_concludeTo (dest : Dest) (kind : Nat) (r : State × Answer) :
    records (concludeTo dest kind r) = records r.1 := by cases dest <;> rfl

@[simp] theorem records_restoreSync (s : State) : records (restoreSync s) = records s := by
  unfold restoreSync syncNotice
  split
  · rfl
  · rw [records_notify]; rfl

@[simp] theorem records_oweCount (s : State) : records (oweCount s) = records s := by
  unfold oweCount; split <;> rfl

@[simp] theorem records_countPulse (s : State) : records (countPulse s) = records s := by
  unfold countPulse
  split
  · rfl
  · split <;> rfl
  · split <;> rfl

/-! ### What a step asks of an invariant -/

/-- An invariant of the records that every owner's handling of an order and all work of a boundary keeps. -/
structure StepKept (P : State → Prop) : Prop where
  same : ∀ s t, P s → records t = records s → P t
  order : ∀ c s, P s → P (handOverOrder c s)
  play : ∀ order s, P s → P (playFrame order s)
  offer : ∀ h a d c s, callOf s h = some c → c.status = .offered a d → P s → P (expireOffer h a c s)
  wrap : ∀ a v w p s, agentOf s a = some v → v.status = .wrap w p → P s → P (expireWrap a v w p s)
  cool : ∀ a v n d s, agentOf s a = some v → v.status = .ready n d → P s →
    P (matchAgent a (setAgentRec s a { v with status := .ready n none }))
  surge : ∀ q s, q < 64 → P s → P (evalSurge q s)
  reset : P State.reset
  held : ∀ s, P s → P (heldInReset s)

section
variable {P : State → Prop} (k : StepKept P)
include k

theorem StepKept.transmit {s : State} (h : P s) : P (transmit s) := k.same _ _ h (records_transmit s)

theorem StepKept.handOver {s : State} (f : HeldFrame) (h : P s) : P (handOver f s) := by
  cases f with
  | order c => exact k.order c s h
  | badLength kind required received => exact k.same _ _ h rfl

theorem StepKept.drain (fuel : Nat) {s : State} (h : P s) : P (drain fuel s) := by
  induction fuel generalizing s with
  | zero => exact k.transmit h
  | succ fuel ih =>
    have ht := k.transmit h
    simp only [Machine.drain]
    split
    · exact ht
    · split
      · exact ih (k.handOver _ (k.same _ _ ht rfl))
      · exact ht

theorem StepKept.settle {s : State} (h : P s) : P (settle s) := k.drain _ h

theorem StepKept.arrive {s : State} (f : HeldFrame) (h : P s) : P (arrive f s) := by
  unfold Machine.arrive
  split
  · exact k.settle (k.same _ _ h rfl)
  · exact k.same _ _ h rfl

theorem StepKept.takeOrder {s : State} (c : Instr) (h : P s) : P (takeOrder c s) := by
  unfold Machine.takeOrder
  split
  · exact k.arrive _ h
  · exact h

theorem StepKept.judgeFrame {s : State} (address frameClass kind : Byte) (body : List Byte) (crc : BitVec 16) (h : P s) :
    P (judgeFrame address frameClass kind body crc s) := by
  unfold Machine.judgeFrame
  split
  · exact k.same _ _ h rfl
  · split
    · exact h
    · split
      · exact k.same _ _ h rfl
      · exact k.arrive _ h

theorem StepKept.receiveCharacter {s : State} (data : Byte) (stopHigh : Bool) (h : P s) : P (receiveCharacter data stopHigh s) := by
  unfold Machine.receiveCharacter
  split
  · split
    · exact k.same _ _ h rfl
    · exact h
  · split
    · exact k.same _ _ h rfl
    · dsimp only
      split
      · exact k.same _ _ h rfl
      · split
        · exact k.judgeFrame _ _ _ _ _ (k.same _ _ h rfl)
        · exact k.same _ _ h rfl

theorem StepKept.receiveAll (bs : List Byte) {s : State} (h : P s) : P (receiveAll bs s) := by
  unfold Machine.receiveAll
  induction bs generalizing s with
  | nil => exact h
  | cons b bs ih => exact ih (k.receiveCharacter b true h)

theorem StepKept.evalAll (l : List Nat) (hl : ∀ q ∈ l, q < 64) {s : State} (h : P s) : P (l.foldl (fun t q => evalSurge q t) s) := by
  induction l generalizing s with
  | nil => exact h
  | cons q l ih =>
    exact ih (fun x hx => hl x (List.mem_cons_of_mem _ hx)) (k.surge q s (hl q List.mem_cons_self) h)

theorem StepKept.oweFrame {s : State} (h : P s) : P (oweFrame s) := by
  unfold Machine.oweFrame
  split
  · exact k.play _ _ (k.same _ _ h rfl)
  · exact h

/-! ### The commands -/

theorem StepKept.pins {s t : State} {c : Instr} (hc : pinCommand c = true) (h : P s) (e : exec c s = .next t) : P t := by
  cases c <;> simp only [pinCommand, Bool.false_eq_true] at hc
  case powerOn a r => cases e; exact k.same State.reset _ k.reset rfl
  case resetPinAssert =>
    change Host.Outcome.next (if s.resetHeld then s else heldInReset s) = _ at e
    cases e
    split
    · exact h
    · exact k.held s h
  case resetPinRelease a r =>
    change Host.Outcome.next (if s.resetHeld then _ else s) = _ at e
    cases e
    split
    · exact k.same _ _ h rfl
    · exact h
  case refclkStop => cases e; exact k.same _ _ h rfl
  case refclkReturn => cases e; exact k.same _ _ h rfl

theorem StepKept.highwayFrame {s t : State} {order : List Nat} (h : P s) (e : exec (.highwayFrame order) s = .next t) : P t := by
  change execHighwayFrame order s = _ at e
  unfold execHighwayFrame at e
  cases e
  split
  · refine k.settle (k.same _ _ (k.play order _ (k.same s _ h ?_)) (records_countPulse _))
    rw [records_restoreSync, records_oweCount]
  · exact h

theorem StepKept.timeUnitBoundary {s t : State} (h : P s) (e : exec .timeUnitBoundary s = .next t) : P t := by
  change execTimeUnitBoundary s = _ at e
  unfold execTimeUnitBoundary at e
  cases e
  split
  · split
    · exact k.same _ _ h rfl
    · split
      · exact h
      · refine k.settle (k.same s _ h ?_)
        exact records_restoreSync s
    · exact h
  · exact h

theorem StepKept.syncLoss {s t : State} (h : P s) (e : exec .syncLoss s = .next t) : P t := by
  change execSyncLoss s = _ at e
  unfold execSyncLoss at e
  cases e
  split
  · refine k.settle (k.same (Machine.oweFrame (oweCount s)) _ (k.oweFrame (k.same s _ h (records_oweCount s))) ?_)
    rw [syncNotice, records_notify]
    rfl
  · exact h

theorem StepKept.offerExpiry {s t : State} {handle : BitVec 16} (h : P s) (e : exec (.offerExpiry handle) s = .next t) : P t := by
  change execOfferExpiry handle s = _ at e
  unfold execOfferExpiry at e
  cases e
  split
  · exact h
  · next c hc =>
    split
    · next a d hst =>
      split
      · exact k.settle (k.offer _ a d c _ (by exact hc) hst (k.same _ _ h rfl))
      · exact h
    · exact h
    · exact h
    · exact h

theorem StepKept.wrapExpiry {s t : State} {agent : BitVec 16} (h : P s) (e : exec (.wrapExpiry agent) s = .next t) : P t := by
  change execWrapExpiry agent s = _ at e
  unfold execWrapExpiry at e
  cases e
  dsimp only
  split
  · exact h
  · next v hv =>
    split
    · next w p hst =>
      split
      · exact k.settle (k.wrap _ v w p _ (by exact hv) hst (k.same _ _ h rfl))
      · exact h
    · exact h
    · exact h
    · exact h
    · exact h

theorem StepKept.coolDownEnd {s t : State} {agent : BitVec 16} (h : P s) (e : exec (.coolDownEnd agent) s = .next t) : P t := by
  change execCoolDownEnd agent s = _ at e
  unfold execCoolDownEnd at e
  cases e
  dsimp only
  split
  · exact h
  · next v hv =>
    split
    · next n d hst =>
      split
      · exact k.settle (k.cool _ v n d _ (by exact hv) hst (k.same _ _ h rfl))
      · exact h
    · exact h
    · exact h
    · exact h
    · exact h

theorem StepKept.surgeWholeSecondEvaluation {s t : State} {order : List Nat} (h : P s)
    (e : exec (.surgeWholeSecondEvaluation order) s = .next t) : P t := by
  change execSurgeWholeSecondEvaluation order s = _ at e
  unfold execSurgeWholeSecondEvaluation at e
  cases e
  split
  · refine k.settle (k.evalAll _ (fun q hq => ?_) (k.same _ _ h rfl))
    exact List.mem_range.1 (mem_inOrder.1 hq)
  · exact h

theorem StepKept.exec {s t : State} {c : Instr} (h : P s) (e : exec c s = .next t) : P t := by
  have order (ho : Machine.exec c s = .next (Machine.takeOrder c s)) : P t := by
    rw [ho] at e
    cases e
    exact k.takeOrder c h
  cases c
  case powerOn | resetPinAssert | resetPinRelease | refclkStop | refclkReturn => exact k.pins rfl h e
  case highwayFrame => exact k.highwayFrame h e
  case timeUnitBoundary => exact k.timeUnitBoundary h e
  case offerExpiry => exact k.offerExpiry h e
  case wrapExpiry => exact k.wrapExpiry h e
  case coolDownEnd => exact k.coolDownEnd h e
  case surgeWholeSecondEvaluation => exact k.surgeWholeSecondEvaluation h e
  case syncLoss => exact k.syncLoss h e
  case characterReceived data stopHigh =>
    change execCharacterReceived data stopHigh s = _ at e
    unfold execCharacterReceived at e
    cases e
    split
    · exact k.receiveCharacter _ _ h
    · exact h
  case frameReceived address frameClass kind body crc =>
    change execFrameReceived address frameClass kind body crc s = _ at e
    unfold execFrameReceived at e
    cases e
    split
    · split
      · exact k.judgeFrame _ _ _ _ _ h
      · exact k.receiveAll _ h
    · exact h
  case gapLimit =>
    change execGapLimit s = _ at e
    unfold execGapLimit at e
    cases e
    split
    · split
      · exact h
      · exact k.same _ _ h rfl
    · exact h
  case frameSent =>
    change execFrameSent s = _ at e
    unfold execFrameSent at e
    cases e
    split
    · split
      · exact h
      · exact k.settle (k.same _ _ h rfl)
    · exact h
  case unknownKind kind body =>
    change execUnknownKind kind body s = _ at e
    unfold execUnknownKind at e
    cases e
    split
    · exact k.takeOrder _ h
    · exact h
  case broadcastDropped kind body =>
    change execBroadcastDropped kind body s = _ at e
    unfold execBroadcastDropped at e
    cases e
    split
    · exact h
    · exact k.takeOrder _ h
  all_goals exact order rfl

/-- A step keeps the invariant. -/
theorem StepKept.step {s t : State} (h : P s) (e : step s = .next t) : P t := by
  unfold Machine.step at e
  split at e
  · cases e; exact h
  · next c rest hp => exact k.exec (s := { s with pending := rest }) (k.same _ _ h rfl) e

end

end Sys2Proof.Machine
end

-- ==== Sys2Proof/Proofs/Numbers ====
section
/-! Records at the part's numbers, averages in range, tables in their canonical form: one predicate for the three, kept by every write
(R1, R10, R29, R78, R99, R100). -/

namespace Sys2Proof.Machine

/-! ### A table whose every entry is in order -/

/-- Every entry of the table satisfies `K`, and, where `c` asks for it, the indices rise. -/
structure TableOk {α : Type} (c : Prop) (K : Nat → α → Prop) (t : Table α) : Prop where
  rising : c → tableRising t = true
  each : ∀ e ∈ t, K e.1 e.2

section
variable {α : Type} {c : Prop} {K : Nat → α → Prop} {t : Table α}

theorem TableOk.insert (h : TableOk c K t) {k : Nat} {v : α} (hv : K k v) : TableOk c K (tableInsert t k v) :=
  ⟨fun hc => tableRising_tableInsert k v (h.rising hc), fun e he => by
    rcases mem_tableInsert he with rfl | he
    · exact hv
    · exact h.each e he⟩

theorem TableOk.filter (h : TableOk c K t) (p : Nat × α → Bool) : TableOk c K (t.filter p) :=
  ⟨fun hc => tableRising_filter p (h.rising hc), fun e he => h.each e (List.mem_filter.1 he).1⟩

theorem TableOk.erase (h : TableOk c K t) (k : Nat) : TableOk c K (tableErase t k) := h.filter _

theorem TableOk.put [DecidableEq α] (h : TableOk c K t) (d : α) {k : Nat} {v : α} (hv : v ≠ d → K k v) :
    TableOk c K (tablePut d t k v) := by
  unfold tablePut
  split
  · exact h.erase k
  · next hne => exact h.insert (hv hne)

theorem TableOk.map (h : TableOk c K t) (f : Nat × α → Nat × α) (hkey : ∀ e, (f e).1 = e.1) (hf : ∀ e, K e.1 e.2 → K e.1 (f e).2) :
    TableOk c K (t.map f) :=
  ⟨fun hc => tableRising_map f hkey (h.rising hc), fun e he => by
    obtain ⟨x, hx, rfl⟩ := List.mem_map.1 he
    rw [hkey]
    exact hf x (h.each x hx)⟩

theorem TableOk.find (h : TableOk c K t) {k : Nat} {v : α} (hv : tableFind t k = some v) : K k v := h.each _ (mem_of_tableFind hv)

theorem tableOk_nil : TableOk c K [] := ⟨fun _ => rfl, fun _ he => absurd he List.not_mem_nil⟩

end

/-! ### The records in order -/

/-- A queue record whose overflow target is a queue of the part and, where `a` asks for it, whose average is in range. -/
def QueueFine (a : Prop) (r : Queue) : Prop :=
  (∀ t, r.settings.overflowTarget = some t → t < 64) ∧
    (a → r.aht16 ≤ 1048560 ∧ 1 ≤ r.settings.ahtSeed ∧ r.settings.ahtSeed ≤ 65535)

/-- A wrap that an agent record holds is one of a queue of the part. -/
def WrapFine (v : Agent) : Prop := ∀ w, wrapOf v = some w → w.queue < 64

/-- The records in order: at the part's numbers, in canonical tables where `c` asks for it, with averages in range where `a` does. -/
structure Sound (c a : Prop) (s : State) : Prop where
  calls : TableOk c (fun k x => k < 2048 ∧ x.queue < 64) s.calls
  generations : TableOk c (fun k g => k < 2048 ∧ g < 32 ∧ (c → g ≠ 0)) s.generations
  queues : TableOk c (fun q r => q < 64 ∧ QueueFine a r ∧ (c → r ≠ queueAtReset)) s.queues
  agents : TableOk c (fun k v => k < 512 ∧ WrapFine v) s.agents
  clips : TableOk c (fun k _ => k < 256) s.clips
  programs : TableOk c (fun k _ => k < 32) s.programs
  voices : TableOk c (fun k _ => k < 128) s.voices
  samples : c → tableRising s.samples = true

theorem sound_iff (c a : Prop) (s : State) :
    Sound c a s ↔ (c → Canonical s) ∧ InRange s ∧ (a → AverageInRange s) := by
  constructor
  · intro h
    refine ⟨fun hc => ⟨h.calls.rising hc, h.generations.rising hc, h.queues.rising hc, h.agents.rising hc, h.samples hc,
      h.clips.rising hc, h.programs.rising hc, h.voices.rising hc, fun e he => (h.queues.each e he).2.2 hc,
      fun e he => (h.generations.each e he).2.2 hc⟩, ⟨fun e he => (h.calls.each e he).1, fun e he => ?_,
      fun e he => (h.agents.each e he).1, h.clips.each, h.programs.each, h.voices.each, fun e he => ?_,
      fun e he => (h.calls.each e he).2, fun e he => (h.agents.each e he).2⟩, fun ha e he => (h.queues.each e he).2.1.2 ha⟩
    · obtain ⟨h1, h2, -⟩ := h.generations.each e he
      exact ⟨h1, h2⟩
    · obtain ⟨h1, ⟨h2, -⟩, -⟩ := h.queues.each e he
      exact ⟨h1, h2⟩
  · rintro ⟨hcan, ⟨calls, gens, agents, clips, programs, voices, queues, callQueues, wraps⟩, havg⟩
    refine ⟨⟨fun hc => ?_, fun e he => ⟨calls e he, callQueues e he⟩⟩,
      ⟨fun hc => ?_, fun e he => ⟨(gens e he).1, (gens e he).2, fun hc => ?_⟩⟩,
      ⟨fun hc => ?_, fun e he => ⟨(queues e he).1, ⟨(queues e he).2, fun ha => havg ha e he⟩, fun hc => ?_⟩⟩,
      ⟨fun hc => ?_, fun e he => ⟨agents e he, wraps e he⟩⟩, ⟨fun hc => ?_, clips⟩, ⟨fun hc => ?_, programs⟩, ⟨fun hc => ?_, voices⟩,
      fun hc => ?_⟩
    all_goals obtain ⟨c1, c2, c3, c4, c5, c6, c7, c8, c9, c10⟩ := hcan hc
    exacts [c1, c2, c10 e he, c3, c9 e he, c4, c6, c7, c8, c5]

section
variable {c a : Prop} {s : State}

theorem Sound.of_records {t : State} (h : Sound c a s) (e : records t = records s) : Sound c a t := by
  have hr : Sound c a (records s) := ⟨h.calls, h.generations, h.queues, h.agents, h.clips, h.programs, h.voices, h.samples⟩
  rw [← e] at hr
  exact ⟨hr.calls, hr.generations, hr.queues, hr.agents, hr.clips, hr.programs, hr.voices, hr.samples⟩

/-! ### What a record in order says -/

theorem queueFine_reset : QueueFine a queueAtReset := by
  refine ⟨fun t h => ?_, fun _ => by decide⟩
  simp [queueAtReset, defaultSettings] at h

theorem Sound.queue (h : Sound c a s) (q : Nat) : QueueFine a (queueOf s q) := by
  unfold queueOf
  cases hq : tableFind s.queues q with
  | none => exact queueFine_reset
  | some r => exact (h.queues.find hq).2.1

theorem Sound.call (h : Sound c a s) {k : Nat} {x : Call} (hx : callOf s k = some x) : x.queue < 64 := by
  rw [callOf_eq_some] at hx
  exact (h.calls.find hx.2).2

theorem Sound.agent (h : Sound c a s) {k : Nat} {v : Agent} (hv : agentOf s k = some v) : k < 512 ∧ WrapFine v := h.agents.find hv

theorem Sound.voice (h : Sound c a s) {k : Nat} {r : Voice} (hr : voiceOf s k = some r) : k < 128 := h.voices.find hr

theorem slotOf_lt (h : Nat) : slotOf h < 2048 := Nat.mod_lt _ (by decide)

theorem wrapFine_of_none {v : Agent} (h : wrapOf v = none) : WrapFine v := by
  intro w hw
  rw [h] at hw
  cases hw

/-! ### Writes -/

theorem Sound.notify (h : Sound c a s) (kind body) : Sound c a (notify kind body s) := h.of_records (records_notify ..)

theorem Sound.setQueueRec (h : Sound c a s) {q : Nat} {r : Queue} (hq : q < 64) (hr : QueueFine a r) :
    Sound c a (setQueueRec s q r) := { h with queues := h.queues.put _ fun hne => ⟨hq, hr, fun _ => hne⟩ }

theorem Sound.count (h : Sound c a s) {q : Nat} (hq : q < 64) (f : Counters → Counters) : Sound c a (count s q f) :=
  h.setQueueRec hq (h.queue q)

theorem Sound.leaveList (h : Sound c a s) (k : Nat) {q : Nat} (hq : q < 64) : Sound c a (leaveList s k q) :=
  h.setQueueRec hq (h.queue q)

theorem Sound.joinList (h : Sound c a s) (k : Nat) {x : Call} (hq : x.queue < 64) : Sound c a (joinList s k x) :=
  h.setQueueRec hq (h.queue x.queue)

theorem Sound.takeSample (h : Sound c a s) {q n : Nat} (hq : q < 64) (hn : n ≤ 65535) : Sound c a (takeSample s q n) := by
  obtain ⟨htarget, havg⟩ := h.queue q
  refine h.setQueueRec hq ⟨htarget, fun ha => ?_⟩
  obtain ⟨h1, h2⟩ := havg ha
  exact ⟨foldSample_le _ _ _ _ h1 (by omega), h2⟩

theorem Sound.setAgentRec (h : Sound c a s) {k : Nat} {v : Agent} (hk : k < 512) (hv : WrapFine v) : Sound c a (setAgentRec s k v) :=
  { h with agents := h.agents.insert ⟨hk, hv⟩ }

theorem Sound.dropAgent (h : Sound c a s) (k : Nat) : Sound c a (dropAgent s k) := { h with agents := h.agents.erase k }

theorem Sound.enterReady (h : Sound c a s) {k : Nat} (hk : k < 512) (v : Agent) (d : Option Time) : Sound c a (enterReady s k v d) :=
  { h with agents := h.agents.insert ⟨hk, wrapFine_of_none rfl⟩ }

theorem Sound.returnToPlace (h : Sound c a s) {k : Nat} (hk : k < 512) (v : Agent) (n : Nat) : Sound c a (returnToPlace s k v n) :=
  { h with agents := h.agents.insert ⟨hk, wrapFine_of_none rfl⟩ }

theorem Sound.leaveReady (h : Sound c a s) (k : Nat) : Sound c a (leaveReady s k) := { h with }

theorem Sound.setCallRec (h : Sound c a s) (k : Nat) {x : Call} (hx : x.queue < 64) : Sound c a (setCallRec s k x) :=
  { h with calls := h.calls.insert ⟨slotOf_lt k, hx⟩ }

theorem Sound.freeCall (h : Sound c a s) (k : Nat) : Sound c a (freeCall s k) :=
  { h with
    calls := h.calls.erase _
    generations := h.generations.put 0 fun hne => ⟨slotOf_lt k, Nat.mod_lt _ (by decide), fun _ => hne⟩ }

theorem Sound.setVoiceRec (h : Sound c a s) {k : Nat} (hk : k < 128) (r : Voice) : Sound c a (setVoiceRec s k r) :=
  { h with voices := h.voices.insert hk }

theorem Sound.dropVoice (h : Sound c a s) (k : Nat) : Sound c a (dropVoice s k) := { h with voices := h.voices.erase k }

theorem Sound.setClipRec (h : Sound c a s) {k : Nat} (hk : k < 256) (e : Clip) : Sound c a (setClipRec s k e) :=
  { h with clips := h.clips.insert hk }

theorem Sound.dropClip (h : Sound c a s) (k : Nat) : Sound c a (dropClip s k) := { h with clips := h.clips.erase k }

theorem Sound.changeUse (h : Sound c a s) (k : Nat) (f : Nat → Nat) : Sound c a (changeUse s k f) := by
  unfold Machine.changeUse
  split
  · next e he => exact h.setClipRec (h.clips.find he) _
  · exact h

/-! ### The surge monitor and offers -/

theorem wrapFine_trimmed {v : Agent} (h : WrapFine v) (q : Nat) (limit : Time) : WrapFine (trimmed q limit v) := by
  intro w hw
  cases hs : v.status with
  | wrap r p =>
    simp only [trimmed, hs] at hw
    split at hw
    · simp only [wrapOf, Option.some.injEq] at hw
      rw [← hw]
      exact h r (by simp [wrapOf, hs])
    · exact h w hw
  | notReady r => simp [trimmed, hs, wrapOf] at hw
  | ready n d => simp [trimmed, hs, wrapOf] at hw
  | offered g n => simp [trimmed, hs, wrapOf] at hw
  | talking g p => simp [trimmed, hs, wrapOf] at hw

theorem Sound.trimWraps (h : Sound c a s) (q : Nat) : Sound c a (trimWraps s q) :=
  { h with agents := h.agents.map _ (fun _ => rfl) fun _ he => ⟨he.1, wrapFine_trimmed he.2 _ _⟩ }

theorem Sound.evalSurge (h : Sound c a s) {q : Nat} (hq : q < 64) : Sound c a (evalSurge q s) := by
  have flag (b : Bool) : Sound c a (Machine.setQueueRec s q { queueOf s q with surge := b }) := h.setQueueRec hq (h.queue q)
  unfold Machine.evalSurge
  split
  · split
    · exact (flag false).notify _ _
    · exact h
  · split
    · unfold enterSurge
      dsimp only
      split
      · exact ((flag true).trimWraps q).notify _ _
      · exact (flag true).notify _ _
    · exact h

theorem Sound.makeOffer (h : Sound c a s) (k b : Nat) (rotate : Bool) : Sound c a (makeOffer k b rotate s) := by
  unfold Machine.makeOffer
  split
  · next x v hx hv =>
    have hq := h.call hx
    have hb := (h.agent hv).1
    have written : Sound c a (Machine.setAgentRec (Machine.leaveReady (Machine.setCallRec (Machine.leaveList s k x.queue) k
        { x with status := .offered b (offerDeadline s x.queue), offerCount := min 255 (x.offerCount + 1) }) b) b
        { v with status := .offered k (readySeqOf s b) }) :=
      (((h.leaveList k hq).setCallRec k (by exact hq)).leaveReady b).setAgentRec hb (wrapFine_of_none rfl)
    refine (Sound.evalSurge ?_ hq).notify _ _
    split
    · exact written.setQueueRec hq (written.queue _)
    · exact written
  · exact h

theorem Sound.matchCall (h : Sound c a s) (k : Nat) : Sound c a (matchCall k s) := by
  rcases matchCall_cases k s with e | ⟨x, b, -, -, -, -, e⟩ <;> rw [e]
  · exact h
  · exact h.makeOffer ..

theorem Sound.matchAgent (h : Sound c a s) (k : Nat) : Sound c a (matchAgent k s) := by
  rcases matchAgent_cases k s with e | ⟨v, slot, x, -, -, e⟩ <;> rw [e]
  · exact h
  · exact h.makeOffer ..

theorem Sound.returnCall (h : Sound c a s) (k b : Nat) {x : Call} (hq : x.queue < 64) : Sound c a (returnCall k b x s) :=
  ((h.setCallRec k (by exact hq)).joinList k (by exact hq)).evalSurge hq

/-! ### The audio side -/

theorem lowestFreeVoice_lt {v : Nat} (h : lowestFreeVoice s = some v) : v < 128 := by
  exact List.mem_range.1 (List.mem_of_find?_eq_some h)

theorem Sound.startVoice (h : Sound c a s) {v : Nat} (hv : v < 128) (p mode segment i k) :
    Sound c a (startVoice s v p mode segment i k) := (h.setVoiceRec hv _).changeUse ..

theorem Sound.moveUse (h : Sound c a s) (old new : Nat) : Sound c a (moveUse s old new) := by
  unfold Machine.moveUse
  split
  · exact h
  · exact (h.changeUse ..).changeUse ..

theorem Sound.nextClip (h : Sound c a s) {v : Nat} (hv : v < 128) (r segment i k) : Sound c a (nextClip v r segment i k s) :=
  (h.moveUse ..).setVoiceRec hv _

theorem Sound.attach (h : Sound c a s) (k : Nat) : Sound c a (attach k s) := by
  unfold Machine.attach
  split
  · exact h
  · next x hx =>
    have hq := h.call hx
    split
    · exact h
    · dsimp only
      split
      · exact (h.setCallRec k (by exact hq)).startVoice (lowestFreeVoice_lt ‹lowestFreeVoice s = some _›) _ _ _ _ _
      · split
        · next r hr =>
          split
          · exact (h.setCallRec k (by exact hq)).setVoiceRec (h.voice hr) _
          · exact h
        · exact h
      · exact (h.setCallRec k (by exact hq)).startVoice (lowestFreeVoice_lt ‹lowestFreeVoice s = some _›) _ _ _ _ _
      · exact h.setCallRec k (by exact hq)

theorem Sound.handVoice (h : Sound c a s) {v : Nat} (hv : v < 128) : Sound c a (handVoice v s) := by
  rw [handVoice_eq]
  split
  · exact h
  · next p _ =>
    have handedOver : Sound c a { s with calls := s.calls.map (handed v p) } :=
      { h with calls := h.calls.map _ (fun e => by unfold handed; split <;> rfl) fun e he => by unfold handed; split <;> exact he }
    exact (handedOver.startVoice hv _ _ _ _ _).notify _ _

theorem Sound.freeVoice (h : Sound c a s) (v : Nat) : Sound c a (freeVoice v s) := by
  unfold Machine.freeVoice
  split
  · exact h
  · next r hr => exact ((h.dropVoice v).changeUse ..).handVoice (h.voice hr)

theorem Sound.detach (h : Sound c a s) (k : Nat) : Sound c a (detach k s) := by
  unfold Machine.detach
  split
  · exact h
  · next x hx =>
    split
    · exact h
    · have off : Sound c a (Machine.setCallRec s k { x with voice := none, announceDue := none }) := h.setCallRec k (h.call hx :)
      dsimp only
      split
      · exact off
      · next v r hr =>
        split
        · exact off.freeVoice _
        · split
          · exact off.freeVoice _
          · exact off.setVoiceRec (off.voice hr) _

end

end Sys2Proof.Machine
end

-- ==== Sys2Proof/Proofs/Traffic ====
section
/-! Calls, agents and waiting lists as functions of handles, agents and queues: the pairing (R52) and the lists (R14) said of them, and
how each move of a call keeps them. -/

namespace Sys2Proof.Machine

/-! ### What a call and an agent have of each other -/

/-- What an agent has of a call: it is OFFERED it, or TALKING with it. -/
inductive Bond where
  | offered (h : Nat)
  | talking (h : Nat)

def bondOf (v : Agent) : Option Bond :=
  match v.status with
  | .offered h _ => some (.offered h)
  | .talking h _ => some (.talking h)
  | .notReady _ => none
  | .ready _ _ => none
  | .wrap _ _ => none

/-- What a call has of an agent: the one it is OFFERED to, or, CONNECTED, one it does not name. -/
inductive Hold where
  | offered (a : Nat)
  | connected

def holdOf (c : Call) : Option Hold :=
  match c.status with
  | .offered a _ => some (.offered a)
  | .connected _ => some .connected
  | .waiting => none
  | .diverting _ => none

/-- The queue in whose waiting list a call stands. -/
def listedOf (c : Call) : Option Nat := if inList c then some c.queue else none

def holdIn (s : State) (h : Nat) : Option Hold := (callOf s h).bind holdOf
def bondIn (s : State) (a : Nat) : Option Bond := (agentOf s a).bind bondOf
def listedIn (s : State) (h : Nat) : Option Nat := (callOf s h).bind listedOf
def seqIn (s : State) (h : Nat) : Option Nat := (callOf s h).map (·.arrivalSeq)
def listIn (s : State) (q : Nat) : List Nat := (queueOf s q).waiting

/-! ### The pairing -/

/-- The two sides of every offer and of every connection name each other, and a connection has one agent. -/
structure PairedIn (hold : Nat → Option Hold) (bond : Nat → Option Bond) : Prop where
  offer : ∀ h a, hold h = some (.offered a) ↔ bond a = some (.offered h)
  agent : ∀ h, hold h = some .connected → ∃ a, bond a = some (.talking h)
  call : ∀ a h, bond a = some (.talking h) → hold h = some .connected
  one : ∀ a b h, bond a = some (.talking h) → bond b = some (.talking h) → a = b

/-- What call `h` and agent `a` have of each other fits: nothing, an offer, or a connection. -/
def Fits (h a : Nat) (x : Option Hold) (y : Option Bond) : Prop :=
  (x = none ∧ y = none) ∨ (x = some (.offered a) ∧ y = some (.offered h)) ∨ (x = some .connected ∧ y = some (.talking h))

/-- A call and an agent that fit may become another pair that fits, when nothing else moves. -/
theorem PairedIn.rebond {hold hold' : Nat → Option Hold} {bond bond' : Nat → Option Bond} (p : PairedIn hold bond) {h a : Nat}
    (old : Fits h a (hold h) (bond a)) (new : Fits h a (hold' h) (bond' a)) (calls : ∀ g, g ≠ h → hold' g = hold g)
    (agents : ∀ b, b ≠ a → bond' b = bond b) : PairedIn hold' bond' := by
  -- No other call is offered to the agent, and no other agent has the call.
  have offerOld (g : Nat) (hg : g ≠ h) : hold g ≠ some (.offered a) := by
    intro e
    rw [p.offer] at e
    rcases old with ⟨-, h2⟩ | ⟨-, h2⟩ | ⟨-, h2⟩ <;> rw [h2] at e <;> cases e
    exact hg rfl
  have bondOld (b : Nat) (hb : b ≠ a) : bond b ≠ some (.offered h) := by
    intro e
    rw [← p.offer] at e
    rcases old with ⟨h1, -⟩ | ⟨h1, -⟩ | ⟨h1, -⟩ <;> rw [h1] at e <;> cases e
    exact hb rfl
  have talkOld (b : Nat) (hb : b ≠ a) : bond b ≠ some (.talking h) := by
    intro e
    rcases old with ⟨h1, -⟩ | ⟨h1, -⟩ | ⟨-, h2⟩
    · rw [p.call b h e] at h1; cases h1
    · rw [p.call b h e] at h1; cases h1
    · exact hb (p.one b a h e h2)
  have talkAgent (g : Nat) (hg : g ≠ h) : bond a ≠ some (.talking g) := by
    rcases old with ⟨-, h2⟩ | ⟨-, h2⟩ | ⟨-, h2⟩ <;> rw [h2] <;> simp [Ne.symm hg]
  refine ⟨fun g b => ?_, fun g hg => ?_, fun b g hb => ?_, fun b b' g hb hb' => ?_⟩
  · by_cases hg : g = h
    · subst hg
      by_cases hb : b = a
      · subst hb
        rcases new with ⟨h1, h2⟩ | ⟨h1, h2⟩ | ⟨h1, h2⟩ <;> simp [h1, h2]
      · rw [agents b hb]
        refine ⟨fun e => ?_, fun e => absurd e (bondOld b hb)⟩
        rcases new with ⟨h1, -⟩ | ⟨h1, -⟩ | ⟨h1, -⟩ <;> rw [h1] at e <;> cases e
        exact absurd rfl hb
    · rw [calls g hg]
      by_cases hb : b = a
      · subst hb
        refine ⟨fun e => absurd e (offerOld g hg), fun e => ?_⟩
        rcases new with ⟨-, h2⟩ | ⟨-, h2⟩ | ⟨-, h2⟩ <;> rw [h2] at e <;> cases e
        exact absurd rfl hg
      · rw [agents b hb, p.offer]
  · by_cases hh : g = h
    · subst hh
      rcases new with ⟨h1, -⟩ | ⟨h1, -⟩ | ⟨-, h2⟩
      · rw [h1] at hg; cases hg
      · rw [h1] at hg; cases hg
      · exact ⟨a, h2⟩
    · rw [calls g hh] at hg
      obtain ⟨b, hb⟩ := p.agent g hg
      have hne : b ≠ a := fun e => talkAgent g hh (e ▸ hb)
      exact ⟨b, by rw [agents b hne, hb]⟩
  · by_cases hba : b = a
    · subst hba
      rcases new with ⟨-, h2⟩ | ⟨-, h2⟩ | ⟨h1, h2⟩ <;> rw [h2] at hb <;> cases hb
      exact h1
    · rw [agents b hba] at hb
      have hne : g ≠ h := fun e => talkOld b hba (e ▸ hb)
      rw [calls g hne]
      exact p.call b g hb
  · -- An agent that talks with the moved call is the moved agent.
    have moved {b : Nat} (hb : bond' b = some (.talking h)) : b = a := by
      by_contra hne
      rw [agents b hne] at hb
      exact talkOld b hne hb
    by_cases hg : g = h
    · subst hg
      rw [moved hb, moved hb']
    · have other {b : Nat} (hb : bond' b = some (.talking g)) : bond b = some (.talking g) := by
        by_cases hba : b = a
        · subst hba
          rcases new with ⟨-, h2⟩ | ⟨-, h2⟩ | ⟨-, h2⟩ <;> rw [h2] at hb <;> cases hb
          exact absurd rfl hg
        · rwa [agents b hba] at hb
      exact p.one b b' g (other hb) (other hb')

/-! ### The waiting lists -/

/-- Every list holds the calls that stand in it, in ascending arrival sequence, and every arrival sequence was given to one call. -/
structure ListsIn (listed seq : Nat → Option Nat) (lists : Nat → List Nat) (arrivals : Nat) : Prop where
  mem : ∀ q h, h ∈ lists q ↔ listed h = some q
  sorted : ∀ q, (lists q).Pairwise fun g h => (seq g).getD 0 < (seq h).getD 0
  below : ∀ h n, seq h = some n → n < arrivals
  one : ∀ g h n, seq g = some n → seq h = some n → g = h
  call : ∀ h q, listed h = some q → ∃ n, seq h = some n

section
variable {listed seq listed' seq' : Nat → Option Nat} {lists lists' : Nat → List Nat} {n m : Nat}

theorem ListsIn.nodup (l : ListsIn listed seq lists n) (q : Nat) : (lists q).Nodup :=
  (l.sorted q).imp fun hlt e => by rw [e] at hlt; exact absurd hlt (lt_irrefl _)

/-- A call leaves its list. -/
theorem ListsIn.leave (l : ListsIn listed seq lists n) {h q : Nat} (hh : listed h = some q)
    (hlisted : ∀ g, listed' g = if g = h then none else listed g)
    (hlists : ∀ j, lists' j = if j = q then (lists q).erase h else lists j) : ListsIn listed' seq lists' n where
  mem j g := by
    rw [hlists, hlisted]
    by_cases hj : j = q
    · rw [if_pos hj, (l.nodup q).mem_erase_iff, l.mem, hj]
      by_cases hg : g = h <;> simp [hg]
    · rw [if_neg hj, l.mem]
      by_cases hg : g = h
      · simp [hg, hh, Ne.symm hj]
      · simp [hg]
  sorted j := by
    rw [hlists]
    split
    · exact (l.sorted q).sublist List.erase_sublist
    · exact l.sorted j
  below := l.below
  one := l.one
  call g j hg := by
    rw [hlisted] at hg
    split at hg
    · cases hg
    · exact l.call g j hg

/-- A call that stands in no list goes. -/
theorem ListsIn.drop (l : ListsIn listed seq lists n) {h : Nat} (hh : listed h = none)
    (hseq : ∀ g, seq' g = if g = h then none else seq g) : ListsIn listed seq' lists n where
  mem := l.mem
  sorted q := (l.sorted q).imp_of_mem fun {a b} ha hb hlt => by
    have hne {g : Nat} (hg : g ∈ lists q) : g ≠ h := by
      rintro rfl
      rw [l.mem, hh] at hg
      cases hg
    rwa [hseq, hseq, if_neg (hne ha), if_neg (hne hb)]
  below g k hg := by
    rw [hseq] at hg
    split at hg
    · cases hg
    · exact l.below g k hg
  one g k j hg hk := by
    rw [hseq] at hg hk
    split at hg
    · cases hg
    · split at hk
      · cases hk
      · exact l.one g k j hg hk
  call g q hg := by
    have hne : g ≠ h := by
      rintro rfl
      rw [hh] at hg
      cases hg
    obtain ⟨k, hk⟩ := l.call g q hg
    exact ⟨k, by rw [hseq, if_neg hne, hk]⟩

/-- A call goes, out of its list when it stands in one. -/
theorem ListsIn.gone (l : ListsIn listed seq lists n) {h : Nat} (hlisted : ∀ g, listed' g = if g = h then none else listed g)
    (hseq : ∀ g, seq' g = if g = h then none else seq g)
    (hlists : ∀ j, lists' j = if listed h = some j then (lists j).erase h else lists j) : ListsIn listed' seq' lists' n := by
  have away : ListsIn listed' seq lists' n := by
    cases hh : listed h with
    | none =>
      have e : listed' = listed := funext fun g => by rw [hlisted]; split <;> simp_all
      have e' : lists' = lists := funext fun j => by rw [hlists, hh]; rfl
      rw [e, e']
      exact l
    | some q =>
      refine l.leave hh hlisted fun j => ?_
      rw [hlists, hh]
      by_cases hj : j = q
      · rw [hj, if_pos rfl, if_pos rfl]
      · rw [if_neg hj, if_neg fun e => hj (Option.some.inj e).symm]
  exact away.drop (by rw [hlisted, if_pos rfl]) hseq

/-- A call takes a place in a list, behind the calls that arrived no later and ahead of one that arrived after it. -/
theorem ListsIn.join (l : ListsIn listed seq lists n) {h q k : Nat} (hh : listed h = none) (hk : seq h = some k)
    (hlisted : ∀ g, listed' g = if g = h then some q else listed g)
    {before after : List Nat} (hsplit : lists q = before ++ after) (hbefore : ∀ g ∈ before, (seq g).getD 0 ≤ k)
    (hafter : ∀ g, after.head? = some g → k < (seq g).getD 0)
    (hlists : ∀ j, lists' j = if j = q then before ++ h :: after else lists j) : ListsIn listed' seq lists' n where
  mem j g := by
    rw [hlists, hlisted]
    by_cases hj : j = q
    · have hm := l.mem q g
      rw [hsplit, List.mem_append] at hm
      rw [if_pos hj, List.mem_append, List.mem_cons, hj]
      by_cases hg : g = h
      · simp [hg]
      · simp only [hg, false_or, if_false, hm]
    · rw [if_neg hj, l.mem]
      by_cases hg : g = h
      · simp [hg, hh, Ne.symm hj]
      · simp [hg]
  sorted j := by
    rw [hlists]
    split
    · have hs := l.sorted q
      rw [hsplit, List.pairwise_append] at hs
      obtain ⟨hb, ha, hba⟩ := hs
      have hne {g : Nat} (hg : g ∈ lists q) : g ≠ h := by
        rintro rfl
        rw [l.mem, hh] at hg
        cases hg
      -- A call ahead arrived before this one: its arrival sequence is another one.
      have hlt {g : Nat} (hg : g ∈ before) : (seq g).getD 0 < k := by
        have hmem : g ∈ lists q := by rw [hsplit]; exact List.mem_append_left _ hg
        obtain ⟨i, hi⟩ := l.call g q ((l.mem q g).1 hmem)
        have hle := hbefore g hg
        have hik : i ≠ k := fun e => hne hmem (l.one g h k (e ▸ hi) hk)
        rw [hi, Option.getD_some] at hle ⊢
        omega
      have hgt {g : Nat} (hg : g ∈ after) : k < (seq g).getD 0 := by
        cases after with
        | nil => cases hg
        | cons x xs =>
          have hx := hafter x rfl
          rcases List.mem_cons.1 hg with rfl | hg
          · exact hx
          · exact hx.trans ((List.pairwise_cons.1 ha).1 g hg)
      rw [List.pairwise_append]
      refine ⟨hb, List.pairwise_cons.2 ⟨fun g hg => by rw [hk]; exact hgt hg, ha⟩, fun g hg g' hg' => ?_⟩
      rcases List.mem_cons.1 hg' with rfl | hg'
      · rw [hk]; exact hlt hg
      · exact hba g hg g' hg'
    · exact l.sorted j
  below := l.below
  one := l.one
  call g j hg := by
    rw [hlisted] at hg
    split at hg
    · next e => exact ⟨k, e ▸ hk⟩
    · exact l.call g j hg

/-- A call arrives, with the arrival sequence next in order, at the tail of a list. -/
theorem ListsIn.arrive (l : ListsIn listed seq lists n) {h q : Nat} (hh : seq h = none)
    (hlisted : ∀ g, listed' g = if g = h then some q else listed g) (hseq : ∀ g, seq' g = if g = h then some n else seq g)
    (hlists : ∀ j, lists' j = lists j ++ if j = q then [h] else []) : ListsIn listed' seq' lists' (n + 1) := by
  have hnot : listed h = none := by
    cases e : listed h with
    | none => rfl
    | some j =>
      obtain ⟨k, hk⟩ := l.call h j e
      rw [hh] at hk
      cases hk
  have hne {j g : Nat} (hg : g ∈ lists j) : g ≠ h := by
    rintro rfl
    rw [l.mem, hnot] at hg
    cases hg
  refine ⟨fun j g => ?_, fun j => ?_, fun g k hg => ?_, fun g g' k hg hg' => ?_, fun g j hg => ?_⟩
  · rw [hlists, hlisted, List.mem_append, l.mem]
    by_cases hj : j = q
    · by_cases hg : g = h <;> simp [hg, hj, hnot]
    · by_cases hg : g = h <;> simp [hg, hj, hnot, Ne.symm hj]
  · rw [hlists, List.pairwise_append]
    refine ⟨(l.sorted j).imp_of_mem fun {a b} ha hb hlt => ?_, ?_, fun g hg g' hg' => ?_⟩
    · rwa [hseq, hseq, if_neg (hne ha), if_neg (hne hb)]
    · split <;> simp
    · obtain ⟨k, hk⟩ := l.call g j ((l.mem j g).1 hg)
      have hg'' : g' = h := by
        split at hg'
        · exact List.mem_singleton.1 hg'
        · cases hg'
      rw [hseq, hseq, if_neg (hne hg), if_pos hg'', hk]
      exact l.below g k hk
  · rw [hseq] at hg
    split at hg
    · cases hg; omega
    · have := l.below g k hg; omega
  · rw [hseq] at hg hg'
    split at hg <;> split at hg'
    · next e1 e2 => rw [e1, e2]
    · cases hg; exact absurd (l.below g' _ hg') (lt_irrefl _)
    · cases hg'; exact absurd (l.below g _ hg) (lt_irrefl _)
    · exact l.one g g' k hg hg'
  · rw [hlisted] at hg
    split at hg
    · next e => exact ⟨n, by rw [hseq, if_pos e]⟩
    · next e =>
      obtain ⟨k, hk⟩ := l.call g j hg
      exact ⟨k, by rw [hseq, if_neg e, hk]⟩

end

/-! ### The statements' predicates -/

section
variable {s : State} (hcan : Canonical s) (hr : InRange s)
include hcan hr

/-- The calls of a canonical table are those their handles name. -/
theorem mem_calls_iff (k : Nat) (c : Call) : (k, c) ∈ s.calls ↔ k < 2048 ∧ callOf s (handleOf s k) = some c := by
  rw [← tableFind_eq_some_iff hcan.1]
  refine ⟨fun h => ?_, fun ⟨hk, h⟩ => ?_⟩
  · have hk : k < 2048 := hr.1 _ (mem_of_tableFind h)
    exact ⟨hk, by rw [callOf_handleOf s hk, h]⟩
  · rwa [callOf_handleOf s hk] at h

omit hr in
theorem mem_agents_iff (k : Nat) (v : Agent) : (k, v) ∈ s.agents ↔ agentOf s k = some v :=
  (tableFind_eq_some_iff hcan.2.2.2.1 k v).symm

omit hcan hr in
/-- A handle that names a call is the handle of its slot. -/
theorem handleOf_slotOf {h : Nat} {c : Call} (hc : callOf s h = some c) : handleOf s (slotOf h) = h := by
  refine handle_ext ?_ (slotOf_handleOf s (slotOf_lt h))
  rw [handleOf_div s (slotOf_lt h), (callOf_eq_some ..).1 hc |>.1]

theorem mem_calls_of_callOf {h : Nat} {c : Call} (hc : callOf s h = some c) : (slotOf h, c) ∈ s.calls := by
  rw [mem_calls_iff hcan hr]
  exact ⟨slotOf_lt h, by rw [handleOf_slotOf hc, hc]⟩

/-- What holds of every call in the table holds of every call a handle names, and the other way. -/
theorem forall_calls_iff (p : Nat → Call → Prop) :
    (∀ e ∈ s.calls, p (handleOf s e.1) e.2) ↔ ∀ h c, callOf s h = some c → p h c := by
  constructor
  · intro hall h c hc
    have := hall _ (mem_calls_of_callOf hcan hr hc)
    rwa [handleOf_slotOf hc] at this
  · rintro hall ⟨k, c⟩ he
    exact hall _ _ ((mem_calls_iff hcan hr k c).1 he).2

omit hr in
theorem forall_agents_iff (p : Nat → Agent → Prop) : (∀ e ∈ s.agents, p e.1 e.2) ↔ ∀ a v, agentOf s a = some v → p a v := by
  constructor
  · intro hall a v hv
    exact hall _ ((mem_agents_iff hcan a v).2 hv)
  · rintro hall ⟨k, v⟩ he
    exact hall _ _ ((mem_agents_iff hcan k v).1 he)

omit hcan hr in
theorem holdIn_eq_offered (h a : Nat) : holdIn s h = some (.offered a) ↔ ∃ c d, callOf s h = some c ∧ c.status = .offered a d := by
  rw [holdIn, Option.bind_eq_some_iff]
  refine exists_congr fun c => ?_
  cases hs : c.status <;> simp [holdOf, hs, eq_comm]

omit hcan hr in
theorem holdIn_eq_connected (h : Nat) : holdIn s h = some .connected ↔ ∃ c t, callOf s h = some c ∧ c.status = .connected t := by
  rw [holdIn, Option.bind_eq_some_iff]
  refine exists_congr fun c => ?_
  cases hs : c.status <;> simp [holdOf, hs]

omit hcan hr in
theorem bondIn_eq_offered (a h : Nat) : bondIn s a = some (.offered h) ↔ ∃ v n, agentOf s a = some v ∧ v.status = .offered h n := by
  rw [bondIn, Option.bind_eq_some_iff]
  refine exists_congr fun v => ?_
  cases hs : v.status <;> simp [bondOf, hs]

omit hcan hr in
theorem bondIn_eq_talking (a h : Nat) : bondIn s a = some (.talking h) ↔ ∃ v p, agentOf s a = some v ∧ v.status = .talking h p := by
  rw [bondIn, Option.bind_eq_some_iff]
  refine exists_congr fun v => ?_
  cases hs : v.status <;> simp [bondOf, hs]

theorem paired_iff : Paired s ↔ PairedIn (holdIn s) (bondIn s) := by
  unfold Paired
  rw [forall_calls_iff hcan hr fun h c => ∀ a d, c.status = .offered a d → ∃ v n, agentOf s a = some v ∧ v.status = .offered h n,
    forall_agents_iff hcan fun a v => ∀ h n, v.status = .offered h n → ∃ c d, callOf s h = some c ∧ c.status = .offered a d,
    forall_calls_iff hcan hr fun h c => ∀ t, c.status = .connected t → ∃ a v p, agentOf s a = some v ∧ v.status = .talking h p,
    forall_agents_iff hcan fun _ v => ∀ h p, v.status = .talking h p → ∃ c t, callOf s h = some c ∧ c.status = .connected t,
    forall_agents_iff hcan fun a v => ∀ f ∈ s.agents, ∀ h p q, v.status = .talking h p → f.2.status = .talking h q → a = f.1]
  constructor
  · rintro ⟨p1, p2, p3, p4, p5⟩
    refine ⟨fun h a => ⟨fun e => ?_, fun e => ?_⟩, fun h e => ?_, fun a h e => ?_, fun a b h ea eb => ?_⟩
    · obtain ⟨c, d, hc, hs⟩ := (holdIn_eq_offered h a).1 e
      exact (bondIn_eq_offered a h).2 (p1 h c hc a d hs)
    · obtain ⟨v, n, hv, hs⟩ := (bondIn_eq_offered a h).1 e
      exact (holdIn_eq_offered h a).2 (p2 a v hv h n hs)
    · obtain ⟨c, t, hc, hs⟩ := (holdIn_eq_connected h).1 e
      obtain ⟨a, ha⟩ := p3 h c hc t hs
      exact ⟨a, (bondIn_eq_talking a h).2 ha⟩
    · obtain ⟨v, p, hv, hs⟩ := (bondIn_eq_talking a h).1 e
      exact (holdIn_eq_connected h).2 (p4 a v hv h p hs)
    · obtain ⟨v, p, hv, hvs⟩ := (bondIn_eq_talking a h).1 ea
      obtain ⟨w, q, hw, hws⟩ := (bondIn_eq_talking b h).1 eb
      exact p5 a v hv _ ((mem_agents_iff hcan b w).2 hw) h p q hvs hws
  · intro p
    refine ⟨fun h c hc a d hs => ?_, fun a v hv h n hs => ?_, fun h c hc t hs => ?_, fun a v hv h q hs => ?_, fun a v hv f hf h q r hs hs' => ?_⟩
    · exact (bondIn_eq_offered a h).1 ((p.offer h a).1 ((holdIn_eq_offered h a).2 ⟨c, d, hc, hs⟩))
    · exact (holdIn_eq_offered h a).1 ((p.offer h a).2 ((bondIn_eq_offered a h).2 ⟨v, n, hv, hs⟩))
    · obtain ⟨a, ha⟩ := p.agent h ((holdIn_eq_connected h).2 ⟨c, t, hc, hs⟩)
      exact ⟨a, (bondIn_eq_talking a h).1 ha⟩
    · exact (holdIn_eq_connected h).1 (p.call a h ((bondIn_eq_talking a h).2 ⟨v, q, hv, hs⟩))
    · obtain ⟨b, w⟩ := f
      have hw := (mem_agents_iff hcan b w).1 hf
      exact p.one a b h ((bondIn_eq_talking a h).2 ⟨v, q, hv, hs⟩) ((bondIn_eq_talking b h).2 ⟨w, r, hw, hs'⟩)

omit hcan hr in
theorem listedIn_eq_some (h q : Nat) : listedIn s h = some q ↔ ∃ c, callOf s h = some c ∧ inList c = true ∧ c.queue = q := by
  rw [listedIn, Option.bind_eq_some_iff]
  refine exists_congr fun c => ?_
  rw [listedOf]
  split <;> simp_all

omit hcan hr in
theorem seqIn_eq_some (h n : Nat) : seqIn s h = some n ↔ ∃ c, callOf s h = some c ∧ c.arrivalSeq = n := Option.map_eq_some_iff

theorem lists_iff : ListsOk s ↔ ListsIn (listedIn s) (seqIn s) (listIn s) s.arrivals := by
  unfold ListsOk
  rw [forall_calls_iff hcan hr fun h c => ∀ q, (queueOf s q).waiting.count h = if inList c = true ∧ c.queue = q then 1 else 0]
  constructor
  · rintro ⟨l1, l2, l3, l4, l5⟩
    refine ⟨fun q h => ⟨fun hh => (listedIn_eq_some h q).2 (l2 q h hh), fun hh => ?_⟩, l3, fun h n hn => ?_, fun g h n hg hh => ?_,
      fun h q hh => ?_⟩
    · obtain ⟨c, hc, hin, hq⟩ := (listedIn_eq_some h q).1 hh
      have := l1 h c hc q
      rw [if_pos ⟨hin, hq⟩] at this
      exact List.count_pos_iff.1 (by rw [listIn, this]; exact Nat.one_pos)
    · obtain ⟨c, hc, rfl⟩ := (seqIn_eq_some h n).1 hn
      exact l4 _ (mem_calls_of_callOf hcan hr hc)
    · obtain ⟨c, hc, hcn⟩ := (seqIn_eq_some g n).1 hg
      obtain ⟨d, hd, hdn⟩ := (seqIn_eq_some h n).1 hh
      have hslot := l5 _ (mem_calls_of_callOf hcan hr hc) _ (mem_calls_of_callOf hcan hr hd) (hcn.trans hdn.symm)
      exact eq_of_slotOf_eq hc hd hslot
    · obtain ⟨c, hc, -⟩ := (listedIn_eq_some h q).1 hh
      exact ⟨c.arrivalSeq, (seqIn_eq_some h _).2 ⟨c, hc, rfl⟩⟩
  · intro l
    refine ⟨fun h c hc q => ?_, fun q h hh => (listedIn_eq_some h q).1 ((l.mem q h).1 hh), l.sorted, ?_, ?_⟩
    · have hm : h ∈ (queueOf s q).waiting ↔ inList c = true ∧ c.queue = q := by
        refine (l.mem q h).trans ((listedIn_eq_some h q).trans ⟨fun ⟨d, hd, e⟩ => ?_, fun e => ⟨c, hc, e⟩⟩)
        obtain rfl := Option.some.inj (hc.symm.trans hd)
        exact e
      split
      · next e => exact List.count_eq_one_of_mem (l.nodup q) (hm.2 e)
      · next e => exact List.count_eq_zero_of_not_mem fun hh => e (hm.1 hh)
    · rintro ⟨k, c⟩ he
      exact l.below _ _ ((seqIn_eq_some _ _).2 ⟨c, ((mem_calls_iff hcan hr k c).1 he).2, rfl⟩)
    · rintro ⟨k, c⟩ he ⟨j, d⟩ hf e
      obtain ⟨hk, hc⟩ := (mem_calls_iff hcan hr k c).1 he
      obtain ⟨hj, hd⟩ := (mem_calls_iff hcan hr j d).1 hf
      have := l.one _ _ _ ((seqIn_eq_some _ _).2 ⟨c, hc, e⟩) ((seqIn_eq_some _ _).2 ⟨d, hd, rfl⟩)
      have hslots := congrArg slotOf this
      rwa [slotOf_handleOf s hk, slotOf_handleOf s hj] at hslots

end

end Sys2Proof.Machine
end

-- ==== Sys2Proof/Proofs/Kept ====
section
/-! The records in order together with the pairing and the waiting lists, kept by the shared operations. -/

namespace Sys2Proof.Machine

/-! ### The same traffic -/

/-- The two states agree on what calls, agents and waiting lists have of each other. -/
structure SameTraffic (s t : State) : Prop where
  hold : holdIn t = holdIn s
  bond : bondIn t = bondIn s
  listed : listedIn t = listedIn s
  seq : seqIn t = seqIn s
  lists : listIn t = listIn s
  arrivals : t.arrivals = s.arrivals

theorem holdOf_withoutAudio (c : Call) : holdOf (withoutAudio c) = holdOf c := by
  cases h : c.status <;> simp [holdOf, withoutAudio, h]

theorem listedOf_withoutAudio (c : Call) : listedOf (withoutAudio c) = listedOf c := by
  cases h : c.status <;> simp [listedOf, inList, isWaiting, isDiverting, withoutAudio, h]

theorem bondOf_withoutDeadline (v : Agent) : bondOf (withoutDeadline v) = bondOf v := by
  cases h : v.status <;> simp [bondOf, withoutDeadline, h]

theorem map_of_withoutAudio {β : Type} (f : Call → β) (hf : ∀ c, f (withoutAudio c) = f c) {o o' : Option Call}
    (h : o.map withoutAudio = o'.map withoutAudio) : o.map f = o'.map f := by
  have e (o : Option Call) : o.map f = (o.map withoutAudio).map f := by cases o <;> simp [hf]
  rw [e, h, ← e]

theorem bind_of_withoutAudio {β : Type} (f : Call → Option β) (hf : ∀ c, f (withoutAudio c) = f c) {o o' : Option Call}
    (h : o.map withoutAudio = o'.map withoutAudio) : o.bind f = o'.bind f := by
  have e (o : Option Call) : o.bind f = (o.map f).join := by cases o <;> rfl
  rw [e, e, map_of_withoutAudio f hf h]

section
variable {s t : State} {h : Nat} (e : (callOf t h).map withoutAudio = (callOf s h).map withoutAudio)
include e

theorem holdIn_of_withoutAudio : holdIn t h = holdIn s h := bind_of_withoutAudio _ holdOf_withoutAudio e
theorem listedIn_of_withoutAudio : listedIn t h = listedIn s h := bind_of_withoutAudio _ listedOf_withoutAudio e
theorem seqIn_of_withoutAudio : seqIn t h = seqIn s h := map_of_withoutAudio _ (fun _ => rfl) e

end

/-- Calls alike but for what the Playout Unit writes make the same traffic. -/
theorem SameTraffic.of {s t : State} (calls : ∀ h, (callOf t h).map withoutAudio = (callOf s h).map withoutAudio)
    (bonds : ∀ a, bondIn t a = bondIn s a) (lists : ∀ q, (queueOf t q).waiting = (queueOf s q).waiting)
    (arrivals : t.arrivals = s.arrivals) : SameTraffic s t :=
  ⟨funext fun h => holdIn_of_withoutAudio (calls h), funext bonds, funext fun h => listedIn_of_withoutAudio (calls h),
    funext fun h => seqIn_of_withoutAudio (calls h), funext lists, arrivals⟩

theorem SameTraffic.of_records {s t : State} (e : records t = records s) : SameTraffic s t := by
  have hcall (h : Nat) : callOf t h = callOf s h := (congrArg (callOf · h) e :)
  exact .of (fun h => by rw [hcall]) (fun a => (congrArg (bondIn · a) e :)) (fun q => (congrArg (fun r => (queueOf r q).waiting) e :))
    (congrArg State.arrivals e :)

theorem bondIn_of_withoutDeadline {s t : State} {a : Nat}
    (h : (agentOf t a).map withoutDeadline = (agentOf s a).map withoutDeadline) : bondIn t a = bondIn s a := by
  have e (o : Option Agent) : o.bind bondOf = ((o.map withoutDeadline).map bondOf).join := by
    cases o <;> simp [bondOf_withoutDeadline]
  rw [bondIn, bondIn, e, h, ← e]

theorem sameTraffic_evalSurge (q : Nat) (s : State) : SameTraffic s (evalSurge q s) :=
  .of (fun h => by rw [callOf_evalSurge]) (fun a => bondIn_of_withoutDeadline ((evalSurge_spec q s).2.1 a)) (evalSurge_waiting s q)
    (evalSurge_arrivals q s)

theorem sameTraffic_of_audio {s t : State} (h : AudioOnly s t) : SameTraffic s t :=
  .of h.callOf (fun a => by rw [bondIn, bondIn, h.agentOf]) (fun q => by rw [h.queueOf]) h.arrivals

theorem SameTraffic.trans {s t u : State} (h : SameTraffic s t) (h' : SameTraffic t u) : SameTraffic s u :=
  ⟨h'.hold.trans h.hold, h'.bond.trans h.bond, h'.listed.trans h.listed, h'.seq.trans h.seq, h'.lists.trans h.lists,
    h'.arrivals.trans h.arrivals⟩

/-! ### A record written -/

theorem holdIn_of_call {s t : State} {h : Nat} {o : Option Call} (e : ∀ g, callOf t g = if g = h then o else callOf s g) (g : Nat) :
    holdIn t g = if g = h then o.bind holdOf else holdIn s g := by
  rw [holdIn, e]; split <;> rfl

theorem listedIn_of_call {s t : State} {h : Nat} {o : Option Call} (e : ∀ g, callOf t g = if g = h then o else callOf s g) (g : Nat) :
    listedIn t g = if g = h then o.bind listedOf else listedIn s g := by
  rw [listedIn, e]; split <;> rfl

theorem seqIn_of_call {s t : State} {h : Nat} {o : Option Call} (e : ∀ g, callOf t g = if g = h then o else callOf s g) (g : Nat) :
    seqIn t g = if g = h then o.map (·.arrivalSeq) else seqIn s g := by
  rw [seqIn, e]; split <;> rfl

theorem bondIn_of_agent {s t : State} {a : Nat} {o : Option Agent} (e : ∀ b, agentOf t b = if b = a then o else agentOf s b) (b : Nat) :
    bondIn t b = if b = a then o.bind bondOf else bondIn s b := by
  rw [bondIn, e]; split <;> rfl

theorem holdIn_eq {s : State} {h : Nat} {c : Call} (hc : callOf s h = some c) : holdIn s h = holdOf c := by rw [holdIn, hc]; rfl
theorem bondIn_eq {s : State} {a : Nat} {v : Agent} (hv : agentOf s a = some v) : bondIn s a = bondOf v := by rw [bondIn, hv]; rfl
theorem listedIn_eq {s : State} {h : Nat} {c : Call} (hc : callOf s h = some c) : listedIn s h = listedOf c := by
  rw [listedIn, hc]; rfl
theorem seqIn_eq {s : State} {h : Nat} {c : Call} (hc : callOf s h = some c) : seqIn s h = some c.arrivalSeq := by
  rw [seqIn, hc]; rfl

/-! ### What an offer writes -/

/-- The record of a call that is OFFERED. -/
def offeredCall (s : State) (b : Nat) (x : Call) : Call :=
  { x with status := .offered b (offerDeadline s x.queue), offerCount := min 255 (x.offerCount + 1) }

/-- The state of an offer before the surge monitor evaluates its queue. -/
def offerWritten (s : State) (h b : Nat) (x : Call) (v : Agent) (rotate : Bool) : State :=
  let t := setAgentRec (leaveReady (setCallRec (leaveList s h x.queue) h (offeredCall s b x)) b) b
    { v with status := .offered h (readySeqOf s b) }
  if rotate then setQueueRec t x.queue { queueOf t x.queue with cursor := b } else t

theorem makeOffer_eq_written {s : State} {h b : Nat} {x : Call} {v : Agent} (hx : callOf s h = some x) (hv : agentOf s b = some v)
    (rotate : Bool) : makeOffer h b rotate s =
      offerNotice h b (offeredCall s b x) (offerDeadline s x.queue) (evalSurge x.queue (offerWritten s h b x v rotate)) :=
  makeOffer_eq hx hv rotate

theorem offerWritten_spec {s : State} {h : Nat} {x : Call} (hx : callOf s h = some x) (b : Nat) (v : Agent) (rotate : Bool) :
    (∀ g, callOf (offerWritten s h b x v rotate) g = if g = h then some (offeredCall s b x) else callOf s g) ∧
    (∀ g, agentOf (offerWritten s h b x v rotate) g =
      if g = b then some { v with status := .offered h (readySeqOf s b) } else agentOf s g) ∧
    (∀ q, listIn (offerWritten s h b x v rotate) q = if q = x.queue then (listIn s x.queue).erase h else listIn s q) ∧
    (offerWritten s h b x v rotate).arrivals = s.arrivals := by
  obtain ⟨t, ht⟩ : ∃ t, t = setAgentRec (leaveReady (setCallRec (leaveList s h x.queue) h (offeredCall s b x)) b) b
      { v with status := .offered h (readySeqOf s b) } := ⟨_, rfl⟩
  have hcalls (g : Nat) : callOf t g = if g = h then some (offeredCall s b x) else callOf s g := by
    rw [ht, callOf_setAgentRec, callOf_leaveReady, callOf_setCallRec (b := x) (by rw [callOf_leaveList, hx]), callOf_leaveList]
  have hagents (g : Nat) : agentOf t g = if g = b then some { v with status := .offered h (readySeqOf s b) } else agentOf s g := by
    rw [ht, agentOf_setAgentRec, agentOf_leaveReady, agentOf_setCallRec, agentOf_leaveList]
  have hlists (q : Nat) : listIn t q = if q = x.queue then (listIn s x.queue).erase h else listIn s q := by
    rw [ht, listIn, queueOf_setAgentRec, queueOf_leaveReady, queueOf_setCallRec, queueOf_leaveList]
    split <;> rfl
  have harr : t.arrivals = s.arrivals := by
    rw [ht, setAgentRec_arrivals, leaveReady_arrivals, setCallRec_arrivals, leaveList_arrivals]
  cases rotate with
  | false =>
    rw [show offerWritten s h b x v false = t from ht.symm]
    exact ⟨hcalls, hagents, hlists, harr⟩
  | true =>
    rw [show offerWritten s h b x v true = setQueueRec t x.queue { queueOf t x.queue with cursor := b } by rw [ht]; rfl]
    refine ⟨hcalls, hagents, fun q => ?_, harr⟩
    rw [← hlists, listIn, queueOf_setQueueRec]
    split
    · next e => rw [e]; rfl
    · rfl

/-! ### What is kept -/

/-- The records in order, and, in canonical tables, the pairing, and the waiting lists where `l` asks for them. -/
structure Kept (c a l : Prop) (s : State) : Prop where
  sound : Sound c a s
  paired : c → PairedIn (holdIn s) (bondIn s)
  lists : c → l → ListsIn (listedIn s) (seqIn s) (listIn s) s.arrivals

section
variable {c a l : Prop} {s t : State}

theorem Kept.same (k : Kept c a l s) (e : SameTraffic s t) (h : Sound c a t) : Kept c a l t where
  sound := h
  paired hc := by rw [e.hold, e.bond]; exact k.paired hc
  lists hc hl := by rw [e.listed, e.seq, e.lists, e.arrivals]; exact k.lists hc hl

theorem Kept.of_records (k : Kept c a l s) (e : records t = records s) : Kept c a l t := k.same (.of_records e) (k.sound.of_records e)

theorem Kept.notify (k : Kept c a l s) (kind body) : Kept c a l (notify kind body s) := k.of_records (records_notify ..)

theorem Kept.evalSurge (k : Kept c a l s) {q : Nat} (hq : q < 64) : Kept c a l (evalSurge q s) :=
  k.same (sameTraffic_evalSurge q s) (k.sound.evalSurge hq)

/-- A queue record written with its waiting list kept. -/
theorem Kept.setQueueRec (k : Kept c a l s) {q : Nat} {r : Queue} (hq : q < 64) (hr : QueueFine a r)
    (hw : r.waiting = (queueOf s q).waiting) : Kept c a l (setQueueRec s q r) :=
  k.same (.of (fun _ => rfl) (fun _ => rfl) (fun j => by
    rw [queueOf_setQueueRec]
    split
    · next e => rw [e, hw]
    · rfl) rfl) (k.sound.setQueueRec hq hr)

theorem Kept.count (k : Kept c a l s) {q : Nat} (hq : q < 64) (f : Counters → Counters) : Kept c a l (count s q f) :=
  k.setQueueRec hq (k.sound.queue q) rfl

theorem Kept.takeSample (k : Kept c a l s) {q n : Nat} (hq : q < 64) (hn : n ≤ 65535) : Kept c a l (takeSample s q n) := by
  refine k.same (.of (fun _ => rfl) (fun _ => rfl) (fun j => ?_) rfl) (k.sound.takeSample hq hn)
  rw [queueOf_takeSample]
  split
  · next e => rw [e]
  · rfl

/-- A step that moves one agent, which stays without a call, or keeps the one it has. -/
theorem Kept.agent (k : Kept c a l s) {b : Nat} {o : Option Agent} (h : Sound c a t) (hcalls : ∀ g, callOf t g = callOf s g)
    (hqueues : ∀ q, queueOf t q = queueOf s q) (harr : t.arrivals = s.arrivals)
    (hagents : ∀ x, agentOf t x = if x = b then o else agentOf s x) (hbond : o.bind bondOf = bondIn s b) : Kept c a l t :=
  k.same (.of (fun g => by rw [hcalls]) (fun x => by
    rw [bondIn_of_agent hagents, hbond]
    split
    · next e => rw [e]
    · rfl) (fun q => by rw [hqueues]) harr) h

theorem Kept.setAgentRec (k : Kept c a l s) {b : Nat} {v : Agent} (hb : b < 512) (hv : WrapFine v) (hbond : bondOf v = bondIn s b) :
    Kept c a l (setAgentRec s b v) :=
  k.agent (o := some v) (k.sound.setAgentRec hb hv) (fun _ => rfl) (fun _ => rfl) rfl (fun x => by rw [agentOf_setAgentRec]) hbond

theorem Kept.dropAgent (k : Kept c a l s) {b : Nat} (hbond : bondIn s b = none) : Kept c a l (dropAgent s b) :=
  k.agent (o := none) (k.sound.dropAgent b) (fun _ => rfl) (fun _ => rfl) rfl (fun x => by rw [agentOf_dropAgent]) hbond.symm

theorem Kept.enterReady (k : Kept c a l s) {b : Nat} (hb : b < 512) (hbond : bondIn s b = none) (v : Agent) (d : Option Time) :
    Kept c a l (enterReady s b v d) :=
  k.agent (o := some { v with status := .ready s.readies d }) (k.sound.enterReady hb v d) (fun _ => rfl) (fun _ => rfl) rfl
    (fun x => by rw [agentOf_enterReady]) hbond.symm

theorem Kept.leaveReady (k : Kept c a l s) (b : Nat) : Kept c a l (leaveReady s b) :=
  k.same (.of (fun _ => rfl) (fun _ => rfl) (fun _ => rfl) rfl) (k.sound.leaveReady b)

/-! ### Offers -/

theorem inList_of_waiting {x : Call} (h : x.status = .waiting) : inList x = true := by simp [inList, isWaiting, h]

/-- The offer of a WAITING call to an agent without a call makes the two a pair and takes the call out of its list. -/
theorem Kept.makeOffer (k : Kept c a l s) {h b : Nat} {x : Call} {v : Agent} (hx : callOf s h = some x) (hw : x.status = .waiting)
    (hv : agentOf s b = some v) (hb : bondOf v = none) (rotate : Bool) : Kept c a l (makeOffer h b rotate s) := by
  obtain ⟨hcalls, hagents, hlists, harr⟩ := offerWritten_spec hx b v rotate
  have same : SameTraffic (offerWritten s h b x v rotate) (Machine.makeOffer h b rotate s) := by
    rw [makeOffer_eq_written hx hv, offerNotice]
    exact (sameTraffic_evalSurge ..).trans (.of_records (records_notify ..))
  have hlistedx : listedIn s h = some x.queue := by rw [listedIn_eq hx, listedOf, if_pos (inList_of_waiting hw)]
  refine ⟨k.sound.makeOffer h b rotate, fun hc => ?_, fun hc hl => ?_⟩
  · rw [same.hold, same.bond]
    refine (k.paired hc).rebond (h := h) (a := b) (.inl ⟨?_, (bondIn_eq hv).trans hb⟩) (.inr (.inl ⟨?_, ?_⟩)) (fun g hg => ?_) fun g hg => ?_
    · rw [holdIn_eq hx, holdOf, hw]
    · rw [holdIn_of_call hcalls, if_pos rfl]; rfl
    · rw [bondIn_of_agent hagents, if_pos rfl]; rfl
    · rw [holdIn_of_call hcalls, if_neg hg]
    · rw [bondIn_of_agent hagents, if_neg hg]
  · have hseq : seqIn (offerWritten s h b x v rotate) = seqIn s := funext fun g => by
      rw [seqIn_of_call hcalls]
      split
      · next hg => rw [hg, seqIn_eq hx]; rfl
      · rfl
    rw [same.listed, same.seq, same.lists, same.arrivals, harr, hseq]
    refine (k.lists hc hl).leave hlistedx (fun g => ?_) hlists
    rw [listedIn_of_call hcalls]
    rfl

theorem bondOf_of_ready {v : Agent} {n : Nat} {d : Option Time} (h : v.status = .ready n d) : bondOf v = none := by
  rw [bondOf, h]

theorem Kept.matchCall (k : Kept c a l s) (h : Nat) : Kept c a l (matchCall h s) := by
  rcases matchCall_cases h s with e | ⟨x, b, hx, hw, -, hb, e⟩ <;> rw [e]
  · exact k
  · obtain ⟨v, n, hv, hn⟩ := ready_of_chooseAgent hb
    exact k.makeOffer hx hw hv (bondOf_of_ready hn) _

theorem Kept.canonical (k : Kept c a l s) (hc : c) : Canonical s := ((sound_iff c a s).1 k.sound).1 hc

theorem Kept.inRange (k : Kept c a l s) : InRange s := ((sound_iff c a s).1 k.sound).2.1

/-- What is asked in canonical tables alone may be shown there. -/
theorem Kept.intro (h : Sound c a t) (k : c → Kept c a l t) : Kept c a l t :=
  ⟨h, fun hc => (k hc).paired hc, fun hc => (k hc).lists hc⟩

theorem Kept.matchAgent (k : Kept c a l s) (b : Nat) : Kept c a l (matchAgent b s) := by
  refine .intro (k.sound.matchAgent b) fun hc => ?_
  rcases matchAgent_cases b s with e | ⟨v, slot, x, hv, hbest, e⟩ <;> rw [e]
  · exact k
  · obtain ⟨hmem, htake⟩ := bestCall_mem hbest
    obtain ⟨hw, -, ⟨n, hn⟩, -⟩ := (takeable_eq_true s b v x).1 htake
    have hx := ((mem_calls_iff (k.canonical hc) k.inRange slot x).1 hmem).2
    exact k.makeOffer hx hw hv (bondOf_of_ready hn) false

theorem Kept.offerAgent (k : Kept c a l s) (b : Nat) : Kept c a l (offerAgent b s) := by
  unfold Machine.offerAgent
  split
  · exact k.matchAgent b
  · exact k

theorem Kept.reopeningPass (k : Kept c a l s) (q : Nat) : Kept c a l (reopeningPass q s) := by
  unfold Machine.reopeningPass
  generalize (rankOrder s q).map (·.1) = hs
  induction hs generalizing s with
  | nil => exact k
  | cons h hs ih => exact ih (k.matchCall h)

/-! ### The audio side -/

theorem Kept.of_audio (k : Kept c a l s) (e : AudioOnly s t) (h : Sound c a t) : Kept c a l t := k.same (sameTraffic_of_audio e) h

theorem Kept.attach (k : Kept c a l s) (h : Nat) : Kept c a l (attach h s) := k.of_audio (audioOnly_attach h s) (k.sound.attach h)

theorem Kept.detach (k : Kept c a l s) (h : Nat) : Kept c a l (detach h s) := k.of_audio (audioOnly_detach h s) (k.sound.detach h)

end

end Sys2Proof.Machine
end

-- ==== Sys2Proof/Proofs/CallMoves ====
section
/-! The moves of calls between queues, agents and slots keep the records in order, the pairing and the waiting lists. -/

namespace Sys2Proof.Machine

section
variable {c a l : Prop} {s u : State}

/-- With no call, no agent and no list, there is nothing to keep. -/
theorem Kept.of_empty (h : Sound c a u) (hcalls : u.calls = []) (hagents : u.agents = []) (hlists : ∀ q, (queueOf u q).waiting = []) :
    Kept c a l u := by
  have hcall (g : Nat) : callOf u g = none := by
    rw [callOf, hcalls]
    split <;> rfl
  have hhold (g : Nat) : holdIn u g = none := by rw [holdIn, hcall]; rfl
  have hbond (b : Nat) : bondIn u b = none := by rw [bondIn, agentOf, hagents]; rfl
  have hlisted (g : Nat) : listedIn u g = none := by rw [listedIn, hcall]; rfl
  have hseq (g : Nat) : seqIn u g = none := by rw [seqIn, hcall]; rfl
  refine ⟨h, fun _ => ⟨fun g b => ?_, fun g e => ?_, fun b g e => ?_, fun b b' g e _ => ?_⟩, fun _ _ => ⟨fun q g => ?_, fun q => ?_,
    fun g n e => ?_, fun g g' n e _ => ?_, fun g q e => ?_⟩⟩
  · simp [hhold, hbond]
  · simp [hhold] at e
  · simp [hbond] at e
  · simp [hbond] at e
  · simp [listIn, hlists, hlisted]
  · simp [listIn, hlists]
  · simp [hseq] at e
  · simp [hseq] at e
  · simp [hlisted] at e

/-- Only the call that a handle names may have another record in its slot. -/
theorem callOf_other {h g : Nat} {x : Call} (hx : callOf s h = some x) (hu : ∀ k, slotOf k = slotOf h → k ≠ h → callOf u k = none)
    (hne : ∀ k, slotOf k ≠ slotOf h → callOf u k = callOf s k) (hg : g ≠ h) : callOf u g = callOf s g := by
  by_cases hs : slotOf g = slotOf h
  · rw [hu g hs hg]
    cases e : callOf s g with
    | none => rfl
    | some y => exact absurd (eq_of_slotOf_eq e hx hs) hg
  · exact hne g hs

/-- A call that one handle names is named by no other. -/
theorem callOf_eq_none_of_slot {h k : Nat} {x : Call} (hx : callOf u h = some x) (hs : slotOf k = slotOf h) (hk : k ≠ h) :
    callOf u k = none := by
  cases e : callOf u k with
  | none => rfl
  | some y => exact absurd (eq_of_slotOf_eq e hx hs) hk

theorem listedOf_of_offered {x : Call} {b : Nat} {d : Option Time} (h : x.status = .offered b d) : listedOf x = none := by
  simp [listedOf, inList, isWaiting, isDiverting, h]

theorem listedOf_of_connected {x : Call} {t : Time} (h : x.status = .connected t) : listedOf x = none := by
  simp [listedOf, inList, isWaiting, isDiverting, h]

theorem holdOf_of_offered {x : Call} {b : Nat} {d : Option Time} (h : x.status = .offered b d) : holdOf x = some (.offered b) := by
  rw [holdOf, h]

theorem bondOf_of_offered {v : Agent} {h n : Nat} (hs : v.status = .offered h n) : bondOf v = some (.offered h) := by
  rw [bondOf, hs]

theorem wrapOf_of_offered {v : Agent} {h n : Nat} (hs : v.status = .offered h n) : wrapOf v = none := by
  rw [wrapOf, hs]

/-- The agent a call is OFFERED to. -/
theorem Kept.offeredAgent (k : Kept c a l s) (hc : c) {h b : Nat} {x : Call} {d : Option Time} (hx : callOf s h = some x)
    (hst : x.status = .offered b d) : ∃ v n, agentOf s b = some v ∧ v.status = .offered h n :=
  (bondIn_eq_offered b h).1 (((k.paired hc).offer h b).1 ((holdIn_eq hx).trans (holdOf_of_offered hst)))

/-- The call an agent is OFFERED. -/
theorem Kept.offeredCall (k : Kept c a l s) (hc : c) {h b n : Nat} {v : Agent} (hv : agentOf s b = some v)
    (hst : v.status = .offered h n) : ∃ x d, callOf s h = some x ∧ x.status = .offered b d :=
  (holdIn_eq_offered h b).1 (((k.paired hc).offer h b).2 ((bondIn_eq hv).trans (bondOf_of_offered hst)))

/-! ### An offer ends without an answer -/

/-- A call back in its list and an agent without a call are no pair. -/
theorem Kept.offerEnded (k : Kept c a l s) {h b : Nat} {x : Call} {d : Option Time} {f : Counters → Counters}
    (hx : callOf s h = some x) (hst : x.status = .offered b d) (e : OfferEnded s u h b x f) (hbond : bondIn u b = none)
    (harr : u.arrivals = s.arrivals) (hu : Sound c a u) : Kept c a l u := by
  have hcalls (g : Nat) : callOf u g = if g = h then some { x with
      status := .waiting, exclusion := x.exclusion.drop (x.exclusion.length - 3) ++ [b] } else callOf s g := by
    split
    · next hg => rw [hg, e.call]
    · next hg => exact callOf_other hx (fun k hs hk => callOf_eq_none_of_slot e.call hs hk) e.calls hg
  refine ⟨hu, fun hc => ?_, fun hc hl => ?_⟩
  · have hpair := (k.paired hc).offer h b
    have hold := (holdIn_eq hx).trans (holdOf_of_offered hst)
    refine (k.paired hc).rebond (h := h) (a := b) (.inr (.inl ⟨hold, hpair.1 hold⟩)) (.inl ⟨?_, hbond⟩) (fun g hg => ?_) fun g hg => ?_
    · rw [holdIn_of_call hcalls, if_pos rfl]; rfl
    · rw [holdIn_of_call hcalls, if_neg hg]
    · exact bondIn_of_withoutDeadline (e.agents g hg)
  · have hseq : seqIn u = seqIn s := funext fun g => by
      rw [seqIn_of_call hcalls]
      split
      · next hg => rw [hg, seqIn_eq hx]; rfl
      · rfl
    obtain ⟨before, after, hbefore, hafter, hle, hlt⟩ := e.rejoins
    rw [hseq, harr]
    refine (k.lists hc hl).join (h := h) (q := x.queue) ?_ (seqIn_eq hx) (fun g => ?_) hbefore hle hlt fun j => ?_
    · rw [listedIn_eq hx, listedOf_of_offered hst]
    · rw [listedIn_of_call hcalls]; rfl
    · rw [listIn]
      split
      · next hj => rw [hj, hafter]
      · next hj => rw [e.queues j hj, listIn]

theorem arrivals_of_agentMoved {h b : Nat} {x : Call} {f : Counters → Counters} {q : Nat}
    (m : AgentMoved (returnCall h b x s) u b q f) : u.arrivals = s.arrivals := by
  have e : outsideMatching u = outsideMatching s := m.outside.trans (outsideMatching_returnCall ..)
  simpa [outsideMatching] using congrArg State.arrivals e

/-- The end of an offer, from what becomes of the agent. -/
theorem Kept.agentMoved (k : Kept c a l s) (hc : c) {h b : Nat} {x : Call} {d : Option Time} {f : Counters → Counters}
    (hx : callOf s h = some x) (hst : x.status = .offered b d) (m : AgentMoved (returnCall h b x s) u b x.queue f)
    (hbond : bondIn u b = none) (hu : Sound c a u) : Kept c a l u := by
  obtain ⟨v, n, hv, hvs⟩ := k.offeredAgent hc hx hst
  exact k.offerEnded hx hst (m.offerEnded hx hv (wrapOf_of_offered hvs)) hbond (arrivals_of_agentMoved m) hu

/-- The agent record that `refusingAgent` and its like write keeps the records in order. -/
theorem Sound.refusingAgent (h : Sound c a s) (b q : Nat) (reason : Option Nat) : Sound c a (refusingAgent b q reason s) := by
  unfold Machine.refusingAgent
  split
  · exact h
  · next v hv =>
    split
    · exact h.setAgentRec (h.agent hv).1 (wrapFine_of_none rfl)
    · exact h.enterReady (h.agent hv).1 _ _

theorem Sound.offerAgent (h : Sound c a s) (b : Nat) : Sound c a (offerAgent b s) := by
  unfold Machine.offerAgent
  split
  · exact h.matchAgent b
  · exact h

theorem Kept.refuseCall (k : Kept c a l s) {h b : Nat} {x : Call} {d : Option Time} (hx : callOf s h = some x)
    (hst : x.status = .offered b d) (reason : Option Nat) : Kept c a l (refuseCall h b reason x s) := by
  have hq := k.sound.call hx
  have refused : Sound c a (Machine.refusingAgent b x.queue reason (refusedCall s h b x)) :=
    ((k.sound.returnCall h b hq).count hq _).refusingAgent b x.queue reason
  refine .intro ((refused.matchCall h).offerAgent b) fun hc => ?_
  obtain ⟨v, n, hv, hvs⟩ := k.offeredAgent hc hx hst
  have hw := wrapOf_of_offered hvs
  have hv' : agentOf (refusedCall s h b x) b = some v := agentOf_returnCall_of_not_wrap hv hw h b x
  have moved : AgentMoved (returnCall h b x s) (refusedCall s h b x) b x.queue _ :=
    (agentMoved_self (agentOf_returnCall_of_not_wrap hv hw h b x) hw _).count _
  refine Kept.offerAgent (Kept.matchCall ?_ h) b
  show Kept c a l (Machine.refusingAgent b x.queue reason (refusedCall s h b x))
  cases reason with
  | some r =>
    have e : Machine.refusingAgent b x.queue (some r) (refusedCall s h b x) =
        Machine.setAgentRec (refusedCall s h b x) b { v with status := .notReady r } := by simp only [Machine.refusingAgent, hv']
    rw [e] at refused ⊢
    refine k.agentMoved hc hx hst (moved.setAgentRec rfl) ?_ refused
    rw [bondIn, agentOf_setAgentRec, if_pos rfl]; rfl
  | none =>
    have e : Machine.refusingAgent b x.queue none (refusedCall s h b x) =
        Machine.enterReady (refusedCall s h b x) b v (coolDownEndFor (refusedCall s h b x) x.queue) := by
      simp only [Machine.refusingAgent, hv']
    rw [e] at refused ⊢
    refine k.agentMoved hc hx hst (moved.enterReady v _) ?_ refused
    rw [bondIn, agentOf_enterReady, if_pos rfl]; rfl

/-- What an agent that leaves its offer becomes. -/
theorem Kept.withdrawAgent (k : Kept c a l s) {h b n : Nat} {v : Agent} (hv : agentOf s b = some v) (hvs : v.status = .offered h n)
    (reason : Option Nat) : Kept c a l (withdrawAgent b h v reason s) := by
  have hb := (k.sound.agent hv).1
  have after {t : State} (ht : Sound c a t) : Sound c a (match reason with
      | none => Machine.dropAgent t b
      | some r => Machine.setAgentRec t b { v with status := .notReady r }) := by
    cases reason with
    | none => exact ht.dropAgent b
    | some r => exact ht.setAgentRec hb (wrapFine_of_none rfl)
  have sound : Sound c a (Machine.withdrawAgent b h v reason s) := by
    cases hx : callOf s h with
    | none =>
      have := after k.sound
      cases reason <;> simpa only [Machine.withdrawAgent, hx] using this
    | some x =>
      rw [withdrawAgent_eq hx]
      exact ((after (k.sound.returnCall h b (k.sound.call hx))).notify _ _).matchCall h
  refine .intro sound fun hc => ?_
  obtain ⟨x, d, hx, hst⟩ := k.offeredCall hc hv hvs
  have hw := wrapOf_of_offered hvs
  have moved : AgentMoved (returnCall h b x s) (returnCall h b x s) b x.queue id :=
    agentMoved_self (agentOf_returnCall_of_not_wrap hv hw h b x) hw _
  have hs := after (k.sound.returnCall h b (k.sound.call hx))
  rw [withdrawAgent_eq hx]
  refine (Kept.notify ?_ _ _).matchCall h
  cases reason with
  | none =>
    refine k.agentMoved hc hx hst moved.dropAgent ?_ hs
    rw [bondIn, agentOf_dropAgent, if_pos rfl]; rfl
  | some r =>
    refine k.agentMoved hc hx hst (moved.setAgentRec rfl) ?_ hs
    rw [bondIn, agentOf_setAgentRec, if_pos rfl]; rfl

theorem Sound.missOffer (h : Sound c a s) {b : Nat} (hb : b < 512) (g : Nat) (x : Call) (v : Agent) :
    Sound c a (missOffer g b x v s) := by
  unfold Machine.missOffer
  dsimp only
  split
  · exact (h.setAgentRec hb (wrapFine_of_none rfl)).notify _ _
  · exact h.enterReady hb _ _

theorem Kept.expireOffer (k : Kept c a l s) {h b : Nat} {x : Call} {d : Option Time} (hx : callOf s h = some x)
    (hst : x.status = .offered b d) : Kept c a l (expireOffer h b x s) := by
  have hq := k.sound.call hx
  have missed : Sound c a (missedCall s h b x) := (k.sound.returnCall h b hq).count hq _
  have sound : Sound c a (Machine.expireOffer h b x s) := by
    refine Sound.offerAgent (Sound.matchCall (Sound.notify ?_ _ _) h) b
    show Sound c a (match agentOf (missedCall s h b x) b with
      | some v => Machine.missOffer h b x v (missedCall s h b x)
      | none => missedCall s h b x)
    cases hv : agentOf (missedCall s h b x) b with
    | none => exact missed
    | some v => exact missed.missOffer (missed.agent hv).1 h x v
  refine .intro sound fun hc => ?_
  obtain ⟨v, n, hv, hvs⟩ := k.offeredAgent hc hx hst
  have hw := wrapOf_of_offered hvs
  have moved := agentMoved_missedCall (h := h) (c := x) hv hw
  rw [expireOffer_eq hv hw]
  refine Kept.offerAgent (Kept.matchCall (Kept.notify ?_ _ _) h) b
  by_cases hp : parks s x v
  · rw [missOffer_of_parks hp]
    refine Kept.notify ?_ _ _
    refine k.agentMoved hc hx hst (moved.setAgentRec rfl) ?_ (missed.setAgentRec (k.sound.agent hv).1 (wrapFine_of_none rfl))
    rw [bondIn, agentOf_setAgentRec, if_pos rfl]; rfl
  · rw [missOffer_of_not_parks hp]
    refine k.agentMoved hc hx hst (moved.enterReady _ _) ?_ (missed.enterReady (k.sound.agent hv).1 _ _)
    rw [bondIn, agentOf_enterReady, if_pos rfl]; rfl

end

end Sys2Proof.Machine
end

-- ==== Sys2Proof/Proofs/CallEnds ====
section
/-! What becomes of calls that arrive, are answered, released, removed or diverted, and of wraps that end. -/

namespace Sys2Proof.Machine

section
variable {c a l : Prop} {s u : State}

/-! ### Calls and agents that move -/

/-- A call record written over one that holds the same agent and stands in the same list. -/
theorem Kept.setCallRec (k : Kept c a l s) {h : Nat} {x y : Call} (hx : callOf s h = some x) (hq : y.queue < 64)
    (hhold : holdOf y = holdOf x) (hlisted : listedOf y = listedOf x) (hseq : y.arrivalSeq = x.arrivalSeq) :
    Kept c a l (setCallRec s h y) := by
  have hcalls := callOf_setCallRec hx y
  refine k.same ⟨funext fun g => ?_, rfl, funext fun g => ?_, funext fun g => ?_, rfl, rfl⟩ (k.sound.setCallRec h hq)
  · rw [holdIn_of_call hcalls]
    split
    · next e => rw [e, holdIn_eq hx, ← hhold]; rfl
    · rfl
  · rw [listedIn_of_call hcalls]
    split
    · next e => rw [e, listedIn_eq hx, ← hlisted]; rfl
    · rfl
  · rw [seqIn_of_call hcalls]
    split
    · next e => rw [e, seqIn_eq hx, ← hseq]; rfl
    · rfl

/-- A call that is freed, with the pairing as it leaves it. -/
theorem Kept.freed (k : Kept c a l s) {h : Nat} (hu : Sound c a u) (hgone : callOf u h = none)
    (hothers : ∀ g, g ≠ h → (callOf u g).map withoutAudio = (callOf s g).map withoutAudio)
    (hpaired : c → PairedIn (holdIn u) (bondIn u))
    (hlists : ∀ j, listIn u j = if listedIn s h = some j then (listIn s j).erase h else listIn s j)
    (harr : u.arrivals = s.arrivals) : Kept c a l u := by
  refine ⟨hu, hpaired, fun hc hl => ?_⟩
  rw [harr]
  refine (k.lists hc hl).gone (fun g => ?_) (fun g => ?_) hlists
  · split
    · next e => rw [e, listedIn, hgone]; rfl
    · next e => exact listedIn_of_withoutAudio (hothers g e)
  · split
    · next e => rw [e, seqIn, hgone]; rfl
    · next e => exact seqIn_of_withoutAudio (hothers g e)

/-- A call that is freed and the agent that had it are no pair. -/
theorem PairedIn.freed {h b : Nat} (p : PairedIn (holdIn s) (bondIn s)) (old : Fits h b (holdIn s h) (bondIn s b))
    (hgone : callOf u h = none) (hothers : ∀ g, g ≠ h → (callOf u g).map withoutAudio = (callOf s g).map withoutAudio)
    (hbond : bondIn u b = none) (hbonds : ∀ j, j ≠ b → bondIn u j = bondIn s j) : PairedIn (holdIn u) (bondIn u) := by
  refine p.rebond old (.inl ⟨?_, hbond⟩) (fun g hg => holdIn_of_withoutAudio (hothers g hg)) hbonds
  rw [holdIn, hgone]; rfl

theorem holdIn_of_gone {h : Nat} (hgone : callOf u h = none)
    (hothers : ∀ g, g ≠ h → (callOf u g).map withoutAudio = (callOf s g).map withoutAudio) (hnone : holdIn s h = none) :
    holdIn u = holdIn s := by
  funext g
  by_cases hg : g = h
  · rw [hg, hnone, holdIn, hgone]; rfl
  · exact holdIn_of_withoutAudio (hothers g hg)

/-! ### Wraps that end -/

theorem Sound.enterOutcome (k : Sound c a s) {b : Nat} (hb : b < 512) (v : Agent) (o : WrapOutcome) :
    Sound c a (enterOutcome s b v o) := by
  cases o with
  | ready => exact k.enterReady hb v none
  | notReady r => exact k.setAgentRec hb (wrapFine_of_none rfl)
  | loggedOut => exact k.dropAgent b

theorem Kept.enterOutcome (k : Kept c a l s) {b : Nat} (hb : b < 512) (hbond : bondIn s b = none) (v : Agent) (o : WrapOutcome) :
    Kept c a l (enterOutcome s b v o) := by
  cases o with
  | ready => exact k.enterReady hb hbond v none
  | notReady r => exact k.setAgentRec hb (wrapFine_of_none rfl) hbond.symm
  | loggedOut => exact k.dropAgent hbond

theorem Kept.endWrap (k : Kept c a l s) {b : Nat} (hb : b < 512) (hbond : bondIn s b = none) (v : Agent) {w : WrapRecord}
    (hq : w.queue < 64) (o : WrapOutcome) (expired : Bool) : Kept c a l (endWrap b v w o expired s) := by
  have ended : Kept c a l (Machine.enterOutcome (Machine.takeSample s w.queue (wrapSample s w)) b v o) :=
    (k.takeSample hq (Nat.min_le_right _ _)).enterOutcome hb (by rw [bondIn, agentOf_takeSample]; exact hbond) v o
  have told : Kept c a l (if expired then
      wrapExpiredNotice b w o (Machine.enterOutcome (Machine.takeSample s w.queue (wrapSample s w)) b v o)
      else Machine.enterOutcome (Machine.takeSample s w.queue (wrapSample s w)) b v o) := by
    split
    · exact ended.notify _ _
    · exact ended
  cases o with
  | ready => exact told.matchAgent b
  | notReady r => exact told
  | loggedOut => exact told

theorem Kept.expireWrap (k : Kept c a l s) {b : Nat} (hb : b < 512) (hbond : bondIn s b = none) (v : Agent) {w : WrapRecord}
    (hq : w.queue < 64) (p : Option Nat) : Kept c a l (expireWrap b v w p s) := k.endWrap hb hbond v hq _ true

theorem bondOf_of_wrap {v : Agent} {w : WrapRecord} {p : Option Nat} (h : v.status = .wrap w p) : bondOf v = none := by
  rw [bondOf, h]

theorem WrapFine.queue {v : Agent} {w : WrapRecord} {p : Option Nat} (f : WrapFine v) (h : v.status = .wrap w p) : w.queue < 64 :=
  f w (by rw [wrapOf, h])

/-! ### ANSWER -/

theorem Sound.clearAwaiting (k : Sound c a s) (h : Nat) : Sound c a (clearAwaiting h s) := by
  unfold Machine.clearAwaiting
  split
  · exact k
  · next x hx => exact k.setCallRec h (k.call hx :)

theorem Kept.clearAwaiting (k : Kept c a l s) (h : Nat) : Kept c a l (clearAwaiting h s) :=
  k.of_audio (audioOnly_clearAwaiting h s) (k.sound.clearAwaiting h)

/-- The state of an answer before its queue counts it. -/
def answerWritten (s : State) (h b : Nat) (x : Call) (v : Agent) : State :=
  setAgentRec (setCallRec s h { x with status := .connected s.now }) b (talkTo h v)

theorem Kept.answerWritten (k : Kept c a l s) {h b n : Nat} {x : Call} {d : Option Time} {v : Agent} (hx : callOf s h = some x)
    (hst : x.status = .offered b d) (hv : agentOf s b = some v) (hvs : v.status = .offered h n) :
    Kept c a l (answerWritten s h b x v) := by
  have hcalls (g : Nat) : callOf (Machine.answerWritten s h b x v) g =
      if g = h then some { x with status := .connected s.now } else callOf s g := callOf_setCallRec hx _ g
  have hagents (j : Nat) : agentOf (Machine.answerWritten s h b x v) j = if j = b then some (talkTo h v) else agentOf s j := by
    rw [Machine.answerWritten, agentOf_setAgentRec, agentOf_setCallRec]
  have hq := k.sound.call hx
  refine ⟨(k.sound.setCallRec h (x := { x with status := .connected s.now }) hq).setAgentRec (k.sound.agent hv).1 (wrapFine_of_none rfl), fun hc => ?_,
    fun hc hl => ?_⟩
  · refine (k.paired hc).rebond (h := h) (a := b) (.inr (.inl ⟨(holdIn_eq hx).trans (holdOf_of_offered hst),
      (bondIn_eq hv).trans (bondOf_of_offered hvs)⟩)) (.inr (.inr ⟨?_, ?_⟩)) (fun g hg => ?_) fun j hj => ?_
    · rw [holdIn_of_call hcalls, if_pos rfl]; rfl
    · rw [bondIn_of_agent hagents, if_pos rfl]; rfl
    · rw [holdIn_of_call hcalls, if_neg hg]
    · rw [bondIn_of_agent hagents, if_neg hj]
  · have hlisted : listedIn (Machine.answerWritten s h b x v) = listedIn s := funext fun g => by
      rw [listedIn_of_call hcalls]
      split
      · next e => rw [e, listedIn_eq hx, listedOf_of_offered hst]; rfl
      · rfl
    have hseq : seqIn (Machine.answerWritten s h b x v) = seqIn s := funext fun g => by
      rw [seqIn_of_call hcalls]
      split
      · next e => rw [e, seqIn_eq hx]; rfl
      · rfl
    rw [hlisted, hseq]
    exact k.lists hc hl

theorem Sound.connectCall (k : Sound c a s) {h b : Nat} {x : Call} (hx : callOf s h = some x) : Sound c a (connectCall h b x s) := by
  have hq := k.call hx
  have connected := k.setCallRec h (x := { x with status := .connected s.now }) hq
  refine Sound.detach (Sound.clearAwaiting (Sound.count ?_ hq _) h) h
  split
  · next v hv => exact connected.setAgentRec (connected.agent hv).1 (wrapFine_of_none rfl)
  · exact connected

theorem Kept.connectCall (k : Kept c a l s) {h b : Nat} {x : Call} {d : Option Time} (hx : callOf s h = some x)
    (hst : x.status = .offered b d) : Kept c a l (connectCall h b x s) := by
  refine .intro (k.sound.connectCall hx) fun hc => ?_
  obtain ⟨v, n, hv, hvs⟩ := k.offeredAgent hc hx hst
  have hv' : agentOf (Machine.setCallRec s h { x with status := .connected s.now }) b = some v := hv
  simp only [Machine.connectCall, hv']
  exact (((k.answerWritten hx hst hv hvs).count (k.sound.call hx) _).clearAwaiting h).detach h

/-! ### RELEASE -/

theorem callOf_freeCall {h : Nat} {x : Call} (hx : callOf s h = some x) (g : Nat) :
    callOf (freeCall s h) g = if g = h then none else callOf s g := by
  split
  · next e => rw [e, callOf_freeCall_of_eq s rfl]
  · next e => exact callOf_other hx (fun k hk _ => callOf_freeCall_of_eq s hk) (fun k hk => callOf_freeCall_of_ne s hk) e

/-- The state of a release before a wrap without allowance ends: the call freed, the agent in WRAP. -/
def releaseWritten (s : State) (h b : Nat) (v : Agent) (x : Call) (w : WrapRecord) : State :=
  setAgentRec (freeCall (count s x.queue fun k => { k with completed := sat16 (k.completed + 1) }) h) b
    { v with status := .wrap w (pendingReasonOf v) }

theorem releaseCall_eq (h b : Nat) (v : Agent) (x : Call) (talk : Time) (s : State) : releaseCall h b v x talk s =
    if wrapAllowanceOf (queueOf s x.queue) = 0 then
      expireWrap b { v with status := .wrap (newWrap s x.queue talk) (pendingReasonOf v) } (newWrap s x.queue talk)
        (pendingReasonOf v) (releaseWritten s h b v x (newWrap s x.queue talk))
    else releaseWritten s h b v x (newWrap s x.queue talk) := rfl

theorem Sound.releaseWritten (k : Sound c a s) {h b : Nat} {v : Agent} {x : Call} {w : WrapRecord} (hx : callOf s h = some x)
    (hb : b < 512) (hw : w.queue < 64) : Sound c a (releaseWritten s h b v x w) := by
  refine ((k.count (k.call hx) _).freeCall h).setAgentRec hb fun w' hw' => ?_
  rwa [← Option.some.inj hw']

/-- The agent that holds a CONNECTED call is TALKING with it. -/
theorem Kept.agentHolding (k : Kept c a l s) (hc : c) {h b : Nat} {x : Call} {t : Time} (hx : callOf s h = some x)
    (hst : x.status = .connected t) (hb : agentHolding s h = some b) : bondIn s b = some (.talking h) := by
  obtain ⟨⟨j, v⟩, he, rfl⟩ := Option.map_eq_some_iff.1 hb
  have hv := (mem_agents_iff (k.canonical hc) j v).1 (List.mem_of_find?_eq_some he)
  have hp := List.find?_some he
  rw [bondIn_eq hv, bondOf]
  cases hs : v.status with
  | offered g n =>
    obtain rfl : g = h := by simpa [hs] using hp
    obtain ⟨y, d, hy, hd⟩ := k.offeredCall hc hv hs
    obtain rfl : x = y := Option.some.inj (hx.symm.trans hy)
    rw [hst] at hd
    cases hd
  | talking g n =>
    obtain rfl : g = h := by simpa [hs] using hp
    rfl
  | notReady r => simp [hs] at hp
  | ready n d => simp [hs] at hp
  | wrap w p => simp [hs] at hp

theorem Kept.releaseWritten (k : Kept c a l s) {h b : Nat} {v : Agent} {x : Call} {t : Time} {w : WrapRecord}
    (hx : callOf s h = some x) (hst : x.status = .connected t) (hb : Machine.agentHolding s h = some b) (hb' : b < 512) (hw : w.queue < 64) :
    Kept c a l (releaseWritten s h b v x w) := by
  obtain ⟨r, hr⟩ : ∃ r, r = Machine.releaseWritten s h b v x w := ⟨_, rfl⟩
  have hcalls (g : Nat) : callOf r g = if g = h then none else callOf s g := by
    rw [hr, Machine.releaseWritten, callOf_setAgentRec, callOf_freeCall (x := x) (by rw [callOf_count, hx]), callOf_count]
  have hagents (j : Nat) : agentOf r j = if j = b then some { v with status := .wrap w (pendingReasonOf v) } else agentOf s j := by
    rw [hr, Machine.releaseWritten, agentOf_setAgentRec, agentOf_freeCall, agentOf_count]
  have hgone : callOf r h = none := by rw [hcalls, if_pos rfl]
  have hothers (g : Nat) (hg : g ≠ h) : (callOf r g).map withoutAudio = (callOf s g).map withoutAudio := by rw [hcalls, if_neg hg]
  rw [← hr]
  refine k.freed (hr ▸ k.sound.releaseWritten hx hb' hw) hgone hothers (fun hc => ?_) (fun j => ?_) (by rw [hr]; rfl)
  · refine (k.paired hc).freed (b := b) (.inr (.inr ⟨?_, k.agentHolding hc hx hst hb⟩)) hgone hothers ?_ fun j hj => ?_
    · rw [holdIn_eq hx, holdOf, hst]
    · rw [bondIn_of_agent hagents, if_pos rfl]; rfl
    · rw [bondIn_of_agent hagents, if_neg hj]
  · rw [listedIn_eq hx, listedOf_of_connected hst, if_neg (by simp), hr, listIn, Machine.releaseWritten, queueOf_setAgentRec,
      queueOf_freeCall, queueOf_count]
    split
    · next e => rw [e, listIn]
    · rfl

theorem Kept.releaseCall (k : Kept c a l s) {h b : Nat} (v : Agent) {x : Call} {t : Time} (talk : Time)
    (hx : callOf s h = some x) (hst : x.status = .connected t) (hb : Machine.agentHolding s h = some b) (hb' : b < 512) :
    Kept c a l (releaseCall h b v x talk s) := by
  have hq : (newWrap s x.queue talk).queue < 64 := k.sound.call hx
  have written := k.releaseWritten (v := v) hx hst hb hb' hq
  rw [releaseCall_eq]
  split
  · refine written.expireWrap hb' ?_ _ hq _
    rw [bondIn, Machine.releaseWritten, agentOf_setAgentRec, if_pos rfl]; rfl
  · exact written

end

end Sys2Proof.Machine
end

-- ==== Sys2Proof/Proofs/CallsKept ====
section
/-! REMOVE, ENQUEUE, DIVERT and CANCEL DIVERT keep the records in order, the pairing and the waiting lists. -/

namespace Sys2Proof.Machine

section
variable {c a l : Prop} {s : State}

/-! ### REMOVE -/

theorem Sound.leavePlace (k : Sound c a s) {h : Nat} {x : Call} (hx : callOf s h = some x) : Sound c a (leavePlace h x s) := by
  have hq := k.call hx
  unfold Machine.leavePlace
  split
  · have waits := k.setCallRec h (x := { x with status := .waiting }) hq
    refine Sound.notify ?_ _ _
    split
    · next v hv => exact waits.returnToPlace (waits.agent hv).1 _ _
    · exact waits
  · exact k.leaveList h hq
  · exact k.leaveList h hq
  · exact k

theorem Sound.removed (k : Sound c a s) (h : Nat) {q : Nat} (hq : q < 64) (f : Counters → Counters) : Sound c a (removed h q f s) :=
  (((k.detach h).count hq f).freeCall h).evalSurge hq

theorem removeCall_of_offered {h b : Nat} {x : Call} {d : Option Time} (hst : x.status = .offered b d) (cause : BitVec 8) (s : State) :
    removeCall h cause x s = matchAgent b (removed h x.queue (countRemoved cause) (withdrawRemoved h b x s)) := by
  simp only [removeCall, leavePlace, hst, removed]

theorem removeCall_of_inList {h : Nat} {x : Call} (hst : inList x = true) (cause : BitVec 8) (s : State) :
    removeCall h cause x s = removed h x.queue (countRemoved cause) (leaveList s h x.queue) := by
  cases hs : x.status with
  | waiting => simp only [removeCall, leavePlace, hs, removed]
  | diverting b => simp only [removeCall, leavePlace, hs, removed]
  | offered b d => simp [inList, isWaiting, isDiverting, hs] at hst
  | connected t => simp [inList, isWaiting, isDiverting, hs] at hst

/-- What REMOVE leaves of the calls and the lists. -/
theorem Kept.removed (k : Kept c a l s) {t : State} {h : Nat} {x : Call} {wait : List Nat} {f : Counters → Counters}
    (hx : callOf s h = some x) (m : PlaceLeft s t h x wait) (ht : Sound c a t)
    (hwait : wait = if listedIn s h = some x.queue then (listIn s x.queue).erase h else listIn s x.queue)
    (hpaired : c → (∀ g, g ≠ h → (callOf (Machine.removed h x.queue f t) g).map withoutAudio = (callOf s g).map withoutAudio) →
      (∀ b, bondIn (Machine.removed h x.queue f t) b = bondIn t b) →
      PairedIn (holdIn (Machine.removed h x.queue f t)) (bondIn (Machine.removed h x.queue f t))) :
    Kept c a l (Machine.removed h x.queue f t) := by
  obtain ⟨-, -, -, hlist, -, hcalls, hagents, -, -, harr, -⟩ := m.kept f
  have hgone := callOf_removed_self h x.queue f t
  have hothers (g : Nat) (hg : g ≠ h) :
      (callOf (Machine.removed h x.queue f t) g).map withoutAudio = (callOf s g).map withoutAudio := by
    by_cases hs : slotOf g = slotOf h
    · have hnone : callOf s g = none := callOf_eq_none_of_slot hx hs hg
      have hgone' : callOf (Machine.removed h x.queue f t) g = none := by
        rw [Machine.removed, callOf_evalSurge, callOf_freeCall_of_eq _ hs]
      rw [hnone, hgone']
    · exact hcalls g hs
  refine k.freed (ht.removed h (k.sound.call hx) f) hgone hothers
    (fun hc => hpaired hc hothers fun b => bondIn_of_withoutDeadline (hagents b)) (fun j => ?_) harr
  by_cases hj : j = x.queue
  · rw [hj, ← hwait]
    exact hlist
  · rw [listIn, m.queueOf_removed_of_ne f hj, if_neg, listIn]
    rw [listedIn_eq hx, listedOf]
    split
    · exact fun e => hj (Option.some.inj e).symm
    · simp

theorem Kept.removeCall (k : Kept c a l s) {h : Nat} {x : Call} (hx : callOf s h = some x) (hst : ∀ t, x.status ≠ .connected t)
    (cause : BitVec 8) : Kept c a l (removeCall h cause x s) := by
  have hq := k.sound.call hx
  by_cases hin : inList x = true
  · rw [removeCall_of_inList hin]
    refine k.removed hx (placeLeft_leaveList hx) (k.sound.leaveList h hq) ?_ fun hc hothers hbonds => ?_
    · rw [listedIn_eq hx, listedOf, if_pos hin, if_pos rfl, listIn]
    · have hnone : holdIn s h = none := by
        rw [holdIn_eq hx, holdOf]
        cases hs : x.status with
        | waiting => rfl
        | diverting b => rfl
        | offered b d => simp [inList, isWaiting, isDiverting, hs] at hin
        | connected t => exact absurd hs (hst t)
      rw [holdIn_of_gone (callOf_removed_self ..) hothers hnone, funext hbonds]
      exact k.paired hc
  · obtain ⟨b, d, hs⟩ : ∃ b d, x.status = .offered b d := by
      cases hs : x.status with
      | waiting => simp [inList, isWaiting, hs] at hin
      | diverting b => simp [inList, isWaiting, isDiverting, hs] at hin
      | offered b d => exact ⟨b, d, rfl⟩
      | connected t => exact absurd hs (hst t)
    have left := k.sound.leavePlace hx
    rw [Machine.leavePlace, hs] at left
    rw [removeCall_of_offered hs]
    refine .intro ((left.removed h hq _).matchAgent b) fun hc => Kept.matchAgent ?_ b
    obtain ⟨v, n, hv, hvs⟩ := k.offeredAgent hc hx hs
    have eqn := withdrawRemoved_eq (c := x) hv hvs
    have hagents (j : Nat) : agentOf (withdrawRemoved h b x s) j = if j = b then some { v with status := .ready n none } else agentOf s j := by
      rw [eqn, withdrawnNotice, agentOf_notify, agentOf_returnToPlace, agentOf_setCallRec]
    refine k.removed hx (placeLeft_withdrawRemoved hx hv hvs) left ?_ fun _ hothers hbonds => ?_
    · rw [listedIn_eq hx, listedOf_of_offered hs, if_neg (by simp), listIn]
    · refine (k.paired hc).freed (b := b) (.inr (.inl ⟨(holdIn_eq hx).trans (holdOf_of_offered hs),
        (bondIn_eq hv).trans (bondOf_of_offered hvs)⟩)) (callOf_removed_self ..) hothers ?_ fun j hj => ?_
      · rw [hbonds, bondIn_of_agent hagents, if_pos rfl]; rfl
      · rw [hbonds, bondIn_of_agent hagents, if_neg hj]

/-! ### ENQUEUE -/

theorem Sound.admitCall (k : Sound c a s) {slot : Nat} (hs : slot < 2048) {x : Call} (hq : x.queue < 64)
    (ho : ∀ q, x.originQueue = some q → q < 64) : Sound c a (admitCall slot x s) := by
  have inserted : Sound c a { s with calls := tableInsert s.calls slot x, arrivals := s.arrivals + 1 } :=
    { k with calls := k.calls.insert ⟨hs, hq⟩ }
  have listed := (inserted.setQueueRec hq (inserted.queue x.queue) (r := { queueOf s x.queue with
    waiting := (queueOf s x.queue).waiting ++ [handleOf s slot] })).count hq fun k => { k with arrived := sat16 (k.arrived + 1) }
  unfold Machine.admitCall
  dsimp only
  split
  · exact listed
  · next q hoq => exact (listed.count (ho q hoq) _).count hq _

theorem Kept.admitCall (k : Kept c a l s) {slot : Nat} (hs : slot < 2048) (hfree : tableFind s.calls slot = none) {x : Call}
    (hw : x.status = .waiting) (hseq : x.arrivalSeq = s.arrivals) (hq : x.queue < 64) (ho : ∀ q, x.originQueue = some q → q < 64) :
    Kept c a l (admitCall slot x s) := by
  have hcalls := callOf_admitCall hs s x
  have hnone : callOf s (handleOf s slot) = none := by rw [callOf_handleOf s hs, hfree]
  have hagents (b : Nat) : agentOf (Machine.admitCall slot x s) b = agentOf s b := by rw [admitCall_frame]; rfl
  have harr : (Machine.admitCall slot x s).arrivals = s.arrivals + 1 := by rw [admitCall_frame]
  refine ⟨k.sound.admitCall hs hq ho, fun hc => ?_, fun hc hl => ?_⟩
  · have hhold : holdIn (Machine.admitCall slot x s) = holdIn s := funext fun g => by
      rw [holdIn_of_call hcalls]
      split
      · next e => rw [e, holdIn, hnone, Option.bind_some, holdOf, hw]; rfl
      · rfl
    have hbond : bondIn (Machine.admitCall slot x s) = bondIn s := funext fun b => by rw [bondIn, hagents, bondIn]
    rw [hhold, hbond]
    exact k.paired hc
  · rw [harr]
    refine (k.lists hc hl).arrive (h := handleOf s slot) (q := x.queue) ?_ (fun g => ?_) (fun g => ?_) fun j => ?_
    · rw [seqIn, hnone]; rfl
    · rw [listedIn_of_call hcalls, Option.bind_some, listedOf, if_pos (inList_of_waiting hw)]
    · rw [seqIn_of_call hcalls, Option.map_some, hseq]
    · rw [listIn, queueOf_admitCall, listIn]

/-- The overflow decision names a queue of the part. -/
theorem Sound.overflowDecision_lt (k : Sound c a s) {q base chosen : Nat} {overflowed : Bool} (hq : q < 64)
    (h : overflowDecision s q base = .inl (chosen, overflowed)) : chosen < 64 := by
  have plain (hp : plainDecision s q = .inl (chosen, overflowed)) : chosen < 64 := by
    unfold plainDecision at hp
    split at hp
    · cases hp; exact hq
    · split at hp <;> cases hp
  rw [overflowDecision_eq] at h
  split at h
  · next t ht =>
    split at h
    · cases h
      exact (k.queue q).1 chosen ht
    · exact plain h
  · exact plain h

theorem lowestFreeSlot_spec {slot : Nat} (h : lowestFreeSlot s = some slot) : slot < 2048 ∧ tableFind s.calls slot = none := by
  unfold lowestFreeSlot at h
  exact ⟨List.mem_range.1 (List.mem_of_find?_eq_some h), by simpa using List.find?_some h⟩

theorem Kept.handleEnqueue (k : Kept c a l s) (tag : BitVec 32) (queue options priority : BitVec 8) (skills : BitVec 32)
    (program : BitVec 8) : Kept c a l (handleEnqueue tag queue options priority skills program s).1 := by
  unfold Machine.handleEnqueue
  dsimp only
  split
  · exact k
  next hq =>
  split
  · exact k
  split
  · exact k
  split
  · exact k
  next slot hslot =>
  split
  · exact k
  next chosen overflowed hdec =>
  have hq' : queue.toNat < 64 := by omega
  have hchosen := k.sound.overflowDecision_lt hq' hdec
  obtain ⟨hslot', hfree⟩ := lowestFreeSlot_spec hslot
  have admitted := k.admitCall hslot' hfree (x := newCall s tag queue.toNat chosen overflowed
    (enqueuePriority s queue.toNat options priority) (if optionBit options 1 then some skills else none)
    (enqueueProgram s queue.toNat options program)) rfl rfl hchosen fun q hoq => by
      rw [newCall] at hoq
      cases overflowed with
      | true => cases hoq; exact hq'
      | false => cases hoq
  exact ((admitted.evalSurge hchosen).attach _).matchCall _

/-! ### DIVERT and CANCEL DIVERT -/

theorem Sound.divertDone (k : Sound c a s) (h : Nat) (played : Bool) : Sound c a (divertDone h played s) := by
  unfold Machine.divertDone
  split
  · exact k
  · next x hx =>
    split
    · have off := (k.notify 0x87 [f2 h, f4 x.tag.toNat, f1 x.queue, f1 (bit played)]).detach h
      dsimp only
      split
      · exact off
      · next d hd => exact off.setCallRec h (off.call hd :)
    · exact k

theorem Sound.divertFromShared (k : Sound c a s) (h p j : Nat) : Sound c a (divertFromShared h p j s) := by
  have off := k.detach h
  unfold Machine.divertFromShared
  dsimp only
  split
  · next x v hx hv =>
    have kept : Sound c a (Machine.setCallRec (Machine.detach h s) h
        { x with voice := some v, announceDue := some (firstDue (Machine.detach h s) x.queue) }) := off.setCallRec h (off.call hx :)
    exact (kept.of_records (t := { Machine.setCallRec (Machine.detach h s) h
        { x with voice := some v, announceDue := some (firstDue (Machine.detach h s) x.queue) } with
      freeDraws := (Machine.detach h s).freeDraws + 1 }) rfl).startVoice (lowestFreeVoice_lt hv) _ _ _ _ _
  · exact off.divertDone h false

theorem Sound.divertExit (k : Sound c a s) (h : Nat) (x : Call) : Sound c a (divertExit h x s) := by
  unfold Machine.divertExit
  split
  · next p j v r hexit hvoice =>
    split
    · obtain ⟨w, -, hw⟩ := Option.bind_eq_some_iff.1 hvoice
      obtain ⟨r', hr, e⟩ := Option.map_eq_some_iff.1 hw
      cases e
      exact k.nextClip (k.voice hr) _ _ _ _
    · exact k.divertFromShared h p j
  · exact k.divertDone h false

/-- An order that names a call keeps what its steps keep of the call. -/
theorem withCall_fst {P : State → Prop} {handle : BitVec 16} {g : Call → State → State × Answer} (hs : P s)
    (hg : ∀ x, callOf s handle.toNat = some x → P (g x s).1) : P (withCall handle g s).1 := by
  unfold withCall
  split
  · next x hx => exact hg x hx
  · exact hs

theorem sameTraffic_of_audioOrDraw {t : State} (h : AudioOrDraw s t) : SameTraffic s t :=
  (sameTraffic_of_audio (h : AudioOnly s _)).trans (.of_records rfl)

theorem Kept.handleDivert (k : Kept c a l s) (handle : BitVec 16) : Kept c a l (handleDivert handle s).1 := by
  unfold Machine.handleDivert
  refine withCall_fst k fun x hx => ?_
  dsimp only
  split
  · exact k
  · exact k
  · exact k
  · next hw =>
    have started : Kept c a l (divertStart s handle.toNat x) := by
      refine k.setCallRec hx (k.sound.call hx :) ?_ ?_ rfl
      · rw [holdOf, holdOf, hw]; rfl
      · rw [listedOf, listedOf, if_pos (inList_of_waiting hw), if_pos]
        · rfl
        · simp [inList, isDiverting, diverting]
    exact started.same (sameTraffic_of_audioOrDraw (audioOrDraw_divertExit hx)) (started.sound.divertExit _ _)

theorem Sound.cancelVoice (k : Sound c a s) (h : Nat) (x : Call) : Sound c a (cancelVoice h x s) := by
  unfold Machine.cancelVoice
  split
  · next v hv =>
    split
    · next r p hr =>
      obtain ⟨r', hr', e⟩ := Option.bind_eq_some_iff.1 hr
      obtain ⟨p', -, e'⟩ := Option.map_eq_some_iff.1 e
      cases e'
      exact k.nextClip (k.voice hr') _ _ _ _
    · exact k
  · exact k.attach h

theorem Kept.handleCancelDivert (k : Kept c a l s) (handle : BitVec 16) : Kept c a l (handleCancelDivert handle s).1 := by
  unfold Machine.handleCancelDivert
  refine withCall_fst k fun x hx => ?_
  dsimp only
  split
  · exact k
  · exact k
  · exact k
  · next b hs =>
    have waits : Kept c a l (Machine.setCallRec s handle.toNat { x with status := .waiting }) := by
      refine k.setCallRec hx (k.sound.call hx :) ?_ ?_ rfl
      · rw [holdOf, holdOf, hs]
      · rw [listedOf, listedOf, if_pos (inList_of_waiting rfl), if_pos]
        simp [inList, isDiverting, hs]
    exact (waits.of_audio (audioOnly_cancelVoice ..) (waits.sound.cancelVoice _ _)).matchCall _

/-! ### The other call orders -/

theorem Kept.handleRemove (k : Kept c a l s) (handle : BitVec 16) (cause : BitVec 8) : Kept c a l (handleRemove handle cause s).1 := by
  unfold Machine.handleRemove
  refine withCall_fst k fun x hx => ?_
  split
  · exact k
  · split
    · exact k
    · next hs => exact k.removeCall hx (fun t e => by rw [hs] at e; cases e) cause
    · next hs => exact k.removeCall hx (fun t e => by rw [hs] at e; cases e) cause
    · next hs => exact k.removeCall hx (fun t e => by rw [hs] at e; cases e) cause

/-- An order that needs an offer keeps what its steps keep of the offer. -/
theorem withOffer_fst {P : State → Prop} {h b : Nat} {x : Call} {g : State → State × Answer} (hs : P s)
    (hg : ∀ d, x.status = .offered b d → P (g s).1) : P (withOffer h b x g s).1 := by
  unfold withOffer
  dsimp only
  split
  · next b' d hst =>
    split
    · next e => exact hg d (e ▸ hst)
    · exact hs
  · exact hs
  · exact hs
  · exact hs

theorem Kept.handleAnswer (k : Kept c a l s) (handle agent : BitVec 16) : Kept c a l (handleAnswer handle agent s).1 := by
  unfold Machine.handleAnswer
  refine withCall_fst k fun x hx => ?_
  split
  · exact k
  · exact withOffer_fst k fun d hst => k.connectCall hx hst

theorem Kept.handleRefuseOffer (k : Kept c a l s) (handle agent : BitVec 16) (present reason : BitVec 8) :
    Kept c a l (handleRefuseOffer handle agent present reason s).1 := by
  unfold Machine.handleRefuseOffer
  refine withCall_fst k fun x hx => ?_
  dsimp only
  split
  · exact k
  split
  · exact k
  split
  · exact k
  exact withOffer_fst k fun d hst => k.refuseCall hx hst _

theorem Kept.handleRelease (k : Kept c a l s) (handle : BitVec 16) : Kept c a l (handleRelease handle s).1 := by
  unfold Machine.handleRelease
  refine withCall_fst k fun x hx => ?_
  dsimp only
  split
  · exact k
  · exact k
  · exact k
  · next t hst =>
    split
    · next b v hb =>
      obtain ⟨b', hb', e⟩ := Option.bind_eq_some_iff.1 hb
      obtain ⟨v', hv', e'⟩ := Option.map_eq_some_iff.1 e
      cases e'
      exact k.releaseCall v _ hx hst hb' (k.sound.agent hv').1
    · exact k

end

end Sys2Proof.Machine
end

-- ==== Sys2Proof/Proofs/AgentsKept ====
section
/-! The agent orders keep the records in order, the pairing and the waiting lists. -/

namespace Sys2Proof.Machine

section
variable {c a l : Prop} {s : State}

theorem bondIn_of_no_agent {b : Nat} (h : agentOf s b = none) : bondIn s b = none := by rw [bondIn, h]; rfl

theorem bondOf_of_notReady {v : Agent} {r : Nat} (h : v.status = .notReady r) : bondOf v = none := by rw [bondOf, h]

theorem Kept.handleLogin (k : Kept c a l s) (agent : BitVec 16) (skills : BitVec 32) (autoReady initialState reason : BitVec 8) :
    Kept c a l (handleLogin agent skills autoReady initialState reason s).1 := by
  unfold Machine.handleLogin
  dsimp only
  split
  · exact k
  next hb =>
  have hb' : agent.toNat < 512 := by omega
  split
  · exact k
  split
  · exact k
  split
  · exact k
  split
  · exact k
  next hno =>
  have hbond := bondIn_of_no_agent hno
  dsimp only
  split
  · exact k.setAgentRec hb' (wrapFine_of_none rfl) hbond.symm
  · exact (k.enterReady hb' hbond _ _).matchAgent _

theorem Kept.logoutAgent (k : Kept c a l s) {b : Nat} {v : Agent} (hv : agentOf s b = some v) (ht : ∀ h p, v.status ≠ .talking h p) :
    Kept c a l (logoutAgent b v s) := by
  obtain ⟨hb, hf⟩ := k.sound.agent hv
  unfold Machine.logoutAgent
  split
  · next hs => exact k.dropAgent ((bondIn_eq hv).trans (bondOf_of_notReady hs))
  · next hs => exact (k.leaveReady b).dropAgent ((bondIn_eq hv).trans (bondOf_of_ready hs))
  · next hs => exact k.withdrawAgent hv hs none
  · next hs => exact k.endWrap hb ((bondIn_eq hv).trans (bondOf_of_wrap hs)) v (hf.queue hs) _ _
  · next hs => exact absurd hs (ht _ _)

theorem Kept.handleLogout (k : Kept c a l s) (agent : BitVec 16) : Kept c a l (handleLogout agent s).1 := by
  unfold Machine.handleLogout
  dsimp only
  split
  · exact k
  split
  · exact k
  next v hv =>
  split
  · exact k
  all_goals
    next hs => exact k.logoutAgent hv fun h p e => by rw [hs] at e; cases e

theorem Kept.handleSetReady (k : Kept c a l s) (agent : BitVec 16) : Kept c a l (handleSetReady agent s).1 := by
  unfold Machine.handleSetReady
  dsimp only
  split
  · exact k
  split
  · exact k
  next v hv =>
  split
  · next hs => exact (k.enterReady (k.sound.agent hv).1 ((bondIn_eq hv).trans (bondOf_of_notReady hs)) v none).matchAgent _
  all_goals exact k

theorem Kept.notReadyAgent (k : Kept c a l s) {b : Nat} {v : Agent} (hv : agentOf s b = some v) (reason : Nat) :
    Kept c a l (notReadyAgent b v reason s) := by
  obtain ⟨hb, hf⟩ := k.sound.agent hv
  have hbond := bondIn_eq hv
  unfold Machine.notReadyAgent
  split
  · next hs => exact k.setAgentRec hb (wrapFine_of_none rfl) (hbond.trans (bondOf_of_notReady hs)).symm
  · next hs => exact (k.leaveReady b).setAgentRec hb (wrapFine_of_none rfl) (hbond.trans (bondOf_of_ready hs)).symm
  · next hs => exact k.withdrawAgent hv hs (some reason)
  · next hs =>
    refine k.setAgentRec hb (wrapFine_of_none rfl) ?_
    rw [hbond, bondOf, bondOf, hs]
  · next w p hs =>
    refine k.setAgentRec hb (fun w' hw' => ?_) ?_
    · obtain rfl : w = w' := Option.some.inj hw'
      exact hf.queue hs
    · rw [hbond, bondOf_of_wrap hs]; rfl

theorem Kept.handleSetNotReady (k : Kept c a l s) (agent : BitVec 16) (reason : BitVec 8) :
    Kept c a l (handleSetNotReady agent reason s).1 := by
  unfold Machine.handleSetNotReady
  dsimp only
  split
  · exact k
  split
  · exact k
  split
  · exact k
  next v hv => exact k.notReadyAgent hv _

theorem Kept.handleSetSkills (k : Kept c a l s) (agent : BitVec 16) (skills : BitVec 32) :
    Kept c a l (handleSetSkills agent skills s).1 := by
  unfold Machine.handleSetSkills
  dsimp only
  split
  · exact k
  split
  · exact k
  next v hv =>
  obtain ⟨hb, hf⟩ := k.sound.agent hv
  exact (k.setAgentRec (v := { v with skills := skills }) hb hf (bondIn_eq hv).symm).offerAgent _

/-! ### Agents in WRAP -/

/-- An order that needs the agent in WRAP keeps what its steps keep of the wrap. -/
theorem withWrap_fst {P : State → Prop} {b : Nat} {g : Agent → WrapRecord → Option Nat → State → State × Answer} (hs : P s)
    (hg : ∀ v w p, agentOf s b = some v → v.status = .wrap w p → P (g v w p s).1) : P (withWrap b g s).1 := by
  unfold withWrap
  split
  · exact hs
  · next v hv =>
    split
    · next w p hw => exact hg v w p hv hw
    all_goals exact hs

/-- A wrap record written over another. -/
theorem Kept.setWrap (k : Kept c a l s) {b : Nat} {v : Agent} {w w' : WrapRecord} {p : Option Nat} (hv : agentOf s b = some v)
    (hs : v.status = .wrap w p) (hq : w'.queue = w.queue) : Kept c a l (Machine.setAgentRec s b { v with status := .wrap w' p }) := by
  obtain ⟨hb, hf⟩ := k.sound.agent hv
  refine k.setAgentRec hb (fun x hx => ?_) ?_
  · obtain rfl : w' = x := Option.some.inj hx
    rw [hq]
    exact hf.queue hs
  · rw [bondIn_eq hv, bondOf_of_wrap hs]; rfl

theorem withCode_queue (w : WrapRecord) (options : BitVec 8) (code : BitVec 16) : (withCode w options code).queue = w.queue := by
  unfold withCode; split <;> rfl

theorem Kept.handleWrapDone (k : Kept c a l s) (agent : BitVec 16) (options : BitVec 8) (code : BitVec 16) (reason : BitVec 8) :
    Kept c a l (handleWrapDone agent options code reason s).1 := by
  unfold Machine.handleWrapDone
  dsimp only
  split
  · exact k
  split
  · exact k
  split
  · exact k
  split
  · exact k
  refine withWrap_fst k fun v w p hv hs => ?_
  obtain ⟨hb, hf⟩ := k.sound.agent hv
  split
  · exact k
  · exact k.endWrap hb ((bondIn_eq hv).trans (bondOf_of_wrap hs)) v ((withCode_queue w options code).symm ▸ hf.queue hs) _ _

theorem Kept.handleSetDisposition (k : Kept c a l s) (agent code : BitVec 16) : Kept c a l (handleSetDisposition agent code s).1 := by
  unfold Machine.handleSetDisposition
  dsimp only
  split
  · exact k
  split
  · exact k
  exact withWrap_fst k fun v w p hv hs => k.setWrap hv hs rfl

theorem Kept.handleExtendWrap (k : Kept c a l s) (agent : BitVec 16) : Kept c a l (handleExtendWrap agent s).1 := by
  unfold Machine.handleExtendWrap
  dsimp only
  split
  · exact k
  refine withWrap_fst k fun v w p hv hs => ?_
  split
  · exact k
  split
  · exact k
  split
  · exact k
  exact Kept.of_records (k.setWrap hv hs (w' := { w with
    deadline := if decide (Config.wrapCap < wrapDistance w (timeAfter w.deadline (queueOf s w.queue).settings.extensionLength)) then
      timeAfter w.start Config.wrapCap else timeAfter w.deadline (queueOf s w.queue).settings.extensionLength
    extensions := w.extensions + 1 }) rfl) rfl

end

end Sys2Proof.Machine
end

-- ==== Sys2Proof/Proofs/AudioKept ====
section
/-! The frame, the clips and the programs: the audio side keeps its records in order and moves no call between queues and agents. -/

namespace Sys2Proof.Machine

section
variable {c a l : Prop} {s : State}

/-! ### The frame -/

theorem Sound.renewDue (k : Sound c a s) (h : Nat) : Sound c a (renewDue h s) := by
  unfold Machine.renewDue
  split
  · exact k
  · next x hx => exact k.setCallRec h (k.call hx :)

theorem Sound.nextLoop (k : Sound c a s) {v : Nat} (hv : v < 128) (r : Voice) (p : Program) : Sound c a (nextLoop v r p s) :=
  k.nextClip hv _ _ _ _

theorem Sound.privateLoopEnd (k : Sound c a s) {v : Nat} (hv : v < 128) (r : Voice) (p : Program) (h : Nat) :
    Sound c a (privateLoopEnd v r p h s) := by
  unfold Machine.privateLoopEnd
  split
  · exact k.nextLoop hv r p
  · split
    · split
      · exact k.nextClip hv _ _ _ _
      · exact (k.renewDue h).nextLoop hv r p
    · exact k.nextLoop hv r p

theorem Sound.clipEnd (k : Sound c a s) {v : Nat} (hv : v < 128) (r : Voice) : Sound c a (clipEnd v r s) := by
  unfold Machine.clipEnd
  split
  · exact k
  · split
    · exact k.nextClip hv _ _ _ _
    · split
      · exact k.privateLoopEnd hv r _ _
      · exact k.nextLoop hv r _
    · dsimp only
      split
      · exact (k.renewDue _).nextClip hv _ _ _ _
      · exact k.nextClip hv _ _ _ _
    · split
      · exact k.divertDone _ _
      · exact k

theorem Sound.playVoice (k : Sound c a s) (v : Nat) : Sound c a (playVoice s v) := by
  unfold Machine.playVoice
  split
  · exact k
  · next r hr =>
    split
    · exact k.setVoiceRec (k.voice hr) _
    · exact k.clipEnd (k.voice hr) r

theorem Sound.playAll (k : Sound c a s) (vs : List Nat) : Sound c a (vs.foldl Machine.playVoice s) := by
  induction vs generalizing s with
  | nil => exact k
  | cons v vs ih => exact ih (k.playVoice v)

theorem Kept.playFrame (k : Kept c a l s) (order : List Nat) : Kept c a l (playFrame order s) := by
  have driven : Kept c a l { s with highway := .driven ((List.range Config.voices).map (slotByte s)) } := k.of_records rfl
  exact driven.of_audio (audioOnly_playFrame order s) (driven.sound.playAll _)

/-! ### Clips -/

theorem sameTraffic_of_tables {t : State} (calls : t.calls = s.calls) (generations : t.generations = s.generations)
    (agents : t.agents = s.agents) (queues : t.queues = s.queues) (arrivals : t.arrivals = s.arrivals) : SameTraffic s t :=
  .of (fun h => by rw [callOf_congr calls generations]) (fun b => by rw [bondIn, agentOf, agents]; rfl)
    (fun q => by rw [queueOf, queues]; rfl) arrivals

theorem Kept.setClipRec (k : Kept c a l s) {j : Nat} (hj : j < 256) (e : Clip) : Kept c a l (setClipRec s j e) :=
  k.same (sameTraffic_of_tables rfl rfl rfl rfl rfl) (k.sound.setClipRec hj e)

theorem Kept.dropClip (k : Kept c a l s) (j : Nat) : Kept c a l (dropClip s j) :=
  k.same (sameTraffic_of_tables rfl rfl rfl rfl rfl) (k.sound.dropClip j)

theorem Kept.handleOpenClipLoad (k : Kept c a l s) (clip : BitVec 8) (startPage : BitVec 16) (length : BitVec 32) :
    Kept c a l (handleOpenClipLoad clip startPage length s).1 := by
  unfold Machine.handleOpenClipLoad
  dsimp only
  split
  · exact k
  split
  · exact k
  split
  · exact k
  split
  · exact k
  split
  · exact k
  · exact k.setClipRec clip.isLt _

/-- An order that needs the clip LOADING keeps what its steps keep. -/
theorem withLoading_fst {P : State → Prop} {j : Nat} {g : Clip → Nat → Byte → Nat → State → State × Answer} (hs : P s)
    (hg : ∀ e cursor xor excess, P (g e cursor xor excess s).1) : P (withLoading j g s).1 := by
  unfold withLoading
  split
  · exact hs
  · split
    · exact hg _ _ _ _
    all_goals exact hs

theorem Kept.handleClipData (k : Kept c a l s) (clip : BitVec 8) (offset : BitVec 32) (data : List (BitVec 8)) :
    Kept c a l (handleClipData clip offset data s).1 := by
  unfold Machine.handleClipData
  dsimp only
  split
  · exact k
  refine withLoading_fst k fun e cursor xor excess => ?_
  split
  · exact k
  have loaded := k.setClipRec clip.isLt { e with
    status := .loading (cursor + (data.take (e.length - cursor)).length) (xorBytes xor (data.take (e.length - cursor)))
      (min 4294967295 (excess + (data.length - (data.take (e.length - cursor)).length))) }
  exact loaded.same (sameTraffic_of_tables rfl rfl rfl rfl rfl)
    { loaded.sound with samples := fun hc => wf_writeBytes _ _ (k.sound.samples hc) }

theorem Kept.handleCloseClipLoad (k : Kept c a l s) (clip expectedXor : BitVec 8) :
    Kept c a l (handleCloseClipLoad clip expectedXor s).1 := withLoading_fst k fun _ _ _ _ => k.setClipRec clip.isLt _

theorem Kept.handleAbortClipLoad (k : Kept c a l s) (clip : BitVec 8) : Kept c a l (handleAbortClipLoad clip s).1 :=
  withLoading_fst k fun _ _ _ _ => k.dropClip _

theorem Kept.handleFreeClip (k : Kept c a l s) (clip : BitVec 8) : Kept c a l (handleFreeClip clip s).1 := by
  unfold Machine.handleFreeClip
  dsimp only
  split
  · exact k
  split
  · exact k
  · split
    · exact k
    · exact k.dropClip _
  · exact k.dropClip _

/-! ### Programs -/

theorem Kept.changeUse (k : Kept c a l s) (j : Nat) (f : Nat → Nat) : Kept c a l (changeUse s j f) :=
  k.of_audio (audioOnly_changeUse s j f) (k.sound.changeUse j f)

theorem Kept.changeUses (k : Kept c a l s) (js : List Nat) (f : Nat → Nat) : Kept c a l (js.foldl (fun t j => Machine.changeUse t j f) s) := by
  induction js generalizing s with
  | nil => exact k
  | cons j js ih => exact ih (k.changeUse j f)

theorem Kept.moveReferences (k : Kept c a l s) (old new : List Nat) : Kept c a l (moveReferences s old new) :=
  (k.changeUses _ (· - 1)).changeUses _ (· + 1)

theorem Kept.handleSetProgram (k : Kept c a l s) (f : ProgramFields) : Kept c a l (handleSetProgram f s).1 := by
  unfold Machine.handleSetProgram
  split
  · exact k
  split
  · exact k
  next hrefusal =>
  have hp : f.program.toNat < 32 := by
    by_contra hlt
    rw [setProgramRefusal, if_pos (by omega)] at hrefusal
    cases hrefusal
  have moved := k.moveReferences (referredBy (programOf s f.program.toNat)) (programClips (programContent f))
  exact moved.same (sameTraffic_of_tables rfl rfl rfl rfl rfl)
    { moved.sound with programs := moved.sound.programs.insert hp }

theorem Kept.handleDeleteProgram (k : Kept c a l s) (program : BitVec 8) : Kept c a l (handleDeleteProgram program s).1 := by
  unfold Machine.handleDeleteProgram
  dsimp only
  split
  · exact k
  split
  · exact k
  next r hr =>
  split
  · exact k
  have moved := k.moveReferences (programClips r) []
  exact moved.same (sameTraffic_of_tables rfl rfl rfl rfl rfl)
    { moved.sound with programs := moved.sound.programs.erase _ }

end

end Sys2Proof.Machine
end

-- ==== Sys2Proof/Proofs/Invariants ====
section
/-! Every step keeps the records in order, the pairing and the waiting lists: the orders of service and of the queues, the clearings, and
the invariants settled. -/

namespace Sys2Proof.Machine

section
variable {c a l : Prop} {s : State}

/-! ### Queues -/

/-- A SET QUEUE that is not refused names a queue of the part and stores settings in order. -/
theorem storedSettings_fine {f : QueueFields} (h : setQueueRefusal s f = none) : f.queue.toNat < 64 ∧
    (∀ t, (storedSettings f).overflowTarget = some t → t < 64) ∧
    1 ≤ (storedSettings f).ahtSeed ∧ (storedSettings f).ahtSeed ≤ 65535 := by
  rw [setQueueRefusal_eq, Option.map_eq_none_iff, List.find?_eq_none] at h
  have hqueue : ¬ 63 < f.queue.toNat := by simpa using h (decide (63 < f.queue.toNat), .refuse .badField 1 0) (by simp [setQueueChecks])
  have htarget : ¬ (f.overflowTarget = f.queue ∨ 64 ≤ f.overflowTarget.toNat ∧ f.overflowTarget.toNat ≤ 254) := by
    simpa only [decide_eq_true_eq] using h (decide (f.overflowTarget = f.queue ∨ 64 ≤ f.overflowTarget.toNat ∧
      f.overflowTarget.toNat ≤ 254), .refuse .badField 21 0) (by simp [setQueueChecks])
  refine ⟨by omega, fun t ht => ?_, Nat.le_max_left _ _, ?_⟩
  · change orNone f.overflowTarget = some t at ht
    unfold orNone at ht
    split at ht
    · cases ht
    · next hne =>
      obtain rfl := Option.some.inj ht
      have := f.overflowTarget.isLt
      by_contra hlt
      exact htarget (.inr (by omega))
  · show max 1 f.ahtSeed.toNat ≤ 65535
    have := f.ahtSeed.isLt
    omega

theorem Kept.handleSetQueue (k : Kept c a l s) (f : QueueFields) : Kept c a l (handleSetQueue f s).1 := by
  cases h : setQueueRefusal s f with
  | some r => rw [handleSetQueue_of_refusal h]; exact k
  | none =>
    obtain ⟨hq, htarget, hlow, hhigh⟩ := storedSettings_fine h
    rw [handleSetQueue_of_accept h]
    refine k.setQueueRec hq ⟨htarget, fun ha => ⟨?_, hlow, hhigh⟩⟩ rfl
    have old := ((k.sound.queue f.queue.toNat).2 ha).1
    show (if f.reseed.toNat = 1 then (storedSettings f).ahtSeed * 16 else (queueOf s f.queue.toNat).aht16) ≤ 1048560
    split <;> omega

theorem Kept.handleSetQueueState (k : Kept c a l s) (queue state : BitVec 8) : Kept c a l (handleSetQueueState queue state s).1 := by
  unfold Machine.handleSetQueueState
  split
  · exact k
  split
  · exact k
  next hq _ =>
  have written := k.setQueueRec (q := queue.toNat) (r := { queueOf s queue.toNat with state := queueStateOf state.toNat }) (by omega)
    (k.sound.queue _) rfl
  dsimp only
  split
  · exact written.reopeningPass _
  · exact written

theorem Kept.handleReadQueueStatistics (k : Kept c a l s) (queue clear : BitVec 8) :
    Kept c a l (handleReadQueueStatistics queue clear s).1 := by
  unfold Machine.handleReadQueueStatistics
  split
  · exact k
  split
  · exact k
  next hq _ =>
  dsimp only
  split
  · exact k.setQueueRec (by omega) (k.sound.queue _) rfl
  · exact k

/-! ### Service -/

theorem Kept.handleStartService (k : Kept c a l s) (silence : BitVec 8) : Kept c a l (handleStartService silence s).1 := by
  unfold Machine.handleStartService
  split
  · exact k
  · exact k.of_records rfl

theorem Kept.handleStopService (k : Kept c a l s) : Kept c a l (handleStopService s).1 := by
  unfold Machine.handleStopService
  split
  · exact k
  · split
    · exact k
    · exact k.of_records rfl

/-! ### The clearings -/

theorem Sound.freeCalls (k : Sound c a s) (hs : List Nat) : Sound c a (hs.foldl (fun t h => Machine.freeCall t h) s) := by
  induction hs generalizing s with
  | nil => exact k
  | cons h hs ih => exact ih (k.freeCall h)

theorem QueueFine.cleared {r : Queue} (f : QueueFine a r) (now : Time) : QueueFine a (clearedQueue now r) := by
  obtain ⟨htarget, havg⟩ := f
  refine ⟨htarget, fun ha => ?_⟩
  obtain ⟨-, hlow, hhigh⟩ := havg ha
  refine ⟨?_, hlow, hhigh⟩
  show r.settings.ahtSeed * 16 ≤ 1048560
  omega

theorem Sound.clearQueues (k : Sound c a s) : Sound c a (clearQueues s) := by
  have fold (qs : List Nat) (hqs : ∀ q ∈ qs, q < 64) {t : State} (kt : Sound c a t) :
      Sound c a (qs.foldl (fun t q => Machine.setQueueRec t q (clearedQueue t.now (queueOf t q))) t) := by
    induction qs generalizing t with
    | nil => exact kt
    | cons q qs ih =>
      exact ih (fun x hx => hqs x (List.mem_cons_of_mem _ hx)) (kt.setQueueRec (hqs q List.mem_cons_self) ((kt.queue q).cleared _))
  exact fold _ (fun q hq => List.mem_range.1 hq) k

/-- What CLEAR SERVICE leaves of a state whose calls and queues are cleared. -/
def trafficDropped (t : State) : State :=
  let u := programUseOnly t
  { u with
    agents := [], readyList := [], voices := [], notices := [], noticesLost := false, inService := false,
    due := { u.due with offers := [], wraps := [], coolDowns := [] } }

theorem clearAll_eq (s : State) : clearAll s = trafficDropped (clearQueues (freeAllCalls s)) := by
  unfold clearAll trafficDropped
  rfl

theorem Sound.trafficDropped (k : Sound c a s) : Sound c a (trafficDropped s) where
  calls := k.calls
  generations := k.generations
  queues := k.queues
  agents := tableOk_nil
  clips := k.clips.map _ (fun _ => rfl) fun _ h => h
  programs := k.programs
  voices := tableOk_nil
  samples := k.samples

theorem trafficDropped_calls (s : State) : (trafficDropped s).calls = s.calls := rfl
theorem trafficDropped_agents (s : State) : (trafficDropped s).agents = [] := rfl
theorem queueOf_trafficDropped (s : State) (q : Nat) : queueOf (trafficDropped s) q = queueOf s q := rfl

theorem Sound.clearAll (k : Sound c a s) : Sound c a (clearAll s) := by
  rw [clearAll_eq]
  exact (k.freeCalls _).clearQueues.trafficDropped

/-- A queue that the part has not reads as at reset. -/
theorem Sound.queueOf_of_ge (k : Sound c a s) {q : Nat} (hq : 64 ≤ q) : queueOf s q = queueAtReset := by
  rw [queueOf]
  cases h : tableFind s.queues q with
  | none => rfl
  | some r => exact absurd (k.queues.find h).1 (by omega)

theorem Kept.clearAll (k : Kept c a l s) : Kept c a l (clearAll s) := by
  have sound := k.sound.clearAll
  rw [clearAll_eq] at sound ⊢
  refine .intro sound fun hc => .of_empty sound ?_ (trafficDropped_agents _) fun q => ?_
  · have e : (Machine.clearQueues (freeAllCalls s)).calls = (freeAllCalls s).calls := by
      obtain ⟨x, e⟩ := clearedTables_frame s
      rw [e]
    rw [trafficDropped_calls, e]
    exact (freeAllCalls_spec (k.sound.calls.rising hc) fun e he => (k.sound.calls.each e he).1).1
  · by_cases hq : q < 64
    · rw [queueOf_trafficDropped, clearQueues_queueOf _ hq]
      rfl
    · rw [sound.queueOf_of_ge (by omega)]
      rfl

theorem kept_reset (c a l : Prop) : Kept c a l State.reset :=
  .of_empty ⟨tableOk_nil, tableOk_nil, tableOk_nil, tableOk_nil, tableOk_nil, tableOk_nil, tableOk_nil, fun _ => rfl⟩ rfl rfl fun _ => rfl

theorem Kept.heldInReset (k : Kept c a l s) : Kept c a l (heldInReset s) :=
  .of_empty ⟨tableOk_nil, tableOk_nil, tableOk_nil, tableOk_nil, (k.sound.clips.filter _).map _ (fun _ => rfl) fun _ h => h,
    k.sound.programs, tableOk_nil, k.sound.samples⟩ rfl rfl fun _ => rfl

/-! ### The orders -/

theorem Kept.conclude {r : State × Answer} (k : Kept c a l r.1) (kind : Nat) : Kept c a l (conclude kind r) :=
  k.of_records (records_conclude kind r)

theorem Kept.concludeTo {r : State × Answer} (k : Kept c a l r.1) (dest : Dest) (kind : Nat) : Kept c a l (concludeTo dest kind r) :=
  k.of_records (records_concludeTo dest kind r)

theorem Kept.serviceOnly {g : State → State × Answer} (k : Kept c a l s) (kg : Kept c a l (g s).1) :
    Kept c a l (serviceOnly g s).1 := by
  unfold Machine.serviceOnly
  split
  · exact kg
  · exact k

theorem Kept.handOverOrder (k : Kept c a l s) (i : Instr) : Kept c a l (handOverOrder i s) := by
  have service {g : State → State × Answer} (kind : Nat) (kg : Kept c a l (g s).1) :
      Kept c a l (Machine.conclude kind (Machine.serviceOnly g s)) := (k.serviceOnly kg).conclude kind
  have same {r : State × Answer} (kind : Nat) (h : r.1 = s) : Kept c a l (Machine.conclude kind r) :=
    Kept.conclude (h ▸ k) kind
  cases i with
  | startService d b => exact (k.handleStartService b).concludeTo _ _
  | stopService d => exact k.handleStopService.concludeTo _ _
  | clearService d => exact Kept.concludeTo (r := handleClearService s) k.clearAll _ _
  | readEngine => exact k.of_records rfl
  | setQueue f => exact (k.handleSetQueue f).conclude _
  | setQueueState d q st => exact (k.handleSetQueueState q st).concludeTo _ _
  | readQueue q => exact same _ (handleReadQueue_fst q s)
  | readQueueStatistics q b => exact (k.handleReadQueueStatistics q b).conclude _
  | readWaiting q f n => exact same _ (handleReadWaiting_fst q f n s)
  | enqueue t q o p j g => exact service _ (k.handleEnqueue t q o p j g)
  | remove h b => exact service _ (k.handleRemove h b)
  | answer h b => exact service _ (k.handleAnswer h b)
  | refuseOffer h b p r => exact service _ (k.handleRefuseOffer h b p r)
  | release h => exact service _ (k.handleRelease h)
  | divert h => exact service _ (k.handleDivert h)
  | cancelDivert h => exact service _ (k.handleCancelDivert h)
  | readCall h => exact same _ (handleReadCall_fst h s)
  | login b j u i r => exact service _ (k.handleLogin b j u i r)
  | logout b => exact service _ (k.handleLogout b)
  | setReady b => exact service _ (k.handleSetReady b)
  | setNotReady b r => exact service _ (k.handleSetNotReady b r)
  | setSkills b j => exact service _ (k.handleSetSkills b j)
  | wrapDone b o j r => exact service _ (k.handleWrapDone b o j r)
  | setDisposition b j => exact service _ (k.handleSetDisposition b j)
  | extendWrap b => exact service _ (k.handleExtendWrap b)
  | readAgent b => exact same _ (handleReadAgent_fst b s)
  | readAgentStates b n => exact same _ (handleReadAgentStates_fst b n s)
  | openClipLoad j p n => exact (k.handleOpenClipLoad j p n).conclude _
  | clipData j o d => exact (k.handleClipData j o d).conclude _
  | closeClipLoad j x => exact (k.handleCloseClipLoad j x).conclude _
  | abortClipLoad j => exact (k.handleAbortClipLoad j).conclude _
  | freeClip j => exact (k.handleFreeClip j).conclude _
  | readClip j o n => exact same _ (handleReadClip_fst j o n s)
  | readClipEntry j => exact same _ (handleReadClipEntry_fst j s)
  | setProgram f => exact (k.handleSetProgram f).conclude _
  | deleteProgram p => exact (k.handleDeleteProgram p).conclude _
  | readProgram p => exact same _ (handleReadProgram_fst p s)
  | readVoice v => exact same _ (handleReadVoice_fst v s)
  | unknownKind j b => exact same _ rfl
  | _ => exact k

/-! ### Every step -/

theorem stepKept_kept (c a l : Prop) : StepKept (Kept c a l) where
  same _ _ k e := k.of_records e
  order i _ k := k.handOverOrder i
  play order _ k := k.playFrame order
  offer _ _ _ _ _ hx hst k := k.expireOffer hx hst
  wrap _ v _ p _ hv hs k := by
    obtain ⟨hb, hf⟩ := k.sound.agent hv
    exact k.expireWrap hb ((bondIn_eq hv).trans (bondOf_of_wrap hs)) v (hf.queue hs) p
  cool b v n _ _ hv hs k := (k.setAgentRec (v := { v with status := .ready n none }) (k.sound.agent hv).1 (wrapFine_of_none rfl)
    ((bondIn_eq hv).trans (bondOf_of_ready hs)).symm).matchAgent b
  surge _ _ hq k := k.evalSurge hq
  reset := kept_reset c a l
  held _ k := k.heldInReset

/-- Settles O56: the records in order, asked for without their canonical form and without the traffic. -/
theorem numbersStayInRange : Obligations.NumbersStayInRange := by
  intro s t hr havg e
  have k : Kept False True False s := ⟨(sound_iff ..).2 ⟨False.elim, hr, fun _ => havg⟩, False.elim, False.elim⟩
  obtain ⟨-, hr', havg'⟩ := (sound_iff ..).1 ((stepKept_kept ..).step k e).sound
  exact ⟨hr', havg' trivial⟩

/-- Settles O58: the pairing in canonical tables, alone and together with the lists. -/
theorem callsAndAgentsStayPaired : Obligations.CallsAndAgentsStayPaired := by
  have sound {s : State} (hcan : Canonical s) (hr : InRange s) : Sound True False s :=
    (sound_iff ..).2 ⟨fun _ => hcan, hr, False.elim⟩
  refine ⟨fun s t hcan hr hp e => ?_, fun s t hcan hr hp hl e => ?_⟩
  · have k : Kept True False False s := ⟨sound hcan hr, fun _ => (paired_iff hcan hr).1 hp, fun _ => False.elim⟩
    have k' := (stepKept_kept ..).step k e
    exact (paired_iff (k'.canonical trivial) k'.inRange).2 (k'.paired trivial)
  · have k : Kept True False True s :=
      ⟨sound hcan hr, fun _ => (paired_iff hcan hr).1 hp, fun _ _ => (lists_iff hcan hr).1 hl⟩
    have k' := (stepKept_kept ..).step k e
    exact (lists_iff (k'.canonical trivial) k'.inRange).2 (k'.lists trivial trivial)

end

end Sys2Proof.Machine
end

-- ==== Sys2Proof/Proofs/ReadyLine ====
section
/-! The ready list (R41, R43) as one more list of `ListsIn`: the READY agents stand in it in the order of the ready sequences they hold,
and an OFFERED agent keeps its sequence without standing in it. -/

namespace Sys2Proof.Machine

/-! ### Where an agent stands -/

/-- The line an agent stands in: line 0, the ready list, when it is READY. There is no other line. -/
def lineOf (v : Agent) : Option Nat :=
  match v.status with
  | .ready _ _ => some 0
  | .notReady _ => none
  | .offered _ _ => none
  | .talking _ _ => none
  | .wrap _ _ => none

def lineIn (s : State) (a : Nat) : Option Nat := (agentOf s a).bind lineOf
def heldIn (s : State) (a : Nat) : Option Nat := (agentOf s a).bind heldSeqOf
def linesOf (s : State) (j : Nat) : List Nat := if j = 0 then s.readyList else []

/-- The ready list is in order, and every ready sequence held was given to one agent. -/
def ReadyIn (s : State) : Prop := ListsIn (lineIn s) (heldIn s) (linesOf s) s.readies

theorem lineOf_eq_some (v : Agent) (j : Nat) : lineOf v = some j ↔ j = 0 ∧ ∃ n d, v.status = .ready n d := by
  cases hs : v.status <;> simp [lineOf, hs, eq_comm]

theorem lineIn_eq_some (s : State) (a j : Nat) :
    lineIn s a = some j ↔ j = 0 ∧ ∃ v n d, agentOf s a = some v ∧ v.status = .ready n d := by
  simp only [lineIn, Option.bind_eq_some_iff, lineOf_eq_some]
  exact ⟨fun ⟨v, hv, hj, n, d, hs⟩ => ⟨hj, v, n, d, hv, hs⟩, fun ⟨hj, v, n, d, hv, hs⟩ => ⟨v, hv, hj, n, d, hs⟩⟩

theorem heldIn_eq_some (s : State) (a n : Nat) : heldIn s a = some n ↔ ∃ v, agentOf s a = some v ∧ heldSeqOf v = some n :=
  Option.bind_eq_some_iff

theorem readySeqOf_eq (s : State) (a : Nat) : readySeqOf s a = (heldIn s a).getD 0 := by
  unfold readySeqOf heldIn
  cases agentOf s a with
  | none => rfl
  | some v => cases hs : v.status <;> simp [heldSeqOf, hs]

/-- An agent that stands in the ready list holds a ready sequence. -/
theorem heldIn_of_lineIn {s : State} {a j : Nat} (h : lineIn s a = some j) : ∃ n, heldIn s a = some n := by
  obtain ⟨-, v, n, d, hv, hs⟩ := (lineIn_eq_some s a j).1 h
  exact ⟨n, (heldIn_eq_some s a n).2 ⟨v, hv, by rw [heldSeqOf, hs]⟩⟩

theorem readyListOk_iff (s : State) : ReadyListOk s ↔ ReadyIn s := by
  have hmem (a : Nat) : (∃ v n d, agentOf s a = some v ∧ v.status = .ready n d) ↔ lineIn s a = some 0 := by
    rw [lineIn_eq_some]; simp
  constructor
  · rintro ⟨-, hm, hsorted, hheld⟩
    refine ⟨fun j a => ?_, fun j => ?_, fun a n hn => ?_, fun a b n ha hb => ?_, fun a j => heldIn_of_lineIn⟩
    · rw [linesOf]
      split
      · next hj => rw [hj, hm, hmem]
      · next hj => simp [lineIn_eq_some, hj]
    · rw [linesOf]
      split
      · simpa only [readySeqOf_eq] using hsorted
      · exact .nil
    · obtain ⟨v, hv, hn⟩ := (heldIn_eq_some s a n).1 hn
      exact (hheld a v n hv hn).1
    · obtain ⟨v, hv, hvn⟩ := (heldIn_eq_some s b n).1 hb
      obtain ⟨w, hw, hwn⟩ := (heldIn_eq_some s a n).1 ha
      exact (hheld b v n hv hvn).2 a w hw hwn
  · intro r
    refine ⟨r.nodup 0, fun a => (r.mem 0 a).trans (hmem a).symm, ?_, fun a v n hv hn => ⟨?_, fun b w hw hwn => ?_⟩⟩
    · simp only [readySeqOf_eq]
      exact r.sorted 0
    · exact r.below a n ((heldIn_eq_some s a n).2 ⟨v, hv, hn⟩)
    · exact r.one b a n ((heldIn_eq_some s b n).2 ⟨w, hw, hwn⟩) ((heldIn_eq_some s a n).2 ⟨v, hv, hn⟩)

theorem ReadyIn.mem_readyList {s : State} (r : ReadyIn s) (a : Nat) : a ∈ s.readyList ↔ lineIn s a = some 0 := r.mem 0 a

/-! ### Views of the agents -/

theorem lineOf_withoutDeadline (v : Agent) : lineOf (withoutDeadline v) = lineOf v := by
  cases h : v.status <;> simp [lineOf, withoutDeadline, h]

theorem heldSeqOf_withoutDeadline (v : Agent) : heldSeqOf (withoutDeadline v) = heldSeqOf v := by
  cases h : v.status <;> simp [heldSeqOf, withoutDeadline, h]

theorem bind_of_withoutDeadline {β : Type} (f : Agent → Option β) (hf : ∀ v, f (withoutDeadline v) = f v) {o o' : Option Agent}
    (h : o.map withoutDeadline = o'.map withoutDeadline) : o.bind f = o'.bind f := by
  have e (o : Option Agent) : o.bind f = (o.map withoutDeadline).bind f := by cases o <;> simp [hf]
  rw [e, h, ← e]

/-- A view of the agents after one of them has moved. -/
theorem agentView_of_moved {β : Type} (f : Agent → Option β) {s t : State} {b : Nat} {o : Option Agent}
    (e : ∀ x, agentOf t x = if x = b then o else agentOf s x) (x : Nat) :
    (agentOf t x).bind f = if x = b then o.bind f else (agentOf s x).bind f := by
  rw [e]; split <;> rfl

/-! ### The same ready list -/

/-- The two states agree on who stands in the ready list and on the ready sequences held. -/
structure SameReady (s t : State) : Prop where
  line : lineIn t = lineIn s
  held : heldIn t = heldIn s
  list : t.readyList = s.readyList
  readies : t.readies = s.readies

theorem SameReady.of {s t : State} (agents : ∀ a, (agentOf t a).map withoutDeadline = (agentOf s a).map withoutDeadline)
    (list : t.readyList = s.readyList) (readies : t.readies = s.readies) : SameReady s t :=
  ⟨funext fun a => bind_of_withoutDeadline _ lineOf_withoutDeadline (agents a),
    funext fun a => bind_of_withoutDeadline _ heldSeqOf_withoutDeadline (agents a), list, readies⟩

/-- Agents that stand as they stood. -/
theorem SameReady.of_agentOf {s t : State} (agents : ∀ a, agentOf t a = agentOf s a) (list : t.readyList = s.readyList)
    (readies : t.readies = s.readies) : SameReady s t := .of (fun a => by rw [agents]) list readies

section
variable {s t : State}

theorem ReadyIn.same (r : ReadyIn s) (e : SameReady s t) : ReadyIn t := by
  have hlines : linesOf t = linesOf s := funext fun j => by rw [linesOf, linesOf, e.list]
  rw [ReadyIn, e.line, e.held, hlines, e.readies]
  exact r

/-! ### An agent moves -/

/-- An agent leaves the ready list, or stays outside it, and keeps its ready sequence or gives it up. -/
theorem ReadyIn.leave (r : ReadyIn s) {b : Nat} {o : Option Agent} (hagents : ∀ x, agentOf t x = if x = b then o else agentOf s x)
    (hline : o.bind lineOf = none) (hheld : o.bind heldSeqOf = none ∨ o.bind heldSeqOf = heldIn s b)
    (hlist : t.readyList = s.readyList.erase b) (hreadies : t.readies = s.readies) : ReadyIn t := by
  have line (x : Nat) : lineIn t x = if x = b then none else lineIn s x := by rw [← hline]; exact agentView_of_moved _ hagents x
  have held (x : Nat) : heldIn t x = if x = b then o.bind heldSeqOf else heldIn s x := agentView_of_moved _ hagents x
  have away : ListsIn (lineIn t) (heldIn s) (linesOf t) s.readies := by
    cases hb : lineIn s b with
    | none =>
      have hnot : b ∉ s.readyList := fun h => by rw [r.mem_readyList, hb] at h; cases h
      have e : lineIn t = lineIn s := funext fun x => by rw [line]; split <;> simp_all
      have e' : linesOf t = linesOf s := funext fun j => by rw [linesOf, linesOf, hlist, List.erase_of_not_mem hnot]
      rw [e, e']
      exact r
    | some j =>
      obtain ⟨rfl, -⟩ := (lineIn_eq_some s b j).1 hb
      refine ListsIn.leave r hb line fun j => ?_
      unfold linesOf
      split
      · rw [hlist]; rfl
      · rfl
  rw [ReadyIn, hreadies]
  rcases hheld with hnone | hsame
  · exact away.drop (by rw [line, if_pos rfl]) fun x => by rw [held, hnone]
  · have e : heldIn t = heldIn s := funext fun x => by
      rw [held, hsame]
      split
      · next hx => rw [hx]
      · rfl
    rw [e]
    exact away

/-- An agent that is not READY moves and stays so. -/
theorem ReadyIn.outside (r : ReadyIn s) {b : Nat} {o : Option Agent} (hagents : ∀ x, agentOf t x = if x = b then o else agentOf s x)
    (hold : lineIn s b = none) (hline : o.bind lineOf = none) (hheld : o.bind heldSeqOf = none ∨ o.bind heldSeqOf = heldIn s b)
    (hlist : t.readyList = s.readyList) (hreadies : t.readies = s.readies) : ReadyIn t := by
  refine r.leave hagents hline hheld ?_ hreadies
  rw [hlist, List.erase_of_not_mem]
  intro h
  rw [r.mem_readyList, hold] at h
  cases h

/-- An agent that was not READY enters at the back, with the ready sequence next in order. -/
theorem ReadyIn.enterReady (r : ReadyIn s) {b : Nat} (hold : lineIn s b = none) (v : Agent) (d : Option Time) :
    ReadyIn (enterReady s b v d) := by
  have hagents (x : Nat) : agentOf (Machine.enterReady s b v d) x =
      if x = b then some { v with status := .ready s.readies d } else agentOf s x := agentOf_enterReady ..
  have gone := ListsIn.drop r hold (seq' := fun x => if x = b then none else heldIn s x) fun _ => rfl
  refine gone.arrive (if_pos rfl) (agentView_of_moved lineOf hagents) (fun x => ?_) fun j => ?_
  · rw [heldIn, agentView_of_moved heldSeqOf hagents]
    split
    · rfl
    · rfl
  · unfold linesOf
    split <;> simp [Machine.enterReady]

/-- Where an agent goes into the ready list: behind those with a ready sequence no greater, ahead of one with a greater. -/
theorem readyInsert_split (s : State) (a n : Nat) (l : List Nat) : ∃ before after, l = before ++ after ∧
    readyInsert s a n l = before ++ a :: after ∧ (∀ x ∈ before, readySeqOf s x ≤ n) ∧ ∀ x, after.head? = some x → n < readySeqOf s x := by
  induction l with
  | nil => exact ⟨[], [], rfl, rfl, by simp, by simp⟩
  | cons x xs ih =>
    rw [readyInsert]
    by_cases hlt : n < readySeqOf s x
    · exact ⟨[], x :: xs, rfl, by simp [hlt], by simp, by simpa using hlt⟩
    · obtain ⟨before, after, hl, hi, hb, ha⟩ := ih
      exact ⟨x :: before, after, by simp [hl], by simp [hlt, hi], List.forall_mem_cons.2 ⟨Nat.not_lt.1 hlt, hb⟩, ha⟩

/-- An agent that is not READY returns to the place its ready sequence gives it (R41, R70). -/
theorem ReadyIn.returnToPlace (r : ReadyIn s) {b n : Nat} (hold : lineIn s b = none) (hn : heldIn s b = some n) (v : Agent) :
    ReadyIn (returnToPlace s b v n) := by
  have hagents (x : Nat) : agentOf (Machine.returnToPlace s b v n) x =
      if x = b then some { v with status := .ready n none } else agentOf s x := agentOf_returnToPlace ..
  obtain ⟨before, after, hl, hi, hb, ha⟩ := readyInsert_split s b n s.readyList
  simp only [readySeqOf_eq] at hb ha
  have hheld : heldIn (Machine.returnToPlace s b v n) = heldIn s := funext fun x => by
    rw [heldIn, agentView_of_moved heldSeqOf hagents]
    split
    · next hx => rw [hx, hn]; rfl
    · rfl
  rw [ReadyIn, hheld]
  refine ListsIn.join r hold hn (agentView_of_moved lineOf hagents) (before := before) (after := after) hl hb ha fun j => ?_
  unfold linesOf
  split
  · exact hi
  · rfl

/-- With no agent and an empty list, there is nothing to keep. -/
theorem ReadyIn.of_empty (hagents : t.agents = []) (hlist : t.readyList = []) : ReadyIn t := by
  have hagent (a : Nat) : agentOf t a = none := by rw [agentOf, hagents]; rfl
  have hline (a : Nat) : lineIn t a = none := by rw [lineIn, hagent]; rfl
  have hheld (a : Nat) : heldIn t a = none := by rw [heldIn, hagent]; rfl
  have hlines (j : Nat) : linesOf t j = [] := by rw [linesOf, hlist]; exact ite_self _
  refine ⟨fun j a => ?_, fun j => ?_, fun a n e => ?_, fun a b n e _ => ?_, fun a j e => ?_⟩
  · simp [hline, hlines]
  · simp [hlines]
  · simp [hheld] at e
  · simp [hheld] at e
  · simp [hline] at e

end

end Sys2Proof.Machine
end

-- ==== Sys2Proof/Proofs/NoPair ====
section
/-! No pair is left (R53), said of what calls ask for, agents have to spare and queues let through; and, in the middle of an event, but
for the calls and the agents whose matching is still to come. -/

namespace Sys2Proof.Machine

/-! ### What a call asks, an agent spares and a queue lets through -/

/-- What a WAITING call asks: its queue, its extra skills, and the agents that are not to have it. -/
structure Ask where
  queue : Nat
  skills : Mask
  exclusion : List Nat

def askOf (c : Call) : Option Ask :=
  if isWaiting c then some { queue := c.queue, skills := c.extraSkills.getD 0, exclusion := c.exclusion } else none

/-- The skills of an agent that is READY and in no cool-down. -/
def spareOf (v : Agent) : Option Mask := if available v then some v.skills else none

/-- The skills that a queue which offers its calls requires. -/
def gateOf (r : Queue) : Option Mask := if offering r.state then some r.settings.requiredSkills else none

def askIn (s : State) (h : Nat) : Option Ask := (callOf s h).bind askOf
def spareIn (s : State) (a : Nat) : Option Mask := (agentOf s a).bind spareOf
def gateIn (s : State) (q : Nat) : Option Mask := gateOf (queueOf s q)

theorem askIn_eq_some (s : State) (h : Nat) (x : Ask) : askIn s h = some x ↔ ∃ c, callOf s h = some c ∧ c.status = .waiting ∧
    x = { queue := c.queue, skills := c.extraSkills.getD 0, exclusion := c.exclusion } := by
  simp only [askIn, Option.bind_eq_some_iff, askOf, Option.ite_none_right_eq_some, isWaiting_eq_true, Option.some.injEq]
  exact exists_congr fun c => and_congr_right fun _ => and_congr_right fun _ => eq_comm

theorem spareIn_eq_some (s : State) (a : Nat) (m : Mask) :
    spareIn s a = some m ↔ ∃ v n, agentOf s a = some v ∧ v.status = .ready n none ∧ m = v.skills := by
  simp only [spareIn, Option.bind_eq_some_iff, spareOf, Option.ite_none_right_eq_some, available_eq_true, Option.some.injEq]
  exact ⟨fun ⟨v, hv, ⟨n, hn⟩, hm⟩ => ⟨v, n, hv, hn, hm.symm⟩, fun ⟨v, n, hv, hn, hm⟩ => ⟨v, hv, ⟨n, hn⟩, hm.symm⟩⟩

theorem gateIn_eq_some (s : State) (q : Nat) (r : Mask) :
    gateIn s q = some r ↔ offering (queueOf s q).state = true ∧ r = (queueOf s q).settings.requiredSkills := by
  simp only [gateIn, gateOf, Option.ite_none_right_eq_some, Option.some.injEq]
  exact and_congr_right fun _ => eq_comm

/-- An agent with something to spare stands in the ready list. -/
theorem lineIn_of_spareIn {s : State} {a : Nat} {m : Mask} (h : spareIn s a = some m) : lineIn s a = some 0 := by
  obtain ⟨v, n, hv, hs, -⟩ := (spareIn_eq_some s a m).1 h
  exact (lineIn_eq_some s a 0).2 ⟨rfl, v, n, none, hv, hs⟩

/-- Agent `a`, with skills `m`, may have a call that asks `x` through these gates (R54, R58). -/
def Suits (gate : Nat → Option Mask) (x : Ask) (a : Nat) (m : Mask) : Prop :=
  ∃ r, gate x.queue = some r ∧ covers m (r ||| x.skills) = true ∧ a ∉ x.exclusion

/-- The call and the agent are a pair. -/
theorem takeable_iff {s : State} {h a : Nat} {c : Call} {v : Agent} (hc : callOf s h = some c) (hv : agentOf s a = some v) :
    takeable s a v c = true ↔ ∃ x m, askIn s h = some x ∧ spareIn s a = some m ∧ Suits (gateIn s) x a m := by
  rw [takeable_eq_true]
  constructor
  · rintro ⟨hw, ho, ⟨n, hn⟩, hcov, hex⟩
    exact ⟨_, _, (askIn_eq_some s h _).2 ⟨c, hc, hw, rfl⟩, (spareIn_eq_some s a _).2 ⟨v, n, hv, hn, rfl⟩, _,
      (gateIn_eq_some s c.queue _).2 ⟨ho, rfl⟩, hcov, hex⟩
  · rintro ⟨x, m, hx, hm, r, hr, hcov, hex⟩
    obtain ⟨c', hc', hw, rfl⟩ := (askIn_eq_some s h x).1 hx
    obtain rfl := Option.some.inj (hc.symm.trans hc')
    obtain ⟨v', n, hv', hn, rfl⟩ := (spareIn_eq_some s a m).1 hm
    obtain rfl := Option.some.inj (hv.symm.trans hv')
    obtain ⟨ho, rfl⟩ := (gateIn_eq_some s c.queue r).1 hr
    exact ⟨hw, ho, ⟨n, hn⟩, hcov, hex⟩

/-- No pair is left but with the calls `hs` and the agents `bs`, whose matching is still to come. -/
def NoPairBut (hs bs : Set Nat) (s : State) : Prop :=
  ∀ h x a m, askIn s h = some x → spareIn s a = some m → h ∉ hs → a ∉ bs → ¬ Suits (gateIn s) x a m

theorem noPair_iff {s : State} (hcan : Canonical s) (hr : InRange s) : NoPair s ↔ NoPairBut ∅ ∅ s := by
  constructor
  · intro n h x a m hx hm _ _ hfit
    obtain ⟨c, hc, -⟩ := (askIn_eq_some s h x).1 hx
    obtain ⟨v, -, hv, -⟩ := (spareIn_eq_some s a m).1 hm
    have hfree := n a v hv _ (mem_calls_of_callOf hcan hr hc)
    rw [(takeable_iff hc hv).2 ⟨x, m, hx, hm, hfit⟩] at hfree
    cases hfree
  · rintro n a v hv ⟨k, c⟩ he
    have hc := ((mem_calls_iff hcan hr k c).1 he).2
    by_contra ht
    obtain ⟨x, m, hx, hm, hfit⟩ := (takeable_iff hc hv).1 (by simpa using ht)
    exact n _ x a m hx hm (Set.notMem_empty _) (Set.notMem_empty _) hfit

/-- Fewer calls, agents and gates make no more pairs. -/
theorem NoPairBut.mono {hs bs hs' bs' : Set Nat} {s t : State} (n : NoPairBut hs bs s)
    (calls : ∀ h x, h ∉ hs' → askIn t h = some x → h ∉ hs ∧ askIn s h = some x)
    (agents : ∀ a m, a ∉ bs' → spareIn t a = some m → a ∉ bs ∧ spareIn s a = some m)
    (gates : ∀ q r, gateIn t q = some r → gateIn s q = some r) : NoPairBut hs' bs' t := by
  rintro h x a m hx hm hh ha ⟨r, hr, hcov, hex⟩
  obtain ⟨hh', hx'⟩ := calls h x hh hx
  obtain ⟨ha', hm'⟩ := agents a m ha hm
  exact n h x a m hx' hm' hh' ha' ⟨r, gates _ r hr, hcov, hex⟩

/-! ### The same for matching -/

theorem askOf_withoutAudio (c : Call) : askOf (withoutAudio c) = askOf c := by
  cases h : c.status <;> simp [askOf, isWaiting, withoutAudio, h]

theorem spareOf_withoutDeadline (v : Agent) : spareOf (withoutDeadline v) = spareOf v := by
  cases h : v.status <;> simp [spareOf, available, withoutDeadline, h]

/-- The two states agree on the ready list and on what calls ask, agents spare and queues let through. -/
structure SameMatching (s t : State) : Prop where
  ready : SameReady s t
  ask : askIn t = askIn s
  spare : spareIn t = spareIn s
  gate : gateIn t = gateIn s

theorem SameMatching.of {s t : State} (calls : ∀ h, (callOf t h).map withoutAudio = (callOf s h).map withoutAudio)
    (agents : ∀ a, (agentOf t a).map withoutDeadline = (agentOf s a).map withoutDeadline) (gates : ∀ q, gateIn t q = gateIn s q)
    (list : t.readyList = s.readyList) (readies : t.readies = s.readies) : SameMatching s t :=
  ⟨.of agents list readies, funext fun h => bind_of_withoutAudio _ askOf_withoutAudio (calls h),
    funext fun a => bind_of_withoutDeadline _ spareOf_withoutDeadline (agents a), funext gates⟩

theorem SameMatching.trans {s t u : State} (e : SameMatching s t) (e' : SameMatching t u) : SameMatching s u :=
  ⟨⟨e'.ready.line.trans e.ready.line, e'.ready.held.trans e.ready.held, e'.ready.list.trans e.ready.list,
    e'.ready.readies.trans e.ready.readies⟩, e'.ask.trans e.ask, e'.spare.trans e.spare, e'.gate.trans e.gate⟩

theorem NoPairBut.same {hs bs : Set Nat} {s t : State} (n : NoPairBut hs bs s) (e : SameMatching s t) : NoPairBut hs bs t := by
  rw [NoPairBut, e.ask, e.spare, e.gate]
  exact n

/-- What matching reads of a state. -/
def matchingSide (s : State) : State :=
  { State.reset with
    generations := s.generations, calls := s.calls, queues := s.queues, agents := s.agents, readyList := s.readyList,
    readies := s.readies }

theorem SameMatching.of_side {s t : State} (e : matchingSide t = matchingSide s) : SameMatching s t := by
  have hcall (h : Nat) : callOf t h = callOf s h := (congrArg (callOf · h) e :)
  have hagent (a : Nat) : agentOf t a = agentOf s a := (congrArg (agentOf · a) e :)
  exact .of (fun h => by rw [hcall]) (fun a => by rw [hagent]) (fun q => (congrArg (gateIn · q) e :)) (congrArg State.readyList e :)
    (congrArg State.readies e :)

theorem SameMatching.of_records {s t : State} (e : records t = records s) : SameMatching s t :=
  .of_side (congrArg matchingSide e :)

theorem sameMatching_of_audio {s t : State} (h : AudioOnly s t) : SameMatching s t :=
  .of h.callOf (fun a => by rw [h.agentOf]) (fun q => by rw [gateIn, h.queueOf]; rfl) h.readyList h.readies

theorem sameMatching_evalSurge (q : Nat) (s : State) : SameMatching s (evalSurge q s) := by
  obtain ⟨hqueues, hagents, -⟩ := evalSurge_spec q s
  refine .of (fun h => by rw [callOf_evalSurge]) hagents (fun j => ?_) (evalSurge_readyList q s) (evalSurge_readies q s)
  rw [gateIn, hqueues]
  split
  · next e => rw [e]; rfl
  · rfl

/-- A queue record written with its state and its required skills kept. -/
theorem sameMatching_setQueueRec (s : State) {q : Nat} {r : Queue} (h : gateOf r = gateIn s q) : SameMatching s (setQueueRec s q r) := by
  refine .of (fun _ => rfl) (fun _ => rfl) (fun j => ?_) rfl rfl
  rw [gateIn, queueOf_setQueueRec]
  split
  · next e => rw [e, h]
  · rfl

/-! ### What is kept in the middle of an event -/

/-- The records in order, the ready list in order, and, where `l` asks for it, no pair left but with the calls `hs` and the agents `bs`. -/
structure Matched (l : Prop) (hs bs : Set Nat) (s : State) : Prop where
  sound : Sound True False s
  ready : ReadyIn s
  noPair : l → NoPairBut hs bs s

section
variable {l : Prop} {hs bs hs' bs' : Set Nat} {s t : State}

theorem Matched.same (m : Matched l hs bs s) (e : SameMatching s t) (h : Sound True False t) : Matched l hs bs t where
  sound := h
  ready := m.ready.same e.ready
  noPair hl := (m.noPair hl).same e

theorem Matched.mono (m : Matched l hs bs s) (hhs : hs ⊆ hs') (hbs : bs ⊆ bs') : Matched l hs' bs' s :=
  ⟨m.sound, m.ready, fun hl => (m.noPair hl).mono (fun _ _ hn hx => ⟨fun hh => hn (hhs hh), hx⟩)
    (fun _ _ hn hm => ⟨fun hb => hn (hbs hb), hm⟩) fun _ _ => id⟩

theorem Matched.of_records (m : Matched l hs bs s) (e : records t = records s) : Matched l hs bs t :=
  m.same (.of_records e) (m.sound.of_records e)

theorem Matched.notify (m : Matched l hs bs s) (kind body) : Matched l hs bs (notify kind body s) := m.of_records (records_notify ..)

theorem Matched.evalSurge (m : Matched l hs bs s) {q : Nat} (hq : q < 64) : Matched l hs bs (evalSurge q s) :=
  m.same (sameMatching_evalSurge q s) (m.sound.evalSurge hq)

theorem Matched.of_audio (m : Matched l hs bs s) (e : AudioOnly s t) (h : Sound True False t) : Matched l hs bs t :=
  m.same (sameMatching_of_audio e) h

theorem Matched.count (m : Matched l hs bs s) {q : Nat} (hq : q < 64) (f : Counters → Counters) : Matched l hs bs (count s q f) :=
  m.same (sameMatching_setQueueRec s rfl) (m.sound.count hq f)

theorem Matched.takeSample (m : Matched l hs bs s) {q n : Nat} (hq : q < 64) (hn : n ≤ 65535) : Matched l hs bs (takeSample s q n) :=
  m.same (sameMatching_setQueueRec s rfl) (m.sound.takeSample hq hn)

/-- A step that moves one agent, whose matching is then to come. -/
theorem Matched.moveAgent (m : Matched l hs bs s) {b : Nat} {o : Option Agent} (h : Sound True False t) (ready : ReadyIn t)
    (hcalls : ∀ g, callOf t g = callOf s g) (hqueues : ∀ q, queueOf t q = queueOf s q)
    (hagents : ∀ x, agentOf t x = if x = b then o else agentOf s x) : Matched l hs (insert b bs) t := by
  refine ⟨h, ready, fun hl => (m.noPair hl).mono (fun g x hg hx => ⟨hg, ?_⟩) (fun a k ha hk => ?_) fun q r hr => ?_⟩
  · rwa [askIn, hcalls] at hx
  · rw [Set.mem_insert_iff, not_or] at ha
    rw [spareIn, agentView_of_moved spareOf hagents, if_neg ha.1] at hk
    exact ⟨ha.2, hk⟩
  · rwa [gateIn, hqueues] at hr

/-- An agent with nothing to spare has no matching to come. -/
theorem Matched.busy {b : Nat} (m : Matched l hs (insert b bs) s) (hb : spareIn s b = none) : Matched l hs bs s := by
  refine ⟨m.sound, m.ready, fun hl => (m.noPair hl).mono (fun _ _ hg hx => ⟨hg, hx⟩) (fun a k ha hk => ⟨?_, hk⟩) fun _ _ => id⟩
  rw [Set.mem_insert_iff, not_or]
  refine ⟨?_, ha⟩
  rintro rfl
  rw [hb] at hk
  cases hk

/-- A call that asks nothing has no matching to come. -/
theorem Matched.content {h : Nat} (m : Matched l (insert h hs) bs s) (hh : askIn s h = none) : Matched l hs bs s := by
  refine ⟨m.sound, m.ready, fun hl => (m.noPair hl).mono (fun g x hg hx => ⟨?_, hx⟩) (fun _ _ ha hk => ⟨ha, hk⟩) fun _ _ => id⟩
  rw [Set.mem_insert_iff, not_or]
  refine ⟨?_, hg⟩
  rintro rfl
  rw [hh] at hx
  cases hx

/-- A step that moves one call, whose matching is then to come. -/
theorem Matched.moveCall (m : Matched l hs bs s) {h : Nat} (hsound : Sound True False t)
    (hcalls : ∀ g, g ≠ h → (callOf t g).map withoutAudio = (callOf s g).map withoutAudio)
    (hagents : ∀ a, (agentOf t a).map withoutDeadline = (agentOf s a).map withoutDeadline) (hgates : ∀ q, gateIn t q = gateIn s q)
    (hlist : t.readyList = s.readyList) (hreadies : t.readies = s.readies) : Matched l (insert h hs) bs t := by
  refine ⟨hsound, m.ready.same (.of hagents hlist hreadies), fun hl => (m.noPair hl).mono (fun g x hg hx => ?_)
    (fun a k ha hk => ⟨ha, ?_⟩) fun q r hr => ?_⟩
  · rw [Set.mem_insert_iff, not_or] at hg
    refine ⟨hg.2, ?_⟩
    rwa [askIn, bind_of_withoutAudio _ askOf_withoutAudio (hcalls g hg.1)] at hx
  · rwa [spareIn, bind_of_withoutDeadline _ spareOf_withoutDeadline (hagents a)] at hk
  · rwa [hgates] at hr

end

end Sys2Proof.Machine
end

-- ==== Sys2Proof/Proofs/MatchedPairs ====
section
/-! Matching leaves no pair with the call or the agent that is matched (R53, R57 to R59). -/

namespace Sys2Proof.Machine

section
variable {l : Prop} {hs bs : Set Nat} {s t : State}

/-! ### Offers -/

theorem offerWritten_matching (s : State) (h b : Nat) (x : Call) (v : Agent) (rotate : Bool) :
    (offerWritten s h b x v rotate).readyList = s.readyList.erase b ∧ (offerWritten s h b x v rotate).readies = s.readies ∧
      ∀ q, gateIn (offerWritten s h b x v rotate) q = gateIn s q := by
  obtain ⟨t, ht⟩ : ∃ t, t = setAgentRec (leaveReady (setCallRec (leaveList s h x.queue) h (offeredCall s b x)) b) b
      { v with status := .offered h (readySeqOf s b) } := ⟨_, rfl⟩
  have hlist : t.readyList = s.readyList.erase b := by
    rw [ht, setAgentRec_readyList, leaveReady_readyList, setCallRec_readyList, leaveList_readyList]
  have hreadies : t.readies = s.readies := by
    rw [ht, setAgentRec_readies, leaveReady_readies, setCallRec_readies, leaveList_readies]
  have hgates (q : Nat) : gateIn t q = gateIn s q := by
    rw [ht, gateIn, queueOf_setAgentRec, queueOf_leaveReady, queueOf_setCallRec, queueOf_leaveList]
    split
    · next e => rw [e]; rfl
    · rfl
  cases rotate with
  | false =>
    rw [show offerWritten s h b x v false = t from ht.symm]
    exact ⟨hlist, hreadies, hgates⟩
  | true =>
    rw [show offerWritten s h b x v true = setQueueRec t x.queue { queueOf t x.queue with cursor := b } by rw [ht]; rfl]
    have same := sameMatching_setQueueRec t (q := x.queue) (r := { queueOf t x.queue with cursor := b }) rfl
    exact ⟨same.ready.list.trans hlist, same.ready.readies.trans hreadies, fun q => (congrFun same.gate q).trans (hgates q)⟩

/-- An offer leaves neither the call asking nor the agent with anything to spare. -/
theorem Matched.makeOffer (m : Matched l hs bs s) {h b n : Nat} {x : Call} {v : Agent} {d : Option Time}
    (hx : callOf s h = some x) (hv : agentOf s b = some v) (hn : v.status = .ready n d) (rotate : Bool) :
    Matched l (hs \ {h}) (bs \ {b}) (makeOffer h b rotate s) := by
  obtain ⟨hcalls, hagents, -⟩ := offerWritten_spec hx b v rotate
  obtain ⟨hlist, hreadies, hgates⟩ := offerWritten_matching s h b x v rotate
  have same : SameMatching (offerWritten s h b x v rotate) (Machine.makeOffer h b rotate s) := by
    rw [makeOffer_eq_written hx hv, offerNotice]
    exact (sameMatching_evalSurge ..).trans (.of_records (records_notify ..))
  have hheld : readySeqOf s b = n := by simp only [readySeqOf, hv, hn]
  have ready : ReadyIn (offerWritten s h b x v rotate) := by
    refine m.ready.leave hagents rfl (.inr ?_) hlist hreadies
    rw [heldIn, hv, hheld, Option.bind_some, Option.bind_some, heldSeqOf, heldSeqOf, hn]
  refine ⟨m.sound.makeOffer h b rotate, ready.same same.ready, fun hl => NoPairBut.same ?_ same⟩
  refine (m.noPair hl).mono (fun g y hg hy => ?_) (fun a k ha hk => ?_) fun q r hr => by rwa [hgates] at hr
  · rw [askIn, hcalls] at hy
    split at hy
    · cases hy
    · next hne => exact ⟨fun hgs => hg ⟨hgs, hne⟩, hy⟩
  · rw [spareIn, agentView_of_moved spareOf hagents] at hk
    split at hk
    · cases hk
    · next hne => exact ⟨fun hbs => ha ⟨hbs, hne⟩, hk⟩

/-! ### Matching a call, matching an agent -/

/-- A call with no candidate is in no pair. -/
theorem not_suits_of_no_candidate (r : ReadyIn s) {h a : Nat} {c : Call} {x : Ask} {m : Mask} (hc : callOf s h = some c)
    (hnone : candidates s c = []) (hx : askIn s h = some x) (hm : spareIn s a = some m) : ¬ Suits (gateIn s) x a m := by
  intro hfit
  obtain ⟨v, n, hv, -⟩ := (spareIn_eq_some s a m).1 hm
  have htake := (takeable_iff hc hv).2 ⟨x, m, hx, hm, hfit⟩
  have hmem : a ∈ candidates s c := (mem_candidates s c a).2 ⟨(r.mem_readyList a).2 (lineIn_of_spareIn hm), v, hv,
    ((Bool.and_eq_true _ _).mp htake).2⟩
  rw [hnone] at hmem
  cases hmem

theorem Matched.matchCall (m : Matched l hs bs s) (h : Nat) : Matched l (hs \ {h}) bs (matchCall h s) := by
  by_cases hchoice : ∃ c a, callOf s h = some c ∧ c.status = .waiting ∧ offering (queueOf s c.queue).state = true ∧ chooseAgent s c = some a
  · obtain ⟨c, a, hc, hw, ho, ha⟩ := hchoice
    obtain ⟨v, n, hv, hn⟩ := ready_of_chooseAgent ha
    rw [matchCall_of_choice hc hw ho ha]
    exact (m.makeOffer hc hv hn _).mono subset_rfl Set.sdiff_subset
  · have idle (c : Call) (hc : callOf s h = some c) (hw : c.status = .waiting) (ho : offering (queueOf s c.queue).state = true) :
        chooseAgent s c = none := by
      cases ha : chooseAgent s c with
      | none => rfl
      | some a => exact absurd ⟨c, a, hc, hw, ho, ha⟩ hchoice
    rw [matchCall_eq_self fun c hc => ?_]
    · refine ⟨m.sound, m.ready, fun hl g x a k hx hk hg ha hfit => ?_⟩
      by_cases hgh : g = h
      · rw [hgh] at hx
        obtain ⟨c, hc, hw, rfl⟩ := (askIn_eq_some s h x).1 hx
        obtain ⟨r, hr, -⟩ := id hfit
        have hnone := (chooseAgent_eq_none s c).1 (idle c hc hw ((gateIn_eq_some s c.queue r).1 hr).1)
        exact not_suits_of_no_candidate m.ready hc hnone hx hk hfit
      · exact m.noPair hl g x a k hx hk (fun hgs => hg ⟨hgs, hgh⟩) ha hfit
    · by_contra hno
      simp only [not_or, not_not, Bool.not_eq_false] at hno
      obtain ⟨hw, ho, ha⟩ := hno
      exact ha (idle c hc hw ho)

theorem Matched.canonical (m : Matched l hs bs s) : Canonical s := ((sound_iff True False s).1 m.sound).1 trivial

theorem Matched.inRange (m : Matched l hs bs s) : InRange s := ((sound_iff True False s).1 m.sound).2.1

theorem Matched.matchAgent (m : Matched l hs bs s) (b : Nat) : Matched l hs (bs \ {b}) (matchAgent b s) := by
  cases hv : agentOf s b with
  | none =>
    have e : Machine.matchAgent b s = s := by simp only [Machine.matchAgent, hv]
    rw [e]
    refine Matched.busy (b := b) (m.mono subset_rfl ?_) (by rw [spareIn, hv]; rfl)
    rw [Set.insert_sdiff_singleton]
    exact Set.subset_insert b bs
  | some v =>
    by_cases htake : ∃ e ∈ s.calls, takeable s b v e.2 = true
    · obtain ⟨e, he, ht⟩ := htake
      obtain ⟨slot, c, hmem, hc, -, hoffer⟩ := matchAgent_of_takeable hv he ht
      obtain ⟨-, -, ⟨n, hn⟩, -⟩ := (takeable_eq_true s b v c).1 hc
      rw [hoffer]
      exact (m.makeOffer ((mem_calls_iff m.canonical m.inRange slot c).1 hmem).2 hv hn false).mono Set.sdiff_subset subset_rfl
    · have hnone (e : Nat × Call) (he : e ∈ s.calls) : takeable s b v e.2 = false := by
        by_contra ht
        exact htake ⟨e, he, by simpa using ht⟩
      rw [matchAgent_of_none hv hnone]
      refine ⟨m.sound, m.ready, fun hl h x a k hx hk hh ha hfit => ?_⟩
      by_cases hab : a = b
      · rw [hab] at hk hfit
        obtain ⟨c, hc, -⟩ := (askIn_eq_some s h x).1 hx
        have hfree := hnone _ (mem_calls_of_callOf m.canonical m.inRange hc)
        rw [(takeable_iff hc hv).2 ⟨x, k, hx, hk, hfit⟩] at hfree
        cases hfree
      · exact m.noPair hl h x a k hx hk hh (fun hbs => ha ⟨hbs, hab⟩) hfit

theorem Matched.offerAgent (m : Matched l hs bs s) (b : Nat) : Matched l hs (bs \ {b}) (offerAgent b s) := by
  unfold Machine.offerAgent
  split
  · exact m.matchAgent b
  · next hno =>
    refine Matched.busy (b := b) (m.mono subset_rfl ?_) ?_
    · rw [Set.insert_sdiff_singleton]
      exact Set.subset_insert b bs
    · rw [spareIn]
      cases hv : agentOf s b with
      | none => rfl
      | some v =>
        rw [hv, Option.map_some, Option.getD_some] at hno
        rw [Option.bind_some, spareOf, if_neg hno]

/-- The agent whose matching alone was to come is matched. -/
theorem Matched.matchLast {b : Nat} (m : Matched l hs (insert b ∅) s) : Matched l hs ∅ (Machine.matchAgent b s) :=
  (m.matchAgent b).mono subset_rfl (by simp)

theorem Matched.offerLast {b : Nat} (m : Matched l hs (insert b ∅) s) : Matched l hs ∅ (Machine.offerAgent b s) :=
  (m.offerAgent b).mono subset_rfl (by simp)

/-- The call whose matching alone was to come is matched. -/
theorem Matched.callLast {h : Nat} (m : Matched l (insert h ∅) bs s) : Matched l ∅ bs (Machine.matchCall h s) :=
  (m.matchCall h).mono (by simp) subset_rfl

/-! ### The reopening pass (R59) -/

theorem Matched.matchCalls (m : Matched l hs bs s) (gs : List Nat) :
    Matched l (hs \ {h | h ∈ gs}) bs (gs.foldl (fun t h => Machine.matchCall h t) s) := by
  induction gs generalizing hs s with
  | nil => exact m.mono (by simp) subset_rfl
  | cons g gs ih =>
    refine (ih (m.matchCall g)).mono (fun h hh => ?_) subset_rfl
    obtain ⟨⟨h1, h2⟩, h3⟩ := hh
    exact ⟨h1, fun h4 => (List.mem_cons.1 h4).elim h2 h3⟩

/-- A call that asks in a queue stands in the rank order of the queue. -/
theorem mem_rankOrder_of_ask (k : ListsIn (listedIn s) (seqIn s) (listIn s) s.arrivals) {h : Nat} {x : Ask}
    (hx : askIn s h = some x) : h ∈ (rankOrder s x.queue).map (·.1) := by
  obtain ⟨c, hc, hw, rfl⟩ := (askIn_eq_some s h x).1 hx
  have hlisted : h ∈ (queueOf s c.queue).waiting :=
    (k.mem c.queue h).2 ((listedIn_eq_some h c.queue).2 ⟨c, hc, inList_of_waiting hw, rfl⟩)
  refine List.mem_map.2 ⟨(h, c), (rankOrder_perm s c.queue).mem_iff.2 (List.mem_filter.2 ⟨?_, (isWaiting_eq_true c).2 hw⟩), rfl⟩
  exact List.mem_filterMap.2 ⟨h, hlisted, by rw [hc]; rfl⟩

/-- The reopening pass matches every call that asks in the queue. -/
theorem Matched.reopeningPass {q : Nat} (m : Matched l {h | ∃ x, askIn s h = some x ∧ x.queue = q} bs s)
    (k : l → ListsIn (listedIn s) (seqIn s) (listIn s) s.arrivals) : Matched l ∅ bs (reopeningPass q s) := by
  have passed := m.matchCalls ((rankOrder s q).map (·.1))
  refine ⟨passed.sound, passed.ready, fun hl => ?_⟩
  have none : {h | ∃ x, askIn s h = some x ∧ x.queue = q} \ {h | h ∈ (rankOrder s q).map (·.1)} = (∅ : Set Nat) := by
    refine Set.eq_empty_of_forall_notMem ?_
    rintro h ⟨⟨x, hx, rfl⟩, hno⟩
    exact hno (mem_rankOrder_of_ask (k hl) hx)
  have n := passed.noPair hl
  rwa [none] at n

end

end Sys2Proof.Machine
end

-- ==== Sys2Proof/Proofs/MatchedMoves ====
section
/-! Agents that move, offers that end, wraps that end, and calls that arrive, are answered, released, removed or diverted keep the ready
list and leave no pair. -/

namespace Sys2Proof.Machine

section
variable {l : Prop} {hs bs : Set Nat} {s t u : State}

/-! ### An agent moves -/

theorem lineIn_eq {b : Nat} {v : Agent} (hv : agentOf s b = some v) : lineIn s b = lineOf v := by rw [lineIn, hv]; rfl
theorem heldIn_eq {b : Nat} {v : Agent} (hv : agentOf s b = some v) : heldIn s b = heldSeqOf v := by rw [heldIn, hv]; rfl
theorem spareIn_eq {b : Nat} {v : Agent} (hv : agentOf s b = some v) : spareIn s b = spareOf v := by rw [spareIn, hv]; rfl

/-- An agent that is not READY has nothing to spare. -/
theorem spareOf_of_lineOf {v : Agent} (h : lineOf v = none) : spareOf v = none := by
  cases hs : v.status <;> simp [lineOf, spareOf, available, hs] at h ⊢

theorem lineOf_of_offered {v : Agent} {h n : Nat} (hs : v.status = .offered h n) : lineOf v = none := by rw [lineOf, hs]
theorem lineOf_of_talking {v : Agent} {h : Nat} {p : Option Nat} (hs : v.status = .talking h p) : lineOf v = none := by rw [lineOf, hs]
theorem lineOf_of_wrap {v : Agent} {w : WrapRecord} {p : Option Nat} (hs : v.status = .wrap w p) : lineOf v = none := by rw [lineOf, hs]
theorem lineOf_of_notReady {v : Agent} {r : Nat} (hs : v.status = .notReady r) : lineOf v = none := by rw [lineOf, hs]

/-- An agent record written over another: its matching is to come. -/
theorem Matched.setAgentRec (m : Matched l hs bs s) {b : Nat} {v : Agent} (hb : b < 512) (hv : WrapFine v)
    (ready : ReadyIn (setAgentRec s b v)) : Matched l hs (insert b bs) (setAgentRec s b v) :=
  m.moveAgent (m.sound.setAgentRec hb hv) ready (fun _ => rfl) (fun _ => rfl) fun x => agentOf_setAgentRec s b x v

theorem Matched.enterReady (m : Matched l hs bs s) {b : Nat} (hb : b < 512) (hold : lineIn s b = none) (v : Agent) (d : Option Time) :
    Matched l hs (insert b bs) (enterReady s b v d) :=
  m.moveAgent (m.sound.enterReady hb v d) (m.ready.enterReady hold v d) (fun _ => rfl) (fun _ => rfl)
    fun x => agentOf_enterReady s b x v d

/-- An agent that was not READY gets a record without a ready sequence. -/
theorem Matched.setAside (m : Matched l hs bs s) {b : Nat} {v : Agent} (hb : b < 512) (hf : WrapFine v) (hold : lineIn s b = none)
    (hline : lineOf v = none) (hheld : heldSeqOf v = none) : Matched l hs bs (Machine.setAgentRec s b v) := by
  have hagents (x : Nat) : agentOf (Machine.setAgentRec s b v) x = if x = b then some v else agentOf s x := agentOf_setAgentRec ..
  refine (m.setAgentRec hb hf (m.ready.outside hagents hold hline (.inl hheld) rfl rfl)).busy ?_
  rw [spareIn_eq (v := v) (by rw [hagents, if_pos rfl]), spareOf_of_lineOf hline]

/-- An agent that is not READY logs out. -/
theorem Matched.dropAgent (m : Matched l hs bs s) {b : Nat} (hold : lineIn s b = none) : Matched l hs bs (dropAgent s b) := by
  have hagents (x : Nat) : agentOf (Machine.dropAgent s b) x = if x = b then none else agentOf s x := agentOf_dropAgent ..
  refine Matched.busy (b := b) (m.moveAgent (m.sound.dropAgent b) (m.ready.outside hagents hold rfl (.inl rfl) rfl rfl) (fun _ => rfl)
    (fun _ => rfl) hagents) ?_
  rw [spareIn, hagents, if_pos rfl]; rfl

/-! ### Wraps that end -/

theorem Matched.endWrap (m : Matched l hs ∅ s) {b : Nat} (hb : b < 512) (hold : lineIn s b = none) (v : Agent) {w : WrapRecord}
    (hq : w.queue < 64) (o : WrapOutcome) (expired : Bool) : Matched l hs ∅ (endWrap b v w o expired s) := by
  have sampled : Matched l hs ∅ (Machine.takeSample s w.queue (wrapSample s w)) := m.takeSample hq (Nat.min_le_right _ _)
  have told {bs : Set Nat} {t : State} (mt : Matched l hs bs t) :
      Matched l hs bs (if expired then wrapExpiredNotice b w o t else t) := by
    split
    · exact mt.notify _ _
    · exact mt
  cases o with
  | ready => exact (told (sampled.enterReady hb hold v none)).matchLast
  | notReady r => exact told (sampled.setAside hb (wrapFine_of_none rfl) hold rfl rfl)
  | loggedOut => exact told (sampled.dropAgent hold)

/-! ### An offer ends without an answer -/

/-- The call that has lost its offer and the agent that has lost it are to be matched. -/
theorem Matched.offerEnded (m : Matched l hs bs s) {h b : Nat} {x : Call} {f : Counters → Counters} (hx : callOf s h = some x)
    (e : OfferEnded s u h b x f) (ready : ReadyIn u) (hu : Sound True False u) : Matched l (insert h hs) (insert b bs) u := by
  refine ⟨hu, ready, fun hl => (m.noPair hl).mono (fun g y hg hy => ?_) (fun a k ha hk => ?_) fun q r hr => ?_⟩
  · rw [Set.mem_insert_iff, not_or] at hg
    rw [askIn, callOf_other hx (fun k hs hk => callOf_eq_none_of_slot e.call hs hk) e.calls hg.1] at hy
    exact ⟨hg.2, hy⟩
  · rw [Set.mem_insert_iff, not_or] at ha
    rw [spareIn, bind_of_withoutDeadline _ spareOf_withoutDeadline (e.agents a ha.1)] at hk
    exact ⟨ha.2, hk⟩
  · by_cases hq : q = x.queue
    · rw [hq] at hr ⊢
      have same : gateOf (withoutTraffic (queueOf u x.queue)) = gateOf (withoutTraffic (queueOf s x.queue)) := by rw [e.traffic]
      exact same.symm.trans hr
    · rwa [gateIn, e.queues q hq] at hr

theorem ReadyIn.returnCall (r : ReadyIn s) (h b : Nat) (x : Call) : ReadyIn (returnCall h b x s) :=
  r.same (.of (fun a => agentOf_returnCall s h b a x) (returnCall_readyList ..) (returnCall_readies ..))

/-- The end of an offer, from what becomes of the agent. -/
theorem Matched.agentMoved (m : Matched l hs bs s) {h b n : Nat} {x : Call} {v : Agent} {f : Counters → Counters}
    (hx : callOf s h = some x) (hv : agentOf s b = some v) (hvs : v.status = .offered h n)
    (e : AgentMoved (Machine.returnCall h b x s) u b x.queue f) (ready : ReadyIn u) (hu : Sound True False u) :
    Matched l (insert h hs) (insert b bs) u := m.offerEnded hx (e.offerEnded hx hv (wrapOf_of_offered hvs)) ready hu

/-- The agent whose offer has ended, with a counter of its queue moved, becomes NOT_READY. -/
theorem ReadyIn.offerSetAside (r : ReadyIn s) {h b n r' : Nat} {x : Call} {v w : Agent} (hv : agentOf s b = some v)
    (hvs : v.status = .offered h n) (f : Counters → Counters) (hw : w.status = .notReady r') :
    ReadyIn (Machine.setAgentRec (Machine.count (Machine.returnCall h b x s) x.queue f) b w) := by
  have hv' : agentOf (Machine.count (Machine.returnCall h b x s) x.queue f) b = some v :=
    agentOf_returnCall_of_not_wrap hv (wrapOf_of_offered hvs) h b x
  refine ReadyIn.outside (s := Machine.count (Machine.returnCall h b x s) x.queue f)
    ((r.returnCall h b x).same (.of_agentOf (fun _ => rfl) rfl rfl)) (fun y => agentOf_setAgentRec _ b y w) ?_ (lineOf_of_notReady hw)
    (.inl ?_) rfl rfl
  · rw [lineIn_eq hv', lineOf_of_offered hvs]
  · rw [Option.bind_some, heldSeqOf, hw]

/-- The agent whose offer has ended, with a counter of its queue moved, enters READY. -/
theorem ReadyIn.offerEntersReady (r : ReadyIn s) {h b n : Nat} {x : Call} {v : Agent} (hv : agentOf s b = some v)
    (hvs : v.status = .offered h n) (f : Counters → Counters) (w : Agent) (d : Option Time) :
    ReadyIn (Machine.enterReady (Machine.count (Machine.returnCall h b x s) x.queue f) b w d) := by
  have hv' : agentOf (Machine.count (Machine.returnCall h b x s) x.queue f) b = some v :=
    agentOf_returnCall_of_not_wrap hv (wrapOf_of_offered hvs) h b x
  refine ReadyIn.enterReady (s := Machine.count (Machine.returnCall h b x s) x.queue f)
    ((r.returnCall h b x).same (.of_agentOf (fun _ => rfl) rfl rfl)) ?_ w d
  rw [lineIn_eq hv', lineOf_of_offered hvs]

theorem Matched.refuseCall (m : Matched l ∅ ∅ s) {h b n : Nat} {x : Call} {v : Agent} (hx : callOf s h = some x)
    (hv : agentOf s b = some v) (hvs : v.status = .offered h n) (reason : Option Nat) : Matched l ∅ ∅ (refuseCall h b reason x s) := by
  have hw := wrapOf_of_offered hvs
  have hq := m.sound.call hx
  have hb := (m.sound.agent hv).1
  have refused : Sound True False (refusedCall s h b x) := (m.sound.returnCall h b hq).count hq _
  have moved : AgentMoved (Machine.returnCall h b x s) (refusedCall s h b x) b x.queue _ :=
    (agentMoved_self (agentOf_returnCall_of_not_wrap hv hw h b x) hw _).count _
  rw [refuseCall_eq hv hw]
  refine Matched.offerLast (Matched.callLast ?_)
  cases reason with
  | some r =>
    exact m.agentMoved hx hv hvs (moved.setAgentRec rfl) (m.ready.offerSetAside hv hvs _ rfl)
      (refused.setAgentRec hb (wrapFine_of_none rfl))
  | none =>
    exact m.agentMoved hx hv hvs (moved.enterReady v _) (m.ready.offerEntersReady hv hvs _ v _) (refused.enterReady hb v _)

theorem Matched.expireOffer (m : Matched l ∅ ∅ s) {h b n : Nat} {x : Call} {v : Agent} (hx : callOf s h = some x)
    (hv : agentOf s b = some v) (hvs : v.status = .offered h n) : Matched l ∅ ∅ (expireOffer h b x s) := by
  have hw := wrapOf_of_offered hvs
  have hq := m.sound.call hx
  have hb := (m.sound.agent hv).1
  have missed : Sound True False (missedCall s h b x) := (m.sound.returnCall h b hq).count hq _
  have moved := agentMoved_missedCall (h := h) (c := x) hv hw
  rw [expireOffer_eq hv hw]
  refine Matched.offerLast (Matched.callLast (Matched.notify ?_ _ _))
  by_cases hp : parks s x v
  · rw [missOffer_of_parks hp]
    exact (m.agentMoved hx hv hvs (moved.setAgentRec rfl) (m.ready.offerSetAside hv hvs _ rfl)
      (missed.setAgentRec hb (wrapFine_of_none rfl))).notify _ _
  · rw [missOffer_of_not_parks hp]
    exact m.agentMoved hx hv hvs (moved.enterReady _ _) (m.ready.offerEntersReady hv hvs _ _ _) (missed.enterReady hb _ _)

/-- An agent that leaves its offer. -/
theorem Matched.withdrawAgent (m : Matched l ∅ ∅ s) {h b n : Nat} {x : Call} {v : Agent} (hx : callOf s h = some x)
    (hv : agentOf s b = some v) (hvs : v.status = .offered h n) (reason : Option Nat) :
    Matched l ∅ ∅ (withdrawAgent b h v reason s) := by
  have hw := wrapOf_of_offered hvs
  have hv' : agentOf (Machine.returnCall h b x s) b = some v := agentOf_returnCall_of_not_wrap hv hw h b x
  have hold : lineIn (Machine.returnCall h b x s) b = none := by rw [lineIn_eq hv', lineOf_of_offered hvs]
  have returned : Sound True False (Machine.returnCall h b x s) := m.sound.returnCall h b (m.sound.call hx)
  have moved : AgentMoved (Machine.returnCall h b x s) (Machine.returnCall h b x s) b x.queue id := agentMoved_self hv' hw _
  have ended : Matched l (insert h ∅) (insert b ∅) (Machine.returnCall h b x s) :=
    m.agentMoved hx hv hvs moved (m.ready.returnCall h b x) returned
  have free : Matched l (insert h ∅) ∅ (Machine.returnCall h b x s) :=
    ended.busy (by rw [spareIn_eq hv', spareOf_of_lineOf (lineOf_of_offered hvs)])
  rw [withdrawAgent_eq hx]
  refine Matched.callLast (Matched.notify ?_ _ _)
  cases reason with
  | none => exact free.dropAgent hold
  | some r => exact free.setAside (m.sound.agent hv).1 (wrapFine_of_none rfl) hold rfl rfl

/-! ### A call moves -/

/-- A call record written over another: the call's matching is to come. -/
theorem Matched.setCallRec (m : Matched l hs bs s) {h : Nat} {x y : Call} (hx : callOf s h = some x) (hq : y.queue < 64) :
    Matched l (insert h hs) bs (setCallRec s h y) :=
  m.moveCall (m.sound.setCallRec h hq) (fun g hg => by rw [callOf_setCallRec hx, if_neg hg]) (fun _ => rfl) (fun _ => rfl) rfl rfl

/-- A call record written that asks nothing. -/
theorem Matched.setContent (m : Matched l hs bs s) {h : Nat} {x y : Call} (hx : callOf s h = some x) (hq : y.queue < 64)
    (hy : askOf y = none) : Matched l hs bs (Machine.setCallRec s h y) :=
  (m.setCallRec hx hq).content (by rw [askIn, callOf_setCallRec hx, if_pos rfl]; exact hy)

theorem Matched.freeCall (m : Matched l hs bs s) (h : Nat) : Matched l hs bs (freeCall s h) := by
  refine ⟨m.sound.freeCall h, m.ready.same (.of_agentOf (fun _ => rfl) rfl rfl),
    fun hl => (m.noPair hl).mono (fun g x hg hx => ⟨hg, ?_⟩) (fun _ _ ha hk => ⟨ha, hk⟩) fun _ _ hr => hr⟩
  by_cases hslot : slotOf g = slotOf h
  · rw [askIn, callOf_freeCall_of_eq _ hslot] at hx
    cases hx
  · rwa [askIn, callOf_freeCall_of_ne _ hslot] at hx

theorem Matched.detach (m : Matched l hs bs s) (h : Nat) : Matched l hs bs (detach h s) :=
  m.of_audio (audioOnly_detach h s) (m.sound.detach h)

/-! ### ANSWER and RELEASE -/

theorem Matched.connectCall (m : Matched l hs bs s) {h b n : Nat} {x : Call} {v : Agent} (hx : callOf s h = some x)
    (hv : agentOf s b = some v) (hvs : v.status = .offered h n) : Matched l hs bs (connectCall h b x s) := by
  have hq := m.sound.call hx
  have connected : Matched l hs bs (Machine.setCallRec s h { x with status := .connected s.now }) := m.setContent hx hq rfl
  have hv' : agentOf (Machine.setCallRec s h { x with status := .connected s.now }) b = some v := hv
  have talks : Matched l hs bs (answerWritten s h b x v) := connected.setAside (v := talkTo h v) (m.sound.agent hv).1
    (wrapFine_of_none rfl) (by rw [lineIn_eq hv', lineOf_of_offered hvs]) rfl rfl
  have counted := talks.count hq (countAnswer (waitOf s x) (queueOf s x.queue).settings.serviceThreshold)
  simp only [Machine.connectCall, hv']
  exact (counted.of_audio (audioOnly_clearAwaiting h _) (counted.sound.clearAwaiting h)).detach h

theorem Matched.releaseCall (m : Matched l hs ∅ s) {h b : Nat} {x : Call} {v : Agent} {p : Option Nat} (talk : Time)
    (hx : callOf s h = some x) (hv : agentOf s b = some v) (hvs : v.status = .talking h p) :
    Matched l hs ∅ (releaseCall h b v x talk s) := by
  have hq := m.sound.call hx
  have hb := (m.sound.agent hv).1
  have freed := (m.count hq fun k => { k with completed := sat16 (k.completed + 1) }).freeCall h
  have wraps : Matched l hs ∅ (releaseWritten s h b v x (newWrap s x.queue talk)) := by
    refine freed.setAside hb (fun w hw => ?_) ((lineIn_eq (v := v) hv).trans (lineOf_of_talking hvs)) rfl rfl
    rw [← Option.some.inj hw]
    exact hq
  rw [releaseCall_eq]
  split
  · refine wraps.endWrap hb ?_ _ (show (newWrap s x.queue talk).queue < 64 from hq) _ _
    rw [lineIn, releaseWritten, agentOf_setAgentRec, if_pos rfl]
    rfl
  · exact wraps

/-! ### REMOVE -/

theorem Matched.removed (m : Matched l hs bs s) (h : Nat) {q : Nat} (hq : q < 64) (f : Counters → Counters) :
    Matched l hs bs (removed h q f s) := (((m.detach h).count hq f).freeCall h).evalSurge hq

theorem Matched.leaveList (m : Matched l hs bs s) (h : Nat) {q : Nat} (hq : q < 64) : Matched l hs bs (leaveList s h q) :=
  m.same (sameMatching_setQueueRec s rfl) (m.sound.leaveList h hq)

theorem Matched.removeWaiting (m : Matched l hs bs s) {h : Nat} {x : Call} (hx : callOf s h = some x) (hin : inList x = true)
    (cause : BitVec 8) : Matched l hs bs (removeCall h cause x s) := by
  have hq := m.sound.call hx
  rw [removeCall_of_inList hin]
  exact (m.leaveList h hq).removed h hq _

/-- The agent of an offer whose call is removed returns to its place and is matched. -/
theorem Matched.removeOffered (m : Matched l ∅ ∅ s) {h b n : Nat} {x : Call} {v : Agent} {d : Option Time} (hx : callOf s h = some x)
    (hst : x.status = .offered b d) (hv : agentOf s b = some v) (hvs : v.status = .offered h n) (cause : BitVec 8) :
    Matched l ∅ ∅ (removeCall h cause x s) := by
  have hq := m.sound.call hx
  have hline : lineIn s b = none := by rw [lineIn_eq hv, lineOf_of_offered hvs]
  have hheld : heldIn s b = some n := by rw [heldIn_eq hv, heldSeqOf, hvs]
  have waits : Matched l (insert h ∅) ∅ (Machine.setCallRec s h { x with status := .waiting }) := m.setCallRec hx hq
  have back : Matched l (insert h ∅) (insert b ∅) (Machine.returnToPlace (Machine.setCallRec s h { x with status := .waiting }) b v n) :=
    waits.moveAgent (waits.sound.returnToPlace (m.sound.agent hv).1 v n) (waits.ready.returnToPlace hline hheld v) (fun _ => rfl)
      (fun _ => rfl) fun y => agentOf_returnToPlace _ b n y v
  rw [removeCall_of_offered hst, withdrawRemoved_eq hv hvs]
  refine Matched.matchLast (Matched.content (h := h) ((back.notify _ _).removed h hq _) ?_)
  rw [askIn, callOf_removed_self]
  rfl

/-! ### ENQUEUE -/

theorem Matched.admitCall (m : Matched l hs bs s) {slot : Nat} (hslot : slot < 2048) {x : Call} (hq : x.queue < 64)
    (ho : ∀ q, x.originQueue = some q → q < 64) : Matched l (insert (handleOf s slot) hs) bs (admitCall slot x s) := by
  refine m.moveCall (m.sound.admitCall hslot hq ho) (fun g hg => by rw [callOf_admitCall hslot, if_neg hg])
    (fun a => ?_) (fun q => ?_) ?_ ?_
  · rw [admitCall_frame]; rfl
  · rw [gateIn, queueOf_admitCall]; rfl
  · rw [admitCall_frame]
  · rw [admitCall_frame]

/-! ### DIVERT and CANCEL DIVERT -/

theorem sameMatching_of_audioOrDraw (h : AudioOrDraw s t) : SameMatching s t :=
  (sameMatching_of_audio (h : AudioOnly s _)).trans (.of_side rfl)

end

end Sys2Proof.Machine
end

-- ==== Sys2Proof/Proofs/MatchedOrders ====
section
/-! The call orders and the agent orders keep the ready list and leave no pair. -/

namespace Sys2Proof.Machine

section
variable {l : Prop} {hs bs : Set Nat} {s t : State}

/-! ### Call orders -/

theorem Matched.handleEnqueue (m : Matched l ∅ ∅ s) (tag : BitVec 32) (queue options priority : BitVec 8) (skills : BitVec 32)
    (program : BitVec 8) : Matched l ∅ ∅ (handleEnqueue tag queue options priority skills program s).1 := by
  unfold Machine.handleEnqueue
  dsimp only
  split
  · exact m
  next hq =>
  split
  · exact m
  split
  · exact m
  split
  · exact m
  next slot hslot =>
  split
  · exact m
  next chosen overflowed hdec =>
  have hq' : queue.toNat < 64 := by omega
  have hchosen := m.sound.overflowDecision_lt hq' hdec
  have admitted := m.admitCall (lowestFreeSlot_spec hslot).1 (x := newCall s tag queue.toNat chosen overflowed
    (enqueuePriority s queue.toNat options priority) (if optionBit options 1 then some skills else none)
    (enqueueProgram s queue.toNat options program)) hchosen fun q hoq => by
      rw [newCall] at hoq
      cases overflowed with
      | true => cases hoq; exact hq'
      | false => cases hoq
  have judged := admitted.evalSurge hchosen
  exact (judged.of_audio (audioOnly_attach _ _) (judged.sound.attach _)).callLast

theorem Matched.handleRemove (m : Matched l ∅ ∅ s) (k : Kept True False l s) (handle : BitVec 16) (cause : BitVec 8) :
    Matched l ∅ ∅ (handleRemove handle cause s).1 := by
  unfold Machine.handleRemove
  refine withCall_fst m fun x hx => ?_
  split
  · exact m
  · split
    · exact m
    · next hst => exact m.removeWaiting hx (inList_of_waiting hst) cause
    · next hst => exact m.removeWaiting hx (by simp [inList, isDiverting, hst]) cause
    · next hst =>
      obtain ⟨v, n, hv, hvs⟩ := k.offeredAgent trivial hx hst
      exact m.removeOffered hx hst hv hvs cause

theorem Matched.handleAnswer (m : Matched l ∅ ∅ s) (k : Kept True False l s) (handle agent : BitVec 16) :
    Matched l ∅ ∅ (handleAnswer handle agent s).1 := by
  unfold Machine.handleAnswer
  refine withCall_fst m fun x hx => ?_
  split
  · exact m
  · refine withOffer_fst m fun d hst => ?_
    obtain ⟨v, n, hv, hvs⟩ := k.offeredAgent trivial hx hst
    exact m.connectCall hx hv hvs

theorem Matched.handleRefuseOffer (m : Matched l ∅ ∅ s) (k : Kept True False l s) (handle agent : BitVec 16) (present reason : BitVec 8) :
    Matched l ∅ ∅ (handleRefuseOffer handle agent present reason s).1 := by
  unfold Machine.handleRefuseOffer
  refine withCall_fst m fun x hx => ?_
  dsimp only
  split
  · exact m
  split
  · exact m
  split
  · exact m
  refine withOffer_fst m fun d hst => ?_
  obtain ⟨v, n, hv, hvs⟩ := k.offeredAgent trivial hx hst
  exact m.refuseCall hx hv hvs _

theorem Matched.handleRelease (m : Matched l ∅ ∅ s) (k : Kept True False l s) (handle : BitVec 16) :
    Matched l ∅ ∅ (handleRelease handle s).1 := by
  unfold Machine.handleRelease
  refine withCall_fst m fun x hx => ?_
  dsimp only
  split
  · exact m
  · exact m
  · exact m
  · next t hst =>
    split
    · next b v hb =>
      obtain ⟨b', hb', e⟩ := Option.bind_eq_some_iff.1 hb
      obtain ⟨v', hv', e'⟩ := Option.map_eq_some_iff.1 e
      cases e'
      obtain ⟨w, p, hw, hws⟩ := (bondIn_eq_talking b handle.toNat).1 (k.agentHolding trivial hx hst hb')
      obtain rfl : v = w := Option.some.inj (hv'.symm.trans hw)
      exact m.releaseCall _ hx hv' hws
    · exact m

theorem Matched.handleDivert (m : Matched l ∅ ∅ s) (handle : BitVec 16) : Matched l ∅ ∅ (handleDivert handle s).1 := by
  unfold Machine.handleDivert
  refine withCall_fst m fun x hx => ?_
  dsimp only
  split
  · exact m
  · exact m
  · exact m
  · have started : Matched l ∅ ∅ (divertStart s handle.toNat x) := m.setContent hx (m.sound.call hx :) rfl
    exact started.same (sameMatching_of_audioOrDraw (audioOrDraw_divertExit hx)) (started.sound.divertExit _ _)

theorem Matched.handleCancelDivert (m : Matched l ∅ ∅ s) (handle : BitVec 16) : Matched l ∅ ∅ (handleCancelDivert handle s).1 := by
  unfold Machine.handleCancelDivert
  refine withCall_fst m fun x hx => ?_
  dsimp only
  split
  · exact m
  · exact m
  · exact m
  · have waits : Matched l (insert handle.toNat ∅) ∅ (Machine.setCallRec s handle.toNat { x with status := .waiting }) :=
      m.setCallRec hx (m.sound.call hx :)
    exact (waits.of_audio (audioOnly_cancelVoice ..) (waits.sound.cancelVoice _ _)).callLast

/-! ### Agents that move -/

/-- A record written that leaves the agent where it stands, with the ready sequence it holds. -/
theorem ReadyIn.rewrite (r : ReadyIn s) {b : Nat} {v w : Agent} (hv : agentOf s b = some v) (hline : lineOf w = lineOf v)
    (hheld : heldSeqOf w = heldSeqOf v) : ReadyIn (setAgentRec s b w) := by
  have view {β : Type} (f : Agent → Option β) (hf : f w = f v) (x : Nat) :
      (agentOf (setAgentRec s b w) x).bind f = (agentOf s x).bind f := by
    rw [agentView_of_moved f fun x => agentOf_setAgentRec s b x w]
    split
    · next e => rw [e, hv, Option.bind_some, Option.bind_some, hf]
    · rfl
  exact r.same ⟨funext (view lineOf hline), funext (view heldSeqOf hheld), rfl, rfl⟩

/-- A READY agent leaves the ready list for a record, or for none, without a ready sequence. -/
theorem Matched.depart (m : Matched l hs bs s) {b : Nat} {o : Option Agent} (hsound : Sound True False t)
    (hagents : ∀ x, agentOf t x = if x = b then o else agentOf s x) (hcalls : ∀ g, callOf t g = callOf s g)
    (hqueues : ∀ q, queueOf t q = queueOf s q) (hline : o.bind lineOf = none) (hheld : o.bind heldSeqOf = none)
    (hlist : t.readyList = s.readyList.erase b) (hreadies : t.readies = s.readies) : Matched l hs bs t := by
  refine (m.moveAgent hsound (m.ready.leave hagents hline (.inl hheld) hlist hreadies) hcalls hqueues hagents).busy ?_
  rw [spareIn, hagents, if_pos rfl]
  cases o with
  | none => rfl
  | some v => exact spareOf_of_lineOf hline

/-- The cool-down of a READY agent ends, and it is matched (R44). -/
theorem Matched.coolDown (m : Matched l ∅ ∅ s) {b n : Nat} {v : Agent} {d : Option Time} (hv : agentOf s b = some v)
    (hst : v.status = .ready n d) : Matched l ∅ ∅ (Machine.matchAgent b (Machine.setAgentRec s b { v with status := .ready n none })) := by
  have ready : ReadyIn (Machine.setAgentRec s b { v with status := .ready n none }) :=
    m.ready.rewrite hv (by rw [lineOf, lineOf, hst]) (by rw [heldSeqOf, heldSeqOf, hst])
  exact (m.setAgentRec (m.sound.agent hv).1 (wrapFine_of_none rfl) ready).matchLast

/-! ### Agent orders -/

theorem Matched.handleLogin (m : Matched l ∅ ∅ s) (agent : BitVec 16) (skills : BitVec 32) (autoReady initialState reason : BitVec 8) :
    Matched l ∅ ∅ (handleLogin agent skills autoReady initialState reason s).1 := by
  unfold Machine.handleLogin
  dsimp only
  split
  · exact m
  next hb =>
  have hb' : agent.toNat < 512 := by omega
  split
  · exact m
  split
  · exact m
  split
  · exact m
  split
  · exact m
  next hno =>
  have hold : lineIn s agent.toNat = none := by rw [lineIn, hno]; rfl
  dsimp only
  split
  · exact m.setAside hb' (wrapFine_of_none rfl) hold rfl rfl
  · exact (m.enterReady hb' hold _ _).matchLast

theorem Matched.logoutAgent (m : Matched l ∅ ∅ s) (k : Kept True False l s) {b : Nat} {v : Agent} (hv : agentOf s b = some v)
    (ht : ∀ h p, v.status ≠ .talking h p) : Matched l ∅ ∅ (logoutAgent b v s) := by
  obtain ⟨hb, hf⟩ := m.sound.agent hv
  unfold Machine.logoutAgent
  split
  · next hst => exact m.dropAgent ((lineIn_eq hv).trans (lineOf_of_notReady hst))
  · exact m.depart ((m.sound.leaveReady b).dropAgent b) (fun x => agentOf_dropAgent (leaveReady s b) b x) (fun _ => rfl) (fun _ => rfl)
      rfl rfl rfl rfl
  · next hst =>
    obtain ⟨x, d, hx, -⟩ := k.offeredCall trivial hv hst
    exact m.withdrawAgent hx hv hst none
  · next hst => exact m.endWrap hb ((lineIn_eq hv).trans (lineOf_of_wrap hst)) v (hf.queue hst) _ _
  · next hst => exact absurd hst (ht _ _)

theorem Matched.handleLogout (m : Matched l ∅ ∅ s) (k : Kept True False l s) (agent : BitVec 16) :
    Matched l ∅ ∅ (handleLogout agent s).1 := by
  unfold Machine.handleLogout
  dsimp only
  split
  · exact m
  split
  · exact m
  next v hv =>
  split
  · exact m
  all_goals
    next hst => exact m.logoutAgent k hv fun h p e => by rw [hst] at e; cases e

theorem Matched.handleSetReady (m : Matched l ∅ ∅ s) (agent : BitVec 16) : Matched l ∅ ∅ (handleSetReady agent s).1 := by
  unfold Machine.handleSetReady
  dsimp only
  split
  · exact m
  split
  · exact m
  next v hv =>
  split
  · next hst => exact (m.enterReady (m.sound.agent hv).1 ((lineIn_eq hv).trans (lineOf_of_notReady hst)) v none).matchLast
  all_goals exact m

theorem Matched.notReadyAgent (m : Matched l ∅ ∅ s) (k : Kept True False l s) {b : Nat} {v : Agent} (hv : agentOf s b = some v)
    (reason : Nat) : Matched l ∅ ∅ (notReadyAgent b v reason s) := by
  obtain ⟨hb, hf⟩ := m.sound.agent hv
  have line := lineIn_eq hv
  unfold Machine.notReadyAgent
  split
  · next hst => exact m.setAside hb (wrapFine_of_none rfl) (line.trans (lineOf_of_notReady hst)) rfl rfl
  · exact m.depart ((m.sound.leaveReady b).setAgentRec hb (wrapFine_of_none rfl)) (fun x => agentOf_setAgentRec (leaveReady s b) b x _)
      (fun _ => rfl) (fun _ => rfl) rfl rfl rfl rfl
  · next hst =>
    obtain ⟨x, d, hx, -⟩ := k.offeredCall trivial hv hst
    exact m.withdrawAgent hx hv hst (some reason)
  · next hst => exact m.setAside hb (wrapFine_of_none rfl) (line.trans (lineOf_of_talking hst)) rfl rfl
  · next hst =>
    refine m.setAside hb (fun w' hw' => ?_) (line.trans (lineOf_of_wrap hst)) rfl rfl
    rw [← Option.some.inj hw']
    exact hf.queue hst

theorem Matched.handleSetNotReady (m : Matched l ∅ ∅ s) (k : Kept True False l s) (agent : BitVec 16) (reason : BitVec 8) :
    Matched l ∅ ∅ (handleSetNotReady agent reason s).1 := by
  unfold Machine.handleSetNotReady
  dsimp only
  split
  · exact m
  split
  · exact m
  split
  · exact m
  next v hv => exact m.notReadyAgent k hv _

theorem Matched.handleSetSkills (m : Matched l ∅ ∅ s) (agent : BitVec 16) (skills : BitVec 32) :
    Matched l ∅ ∅ (handleSetSkills agent skills s).1 := by
  unfold Machine.handleSetSkills
  dsimp only
  split
  · exact m
  split
  · exact m
  next v hv =>
  obtain ⟨hb, hf⟩ := m.sound.agent hv
  exact (m.setAgentRec (v := { v with skills := skills }) hb hf (m.ready.rewrite hv rfl rfl)).offerLast

/-- A wrap record written over another. -/
theorem Matched.setWrap (m : Matched l hs bs s) {b : Nat} {v : Agent} {w w' : WrapRecord} {p : Option Nat} (hv : agentOf s b = some v)
    (hst : v.status = .wrap w p) (hq : w'.queue = w.queue) : Matched l hs bs (Machine.setAgentRec s b { v with status := .wrap w' p }) := by
  obtain ⟨hb, hf⟩ := m.sound.agent hv
  refine m.setAside hb (fun x hx => ?_) ((lineIn_eq hv).trans (lineOf_of_wrap hst)) rfl rfl
  rw [← Option.some.inj hx, hq]
  exact hf.queue hst

theorem Matched.handleWrapDone (m : Matched l ∅ ∅ s) (agent : BitVec 16) (options : BitVec 8) (code : BitVec 16) (reason : BitVec 8) :
    Matched l ∅ ∅ (handleWrapDone agent options code reason s).1 := by
  unfold Machine.handleWrapDone
  dsimp only
  split
  · exact m
  split
  · exact m
  split
  · exact m
  split
  · exact m
  refine withWrap_fst m fun v w p hv hst => ?_
  obtain ⟨hb, hf⟩ := m.sound.agent hv
  split
  · exact m
  · exact m.endWrap hb ((lineIn_eq hv).trans (lineOf_of_wrap hst)) v ((withCode_queue w options code).symm ▸ hf.queue hst) _ _

theorem Matched.handleSetDisposition (m : Matched l hs bs s) (agent code : BitVec 16) :
    Matched l hs bs (handleSetDisposition agent code s).1 := by
  unfold Machine.handleSetDisposition
  dsimp only
  split
  · exact m
  split
  · exact m
  exact withWrap_fst m fun v w p hv hst => m.setWrap hv hst rfl

theorem Matched.handleExtendWrap (m : Matched l hs bs s) (agent : BitVec 16) : Matched l hs bs (handleExtendWrap agent s).1 := by
  unfold Machine.handleExtendWrap
  dsimp only
  split
  · exact m
  refine withWrap_fst m fun v w p hv hst => ?_
  split
  · exact m
  split
  · exact m
  split
  · exact m
  exact Matched.of_records (m.setWrap hv hst (w' := { w with
    deadline := if decide (Config.wrapCap < wrapDistance w (timeAfter w.deadline (queueOf s w.queue).settings.extensionLength)) then
      timeAfter w.start Config.wrapCap else timeAfter w.deadline (queueOf s w.queue).settings.extensionLength
    extensions := w.extensions + 1 }) rfl) rfl

end

end Sys2Proof.Machine
end

-- ==== Sys2Proof/Proofs/ReadyListKept ====
section
/-! Every step keeps the ready list and leaves no pair: the frame, the queues, the service, the clips and programs, the clearings, and
the invariant settled. -/

namespace Sys2Proof.Machine

section
variable {l : Prop} {hs bs : Set Nat} {s t : State}

/-! ### Queues -/

theorem offering_pausedState (st : QueueState) : offering (pausedState st) = false := by cases st <;> rfl

/-- A queue record written that lets no more through than the one before. -/
theorem Matched.setQueueRec (m : Matched l hs bs s) {q : Nat} {r : Queue} (hsound : Sound True False (setQueueRec s q r))
    (hgate : ∀ k, gateOf r = some k → gateIn s q = some k) : Matched l hs bs (Machine.setQueueRec s q r) := by
  refine ⟨hsound, m.ready.same (.of_agentOf (fun _ => rfl) rfl rfl),
    fun hl => (m.noPair hl).mono (fun _ _ hg hx => ⟨hg, hx⟩) (fun _ _ ha hk => ⟨ha, hk⟩) fun j k hk => ?_⟩
  rw [gateIn, queueOf_setQueueRec] at hk
  split at hk
  · next e => rw [e]; exact hgate k hk
  · exact hk

/-- A queue record written: the calls that ask in the queue are to be matched. -/
theorem Matched.openQueue (m : Matched l ∅ bs s) {q : Nat} {r : Queue} (hsound : Sound True False (Machine.setQueueRec s q r)) :
    Matched l {h | ∃ x, askIn (Machine.setQueueRec s q r) h = some x ∧ x.queue = q} bs (Machine.setQueueRec s q r) := by
  refine ⟨hsound, m.ready.same (.of_agentOf (fun _ => rfl) rfl rfl), fun hl h x a k hx hk hh ha hfit => ?_⟩
  have hne : x.queue ≠ q := fun e => hh ⟨x, hx, e⟩
  have hgate : gateIn (Machine.setQueueRec s q r) x.queue = gateIn s x.queue := by
    rw [gateIn, queueOf_setQueueRec, if_neg hne, gateIn]
  rw [Suits, hgate] at hfit
  exact m.noPair hl h x a k hx hk (Set.notMem_empty _) ha hfit

theorem Matched.handleSetQueue (m : Matched l ∅ ∅ s) (k : Kept True False l s) (f : QueueFields) :
    Matched l ∅ ∅ (handleSetQueue f s).1 := by
  have sound := (k.handleSetQueue f).sound
  cases h : setQueueRefusal s f with
  | some r => rw [handleSetQueue_of_refusal h]; exact m
  | none =>
    rw [handleSetQueue_of_accept h] at sound ⊢
    refine m.setQueueRec sound fun k hk => ?_
    rw [gateOf, setQueueRecord, offering_pausedState] at hk
    cases hk

theorem Matched.handleSetQueueState (m : Matched l ∅ ∅ s) (k : Kept True False l s) (queue state : BitVec 8) :
    Matched l ∅ ∅ (handleSetQueueState queue state s).1 := by
  unfold Machine.handleSetQueueState
  split
  · exact m
  split
  · exact m
  next hq _ =>
  have written := k.setQueueRec (q := queue.toNat) (r := { queueOf s queue.toNat with state := queueStateOf state.toNat }) (by omega)
    (k.sound.queue _) rfl
  dsimp only
  split
  · exact (m.openQueue written.sound).reopeningPass (written.lists trivial)
  · next hclosed =>
    refine m.setQueueRec written.sound fun j hj => ?_
    obtain ⟨hafter, hskills⟩ := Option.ite_none_right_eq_some.1 hj
    change offering (queueStateOf state.toNat) = true at hafter
    have hbefore : offering (queueOf s queue.toNat).state = true := by simpa [hafter] using hclosed
    exact (gateIn_eq_some s queue.toNat j).2 ⟨hbefore, (Option.some.inj hskills).symm⟩

theorem Matched.handleReadQueueStatistics (m : Matched l hs bs s) (queue clear : BitVec 8) :
    Matched l hs bs (handleReadQueueStatistics queue clear s).1 := by
  unfold Machine.handleReadQueueStatistics
  split
  · exact m
  split
  · exact m
  next hq _ =>
  dsimp only
  split
  · exact m.same (sameMatching_setQueueRec s rfl) (m.sound.setQueueRec (by omega) (m.sound.queue _))
  · exact m

/-! ### Service -/

theorem Matched.handleStartService (m : Matched l hs bs s) (silence : BitVec 8) : Matched l hs bs (handleStartService silence s).1 := by
  unfold Machine.handleStartService
  split
  · exact m
  · exact m.of_records rfl

theorem Matched.handleStopService (m : Matched l hs bs s) : Matched l hs bs (handleStopService s).1 := by
  unfold Machine.handleStopService
  split
  · exact m
  · split
    · exact m
    · exact m.of_records rfl

/-! ### The frame -/

theorem Matched.playFrame (m : Matched l hs bs s) (order : List Nat) : Matched l hs bs (playFrame order s) := by
  have driven : Matched l hs bs { s with highway := .driven ((List.range Config.voices).map (slotByte s)) } := m.of_records rfl
  exact driven.of_audio (audioOnly_playFrame order s) (driven.sound.playAll _)

/-! ### Clips and programs -/

theorem SameMatching.refl (s : State) : SameMatching s s := .of_side rfl

theorem sameMatching_handleOpenClipLoad (clip : BitVec 8) (startPage : BitVec 16) (length : BitVec 32) (s : State) :
    SameMatching s (handleOpenClipLoad clip startPage length s).1 := by
  unfold handleOpenClipLoad
  dsimp only
  split
  · exact .refl s
  split
  · exact .refl s
  split
  · exact .refl s
  split
  · exact .refl s
  split
  · exact .refl s
  · exact .of_side rfl

theorem sameMatching_handleClipData (clip : BitVec 8) (offset : BitVec 32) (data : List (BitVec 8)) (s : State) :
    SameMatching s (handleClipData clip offset data s).1 := by
  unfold handleClipData
  dsimp only
  split
  · exact .refl s
  refine withLoading_fst (P := SameMatching s) (.refl s) fun e cursor xor excess => ?_
  split
  · exact .refl s
  · exact .of_side rfl

theorem sameMatching_handleCloseClipLoad (clip expectedXor : BitVec 8) (s : State) :
    SameMatching s (handleCloseClipLoad clip expectedXor s).1 :=
  withLoading_fst (P := SameMatching s) (.refl s) fun _ _ _ _ => .of_side rfl

theorem sameMatching_handleAbortClipLoad (clip : BitVec 8) (s : State) : SameMatching s (handleAbortClipLoad clip s).1 :=
  withLoading_fst (P := SameMatching s) (.refl s) fun _ _ _ _ => .of_side rfl

theorem sameMatching_handleFreeClip (clip : BitVec 8) (s : State) : SameMatching s (handleFreeClip clip s).1 := by
  unfold handleFreeClip
  dsimp only
  split
  · exact .refl s
  split
  · exact .refl s
  · split
    · exact .refl s
    · exact .of_side rfl
  · exact .of_side rfl

theorem audioOnly_changeUses (js : List Nat) (f : Nat → Nat) (s : State) : AudioOnly s (js.foldl (fun t j => changeUse t j f) s) := by
  induction js generalizing s with
  | nil => exact .refl s
  | cons j js ih => exact (audioOnly_changeUse s j f).trans (ih _)

theorem sameMatching_moveReferences (s : State) (old new : List Nat) : SameMatching s (moveReferences s old new) :=
  sameMatching_of_audio ((audioOnly_changeUses _ (· - 1) s).trans (audioOnly_changeUses _ (· + 1) _))

theorem sameMatching_handleSetProgram (f : ProgramFields) (s : State) : SameMatching s (handleSetProgram f s).1 := by
  unfold handleSetProgram
  split
  · exact .refl s
  split
  · exact .refl s
  · exact (sameMatching_moveReferences s _ _).trans (.of_side rfl)

theorem sameMatching_handleDeleteProgram (program : BitVec 8) (s : State) : SameMatching s (handleDeleteProgram program s).1 := by
  unfold handleDeleteProgram
  dsimp only
  split
  · exact .refl s
  split
  · exact .refl s
  split
  · exact .refl s
  · exact (sameMatching_moveReferences s _ _).trans (.of_side rfl)

/-! ### The clearings -/

/-- With no call, no agent and an empty ready list, there is nothing to keep. -/
theorem Matched.of_empty (h : Sound True False t) (hcalls : t.calls = []) (hagents : t.agents = []) (hlist : t.readyList = []) :
    Matched l hs bs t := by
  refine ⟨h, .of_empty hagents hlist, fun _ g x a k hx _ => ?_⟩
  obtain ⟨c, hc, -⟩ := (askIn_eq_some t g x).1 hx
  rw [callOf, hcalls] at hc
  split at hc <;> cases hc

theorem clearAll_calls (k : Kept True False l s) : (clearAll s).calls = [] := by
  obtain ⟨x, e⟩ := clearedTables_frame s
  have hcalls : (clearQueues (freeAllCalls s)).calls = (freeAllCalls s).calls := by rw [e]
  rw [clearAll_eq, trafficDropped_calls, hcalls]
  exact (freeAllCalls_spec (k.sound.calls.rising trivial) fun e he => (k.sound.calls.each e he).1).1

theorem Kept.matchedClearAll (k : Kept True False l s) : Matched l hs bs (Machine.clearAll s) :=
  .of_empty k.clearAll.sound (clearAll_calls k) (by rw [clearAll_eq]; rfl) (by rw [clearAll_eq]; rfl)

/-! ### Every step -/

/-- What every step keeps: the records, the pairing and, where `l` asks for it, the waiting lists; the ready list; and, with the waiting
lists, that no pair is left. -/
def Settled (l : Prop) (s : State) : Prop := Kept True False l s ∧ Matched l ∅ ∅ s

theorem Matched.conclude {r : State × Answer} (m : Matched l ∅ ∅ r.1) (kind : Nat) : Matched l ∅ ∅ (conclude kind r) :=
  m.of_records (records_conclude kind r)

theorem Matched.concludeTo {r : State × Answer} (m : Matched l ∅ ∅ r.1) (dest : Dest) (kind : Nat) :
    Matched l ∅ ∅ (concludeTo dest kind r) := m.of_records (records_concludeTo dest kind r)

theorem Matched.handOverOrder (m : Matched l ∅ ∅ s) (k : Kept True False l s) (i : Instr) : Matched l ∅ ∅ (handOverOrder i s) := by
  have service {g : State → State × Answer} (kind : Nat) (mg : Matched l ∅ ∅ (g s).1) :
      Matched l ∅ ∅ (Machine.conclude kind (Machine.serviceOnly g s)) := by
    refine Matched.conclude ?_ kind
    unfold Machine.serviceOnly
    split
    · exact mg
    · exact m
  have same {r : State × Answer} (kind : Nat) (h : r.1 = s) : Matched l ∅ ∅ (Machine.conclude kind r) :=
    Matched.conclude (h ▸ m) kind
  have audio {r : State × Answer} (kind : Nat) (e : SameMatching s r.1) (kr : Kept True False l r.1) :
      Matched l ∅ ∅ (Machine.conclude kind r) := (m.same e kr.sound).conclude kind
  cases i with
  | startService d b => exact (m.handleStartService b).concludeTo _ _
  | stopService d => exact m.handleStopService.concludeTo _ _
  | clearService d => exact Matched.concludeTo (r := handleClearService s) k.matchedClearAll _ _
  | readEngine => exact m.of_records rfl
  | setQueue f => exact (m.handleSetQueue k f).conclude _
  | setQueueState d q st => exact (m.handleSetQueueState k q st).concludeTo _ _
  | readQueue q => exact same _ (handleReadQueue_fst q s)
  | readQueueStatistics q b => exact (m.handleReadQueueStatistics q b).conclude _
  | readWaiting q f n => exact same _ (handleReadWaiting_fst q f n s)
  | enqueue t q o p j g => exact service _ (m.handleEnqueue t q o p j g)
  | remove h b => exact service _ (m.handleRemove k h b)
  | answer h b => exact service _ (m.handleAnswer k h b)
  | refuseOffer h b p r => exact service _ (m.handleRefuseOffer k h b p r)
  | release h => exact service _ (m.handleRelease k h)
  | divert h => exact service _ (m.handleDivert h)
  | cancelDivert h => exact service _ (m.handleCancelDivert h)
  | readCall h => exact same _ (handleReadCall_fst h s)
  | login b j u i r => exact service _ (m.handleLogin b j u i r)
  | logout b => exact service _ (m.handleLogout k b)
  | setReady b => exact service _ (m.handleSetReady b)
  | setNotReady b r => exact service _ (m.handleSetNotReady k b r)
  | setSkills b j => exact service _ (m.handleSetSkills b j)
  | wrapDone b o j r => exact service _ (m.handleWrapDone b o j r)
  | setDisposition b j => exact service _ (m.handleSetDisposition b j)
  | extendWrap b => exact service _ (m.handleExtendWrap b)
  | readAgent b => exact same _ (handleReadAgent_fst b s)
  | readAgentStates b n => exact same _ (handleReadAgentStates_fst b n s)
  | openClipLoad j p n => exact audio _ (sameMatching_handleOpenClipLoad j p n s) (k.handleOpenClipLoad j p n)
  | clipData j o d => exact audio _ (sameMatching_handleClipData j o d s) (k.handleClipData j o d)
  | closeClipLoad j x => exact audio _ (sameMatching_handleCloseClipLoad j x s) (k.handleCloseClipLoad j x)
  | abortClipLoad j => exact audio _ (sameMatching_handleAbortClipLoad j s) (k.handleAbortClipLoad j)
  | freeClip j => exact audio _ (sameMatching_handleFreeClip j s) (k.handleFreeClip j)
  | readClip j o n => exact same _ (handleReadClip_fst j o n s)
  | readClipEntry j => exact same _ (handleReadClipEntry_fst j s)
  | setProgram f => exact audio _ (sameMatching_handleSetProgram f s) (k.handleSetProgram f)
  | deleteProgram p => exact audio _ (sameMatching_handleDeleteProgram p s) (k.handleDeleteProgram p)
  | readProgram p => exact same _ (handleReadProgram_fst p s)
  | readVoice v => exact same _ (handleReadVoice_fst v s)
  | unknownKind j b => exact same _ rfl
  | _ => exact m

theorem stepKept_settled (l : Prop) : StepKept (Settled l) where
  same _ _ p e := ⟨p.1.of_records e, p.2.of_records e⟩
  order i _ p := ⟨p.1.handOverOrder i, p.2.handOverOrder p.1 i⟩
  play order _ p := ⟨p.1.playFrame order, p.2.playFrame order⟩
  offer h b d x s hx hst p := by
    obtain ⟨v, n, hv, hvs⟩ := p.1.offeredAgent trivial hx hst
    exact ⟨(stepKept_kept ..).offer h b d x s hx hst p.1, p.2.expireOffer hx hv hvs⟩
  wrap b v w pr s hv hst p := by
    obtain ⟨hb, hf⟩ := p.2.sound.agent hv
    exact ⟨(stepKept_kept ..).wrap b v w pr s hv hst p.1,
      p.2.endWrap hb ((lineIn_eq hv).trans (lineOf_of_wrap hst)) v (hf.queue hst) _ true⟩
  cool b v n d s hv hst p := ⟨(stepKept_kept ..).cool b v n d s hv hst p.1, p.2.coolDown hv hst⟩
  surge _ _ hq p := ⟨p.1.evalSurge hq, p.2.evalSurge hq⟩
  reset := ⟨kept_reset .., .of_empty (kept_reset True False l).sound rfl rfl rfl⟩
  held _ p := ⟨p.1.heldInReset, .of_empty p.1.heldInReset.sound rfl rfl rfl⟩

/-- Settles O60: what is settled is kept, first without the waiting lists and then with them. -/
theorem readyListHoldsTheReadyAgents : Obligations.ReadyListHoldsTheReadyAgents := by
  have sound {s : State} (hcan : Canonical s) (hr : InRange s) : Sound True False s :=
    (sound_iff ..).2 ⟨fun _ => hcan, hr, False.elim⟩
  refine ⟨fun s t hcan hr hp hready e => ?_, fun s t hcan hr hp hl hready hno e => ?_⟩
  · have start : Settled False s := ⟨⟨sound hcan hr, fun _ => (paired_iff hcan hr).1 hp, fun _ => False.elim⟩,
      sound hcan hr, (readyListOk_iff s).1 hready, False.elim⟩
    exact (readyListOk_iff t).2 ((stepKept_settled _).step start e).2.ready
  · have start : Settled True s := ⟨⟨sound hcan hr, fun _ => (paired_iff hcan hr).1 hp, fun _ _ => (lists_iff hcan hr).1 hl⟩,
      sound hcan hr, (readyListOk_iff s).1 hready, fun _ => (noPair_iff hcan hr).1 hno⟩
    have k := ((stepKept_settled _).step start e).2
    exact (noPair_iff k.canonical k.inRange).2 (k.noPair trivial)

end

end Sys2Proof.Machine
end

-- ==== Sys2Proof/Proofs/AgentOrders ====
section
/-! The agent orders as functions: agents that become available (R33, R36, R39, R44) and agents that leave READY (R34, R35, R37, R38). -/

namespace Sys2Proof.Machine

section
variable {s : State} {agent : BitVec 16} {v : Agent}

/-! ### Agents that become available -/

/-- The offer-made mark needs both: that the order matched the agent, and that the agent is OFFERED (R33). -/
theorem agentReply_eq (t : State) (a : Nat) (matched : Bool) : agentReply t a matched = .accept false [f2 a,
    f1 (agentStateCode (agentOf t a)), f1 (if matched = true ∧ agentStateCode (agentOf t a) = 3 then 1 else 0)] := by
  rw [agentReply, agentOffered, bit]
  simp only [Bool.and_eq_true, beq_iff_eq]

theorem handleLogin_of_notReady (skills : BitVec 32) {auto reason : BitVec 8} (ha : agent.toNat < 512) (hno : agentOf s agent.toNat = none)
    (hauto : auto.toNat ≤ 1) (hr : reason.toNat ≤ 199) : handleLogin agent skills auto 1 reason s =
      (let t := setAgentRec s agent.toNat (loggedIn skills (auto.toNat == 1) (.notReady reason.toNat))
       (t, agentReply t agent.toNat false)) := by
  rw [handleLogin, if_neg (by omega), if_neg (by omega), if_neg (by decide), if_neg (by omega), hno]
  rfl

theorem handleLogin_of_ready (skills : BitVec 32) {auto : BitVec 8} (reason : BitVec 8) (ha : agent.toNat < 512)
    (hno : agentOf s agent.toNat = none) (hauto : auto.toNat ≤ 1) : handleLogin agent skills auto 0 reason s =
      (let t := matchAgent agent.toNat
        (enterReady s agent.toNat (loggedIn skills (auto.toNat == 1) (.notReady reason.toNat)) none)
       (t, agentReply t agent.toNat true)) := by
  rw [handleLogin, if_neg (by omega), if_neg (by omega), if_neg (by decide), if_neg (fun h => absurd h.1 (by decide)), hno]
  rfl

theorem handleSetReady_of_notReady {r : Nat} (ha : agent.toNat < 512) (hv : agentOf s agent.toNat = some v)
    (hst : v.status = .notReady r) : handleSetReady agent s =
      (let t := matchAgent agent.toNat (enterReady s agent.toNat v none)
       (t, agentReply t agent.toNat true)) := by
  rw [handleSetReady, if_neg (by omega), hv]
  simp only [hst]

theorem handleSetSkills_of_agent (skills : BitVec 32) (ha : agent.toNat < 512) (hv : agentOf s agent.toNat = some v) :
    handleSetSkills agent skills s =
      (let t := offerAgent agent.toNat (setAgentRec s agent.toNat { v with skills := skills })
       (t, agentReply t agent.toNat (available v))) := by
  rw [handleSetSkills, if_neg (by omega), hv]

/-- The matching of an agent whose record is known. -/
theorem offerAgent_of_agent {a : Nat} (hv : agentOf s a = some v) :
    offerAgent a s = if available v = true then matchAgent a s else s := by
  rw [offerAgent, hv]
  rfl

theorem execCoolDownEnd_of_due {n : Nat} {d : Time} (hrun : running s = true) (hsync : s.syncPresent = true)
    (hdue : s.due.coolDowns.contains agent.toNat = true) (hv : agentOf s agent.toNat = some v) (hst : v.status = .ready n (some d))
    (hd : reached s.now d = true) : exec (.coolDownEnd agent) s = .next (settle (matchAgent agent.toNat
      (setAgentRec { s with due := { s.due with coolDowns := s.due.coolDowns.erase agent.toNat } } agent.toNat
        { v with status := .ready n none }))) := by
  have hover : coolDownDue s.now v = true := by simp only [coolDownDue, coolDownOf, hst, Option.map_some, hd, Option.getD_some]
  show execCoolDownEnd agent s = _
  simp only [execCoolDownEnd, hv, hst, inSync, hrun, hsync, hdue, hover, Bool.and_self, if_true]

theorem agentOf_setAgentRec_self (s : State) (a : Nat) (v : Agent) : agentOf (setAgentRec s a v) a = some v := by simp

theorem agentOf_setAgentRec_other {a b : Nat} (h : b ≠ a) (s : State) (v : Agent) :
    agentOf (setAgentRec s a v) b = agentOf s b := by simp [h]

theorem agentOf_enterReady_self (s : State) (a : Nat) (v : Agent) (d : Option Time) :
    agentOf (enterReady s a v d) a = some { v with status := .ready s.readies d } := by simp

theorem agentOf_enterReady_other {a b : Nat} (h : b ≠ a) (s : State) (v : Agent) (d : Option Time) :
    agentOf (enterReady s a v d) b = agentOf s b := by simp [h]

/-- Settles O41. -/
theorem agentsBecomeAvailableAndAreMatched : Obligations.AgentsBecomeAvailableAndAreMatched := by
  refine ⟨fun a s v n d hrun hsync hdue hv hst hd => ?_, ?_⟩
  · exact ⟨_, execCoolDownEnd_of_due hrun hsync hdue hv hst hd, agentOf_setAgentRec_self .., fun b hb => agentOf_setAgentRec_other hb .., rfl⟩
  intro a m auto reason s ht hs ha told
  have hreply (matched : Bool) (t : State) : agentReply t a.toNat matched = told matched t := agentReply_eq ..
  have hflag : (auto.toNat == 1) = decide (auto = 1) := by
    rw [Bool.eq_iff_iff, beq_iff_eq, decide_eq_true_iff]
    exact BitVec.toNat_inj (y := 1#8)
  refine ⟨fun hno hauto => ⟨fun hr => ?loginNotReady, ?loginReady⟩, fun v hv => ⟨fun r hst => ?setReady, ?setSkills⟩⟩
  case loginNotReady =>
    refine ⟨_, exec_service ht hs rfl rfl (t := setAgentRec s a.toNat (loggedIn m (auto.toNat == 1) (.notReady reason.toNat))) ?_, ?_,
      fun b hb => agentOf_setAgentRec_other hb .., rfl⟩
    · rw [handleLogin_of_notReady m ha hno hauto hr]
      dsimp only
      rw [agentReply_eq, agentOf_setAgentRec_self]
      rfl
    · rw [agentOf_setAgentRec_self, hflag, loggedIn]
  case loginReady =>
    refine ⟨enterReady s a.toNat (loggedIn m (auto.toNat == 1) (.notReady reason.toNat)) none, exec_service ht hs rfl rfl ?_, ?_,
      fun b hb => agentOf_enterReady_other hb .., rfl, rfl, rfl⟩
    · exact (handleLogin_of_ready m reason ha hno hauto).trans (congrArg (Prod.mk _) (hreply ..))
    · rw [agentOf_enterReady_self, hflag, loggedIn]
  case setReady =>
    refine ⟨enterReady s a.toNat v none, exec_service ht hs rfl rfl ?_, agentOf_enterReady_self ..,
      fun b hb => agentOf_enterReady_other hb .., rfl, rfl, rfl⟩
    exact (handleSetReady_of_notReady ha hv hst).trans (congrArg (Prod.mk _) (hreply ..))
  case setSkills =>
    refine ⟨setAgentRec s a.toNat { v with skills := m }, _, exec_service ht hs rfl rfl ?_,
      offerAgent_of_agent (v := { v with skills := m }) (agentOf_setAgentRec_self ..), agentOf_setAgentRec_self ..,
      fun b hb => agentOf_setAgentRec_other hb .., rfl⟩
    exact (handleSetSkills_of_agent m ha hv).trans (congrArg (Prod.mk _) (hreply ..))

/-! ### Agents that leave READY -/

theorem handleLogout_of_high (h : 511 < agent.toNat) : handleLogout agent s = (s, .refuse .badField 1 0) := by
  rw [handleLogout, if_pos h]; rfl

theorem handleSetNotReady_of_high (reason : BitVec 8) (h : 511 < agent.toNat) :
    handleSetNotReady agent reason s = (s, .refuse .badField 1 0) := by
  rw [handleSetNotReady, if_pos h]; rfl

theorem handleSetNotReady_of_reason {reason : BitVec 8} (ha : agent.toNat ≤ 511) (h : 199 < reason.toNat) :
    handleSetNotReady agent reason s = (s, .refuse .badField 2 0) := by
  rw [handleSetNotReady, if_neg (by omega), if_pos h]; rfl

theorem wrongAgentState_of_none {a : Nat} (hno : agentOf s a = none) : wrongAgentState s a = (s, .refuse .wrongState 1 0) := by
  rw [wrongAgentState, hno]; rfl

theorem handleLogout_of_none (ha : agent.toNat ≤ 511) (hno : agentOf s agent.toNat = none) :
    handleLogout agent s = (s, .refuse .wrongState 1 0) := by
  rw [handleLogout, if_neg (by omega), hno]
  exact wrongAgentState_of_none hno

theorem handleSetNotReady_of_none {reason : BitVec 8} (ha : agent.toNat ≤ 511) (hr : reason.toNat ≤ 199)
    (hno : agentOf s agent.toNat = none) : handleSetNotReady agent reason s = (s, .refuse .wrongState 1 0) := by
  rw [handleSetNotReady, if_neg (by omega), if_neg (by omega), hno]
  exact wrongAgentState_of_none hno

theorem handleLogout_of_talking {h : Nat} {p : Option Nat} (ha : agent.toNat < 512) (hv : agentOf s agent.toNat = some v)
    (hst : v.status = .talking h p) : handleLogout agent s = (s, .refuse .wrongState 1 4) := by
  rw [handleLogout, if_neg (by omega), hv]
  simp only [hst, wrongAgentState, wrongState, hv, agentStateCode]

theorem handleLogout_of_agent (ha : agent.toNat < 512) (hv : agentOf s agent.toNat = some v) (ht : ∀ h p, v.status ≠ .talking h p) :
    handleLogout agent s = (logoutAgent agent.toNat v s, .accept false [f2 agent.toNat, f1 (agentStateCode (some v))]) := by
  rw [handleLogout, if_neg (by omega), hv]
  cases hst : v.status with
  | talking h p => exact absurd hst (ht h p)
  | notReady r => simp only [hst]
  | ready n d => simp only [hst]
  | offered h n => simp only [hst]
  | wrap w p => simp only [hst]

/-- What SET NOT READY answers, from the record it leaves of the agent. -/
theorem handleSetNotReady_of_agent {reason : BitVec 8} {w : Agent} (ha : agent.toNat < 512) (hr : reason.toNat ≤ 199)
    (hv : agentOf s agent.toNat = some v) (hw : agentOf (notReadyAgent agent.toNat v reason.toNat s) agent.toNat = some w) :
    handleSetNotReady agent reason s = (notReadyAgent agent.toNat v reason.toNat s, .accept false [f2 agent.toNat,
      f1 (agentStateCode (some v)), f1 (agentStateCode (some w)), f1 ((pendingReasonOf w).getD 255)]) := by
  rw [handleSetNotReady, if_neg (by omega), if_neg (by omega), hv]
  simp only [hw, Option.bind_some]

theorem agentOf_dropAgent_self (s : State) (a : Nat) : agentOf (dropAgent s a) a = none := by simp

theorem agentOf_dropAgent_other {a b : Nat} (h : b ≠ a) (s : State) : agentOf (dropAgent s a) b = agentOf s b := by simp [h]

/-- An agent that is READY or NOT_READY when it leaves: out of the ready list, where a NOT_READY agent is not. -/
def leftReady (s : State) (a : Nat) (v : Agent) : State := if agentStateCode (some v) = 2 then leaveReady s a else s

theorem leftReady_readyList (s : State) (a : Nat) (v : Agent) :
    (leftReady s a v).readyList = if agentStateCode (some v) = 2 then s.readyList.erase a else s.readyList := by
  unfold leftReady; split <;> rfl

theorem agentOf_leftReady (s : State) (a b : Nat) (v : Agent) : agentOf (leftReady s a v) b = agentOf s b := by
  unfold leftReady; split <;> rfl

theorem leftReady_frame (s : State) (a : Nat) (v : Agent) :
    { leftReady s a v with agents := s.agents, readyList := s.readyList } = s := by
  unfold leftReady; split <;> rfl

/-- The state of an agent that holds no call: READY or NOT_READY. -/
theorem logoutAgent_of_idle {a n r : Nat} {d : Option Time} (h : v.status = .ready n d ∨ v.status = .notReady r) :
    logoutAgent a v s = dropAgent (leftReady s a v) a := by
  rcases h with hst | hst <;> simp [logoutAgent, leftReady, agentStateCode, hst]

theorem notReadyAgent_of_idle {a n r : Nat} {d : Option Time} (h : v.status = .ready n d ∨ v.status = .notReady r) (reason : Nat) :
    notReadyAgent a v reason s = setAgentRec (leftReady s a v) a { v with status := .notReady reason } := by
  rcases h with hst | hst <;> simp [notReadyAgent, leftReady, agentStateCode, hst]

theorem notReadyAgent_of_talking {a h : Nat} {p : Option Nat} (hst : v.status = .talking h p) (reason : Nat) :
    notReadyAgent a v reason s = setAgentRec s a { v with status := .talking h (some reason) } := by rw [notReadyAgent, hst]

theorem notReadyAgent_of_wrap {a : Nat} {w : WrapRecord} {p : Option Nat} (hst : v.status = .wrap w p) (reason : Nat) :
    notReadyAgent a v reason s = setAgentRec s a { v with status := .wrap w (some reason) } := by rw [notReadyAgent, hst]

theorem logoutAgent_of_wrap {a : Nat} {w : WrapRecord} {p : Option Nat} (hst : v.status = .wrap w p) :
    logoutAgent a v s = dropAgent (takeSample s w.queue (wrapSample s w)) a := by rw [logoutAgent, hst]; rfl

/-- Settles O42. -/
theorem agentsLeaveReady : Obligations.AgentsLeaveReady := by
  refine ⟨fun a reason s ht hs => ⟨fun h => ?_, fun ha hr => ?_, fun ha hno => ?_⟩, fun a reason v s ht hs ha hr hv => ?_⟩
  · exact ⟨exec_service ht hs rfl rfl (handleLogout_of_high h), exec_service ht hs rfl rfl (handleSetNotReady_of_high reason h)⟩
  · exact exec_service ht hs rfl rfl (handleSetNotReady_of_reason ha hr)
  · exact ⟨exec_service ht hs rfl rfl (handleLogout_of_none ha hno),
      fun hr => exec_service ht hs rfl rfl (handleSetNotReady_of_none ha hr hno)⟩
  have logout (hnt : ∀ h p, v.status ≠ .talking h p) {u : State} (hu : logoutAgent a.toNat v s = u) :
      exec (.logout a) s = .next (answered 0x31 u (.accept false [f2 a.toNat, f1 (agentStateCode (some v))])) :=
    hu ▸ exec_service ht hs rfl rfl (handleLogout_of_agent ha hv hnt)
  have setNotReady {t : State} {w : Agent} (hu : notReadyAgent a.toNat v reason.toNat s = setAgentRec t a.toNat w) :
      exec (.setNotReady a reason) s = .next (answered 0x33 (setAgentRec t a.toNat w) (.accept false [f2 a.toNat,
        f1 (agentStateCode (some v)), f1 (agentStateCode (some w)), f1 ((pendingReasonOf w).getD 255)])) :=
    hu ▸ exec_service ht hs rfl rfl (handleSetNotReady_of_agent ha hr hv (by rw [hu, agentOf_setAgentRec_self]))
  have others {b : Nat} (hb : b ≠ a.toNat) (w : Agent) : agentOf (setAgentRec s a.toNat w) b = agentOf s b :=
    agentOf_setAgentRec_other hb ..
  refine ⟨fun n d r hidle => ⟨?logoutIdle, ?idle⟩, fun h p hst => ⟨?logoutTalking, ?talking⟩, fun w p hst => ⟨?wrap, ?logoutWrap⟩⟩
  case logoutIdle =>
    have hnt (h : Nat) (p : Option Nat) : v.status ≠ .talking h p := by rcases hidle with e | e <;> simp [e]
    refine ⟨_, logout hnt (logoutAgent_of_idle hidle), agentOf_dropAgent_self .., fun b hb => ?_, leftReady_readyList ..,
      leftReady_frame ..⟩
    rw [agentOf_dropAgent_other hb, agentOf_leftReady]
  case idle =>
    refine ⟨_, setNotReady (notReadyAgent_of_idle hidle _), agentOf_setAgentRec_self .., fun b hb => ?_, leftReady_readyList ..,
      leftReady_frame ..⟩
    rw [agentOf_setAgentRec_other hb, agentOf_leftReady]
  case logoutTalking => exact exec_service ht hs rfl rfl (handleLogout_of_talking ha hv hst)
  case talking =>
    refine ⟨_, ?_, agentOf_setAgentRec_self .., fun b hb => others hb _, rfl⟩
    rw [setNotReady (notReadyAgent_of_talking hst _), agentStateCode, hst]
    rfl
  case wrap =>
    refine ⟨_, ?_, agentOf_setAgentRec_self .., fun b hb => others hb _, rfl⟩
    rw [setNotReady (notReadyAgent_of_wrap hst _), agentStateCode, hst]
    rfl
  case logoutWrap =>
    have hnt (h : Nat) (p : Option Nat) : v.status ≠ .talking h p := by simp [hst]
    refine ⟨dropAgent (takeSample s w.queue (wrapSample s w)) a.toNat, ?_, agentOf_dropAgent_self .., ?_, fun q hq => ?_,
      fun b hb => agentOf_dropAgent_other hb .., rfl⟩
    · rw [logout hnt (logoutAgent_of_wrap hst), agentStateCode, hst]
    · rw [queueOf_dropAgent, queueOf_takeSample, if_pos rfl]
      rfl
    · rw [queueOf_dropAgent, queueOf_takeSample, if_neg hq]

end

end Sys2Proof.Machine
end

-- ==== Sys2Proof/Proofs/Exclusions ====
section
/-! The exclusion lists (R73): what holds of one call's list, what an offer and the end of an offer make of it, and the moves of calls
between agents that keep it. -/

namespace Sys2Proof.Machine

/-! ### The list of one call -/

/-- The exclusion list of a call is in order: four agents at most, none twice, and none that the call is offered to. -/
structure ExclusionFine (c : Call) : Prop where
  length : c.exclusion.length ≤ 4
  nodup : c.exclusion.Nodup
  offer : ∀ a, holdOf c = some (.offered a) → a ∉ c.exclusion

theorem holdOf_eq_offered (c : Call) (a : Nat) : holdOf c = some (.offered a) ↔ ∃ d, c.status = .offered a d := by
  cases h : c.status <;> simp [holdOf, h]

theorem exclusionFine_iff (c : Call) : ExclusionFine c ↔
    c.exclusion.length ≤ 4 ∧ c.exclusion.Nodup ∧ ∀ a d, c.status = .offered a d → a ∉ c.exclusion := by
  constructor
  · rintro ⟨hlength, hnodup, hoffer⟩
    exact ⟨hlength, hnodup, fun a d h => hoffer a (holdOf_of_offered h)⟩
  · rintro ⟨hlength, hnodup, hoffer⟩
    refine ⟨hlength, hnodup, fun a h => ?_⟩
    obtain ⟨d, hd⟩ := (holdOf_eq_offered c a).1 h
    exact hoffer a d hd

section
variable {x y : Call}

/-- What the Playout Unit writes of a call leaves its list in order. -/
theorem ExclusionFine.of_withoutAudio (f : ExclusionFine x) (e : withoutAudio y = withoutAudio x) : ExclusionFine y := by
  have hlist : y.exclusion = x.exclusion := (congrArg Call.exclusion e :)
  have hhold : holdOf y = holdOf x := by rw [← holdOf_withoutAudio y, e, holdOf_withoutAudio]
  exact ⟨hlist ▸ f.length, hlist ▸ f.nodup, fun a h => hlist ▸ f.offer a (hhold ▸ h)⟩

/-- A call that is offered to no agent keeps its list in order whatever else becomes of it. -/
theorem ExclusionFine.unoffered (f : ExclusionFine x) (hlist : y.exclusion = x.exclusion) (hno : ∀ a d, y.status ≠ .offered a d) :
    ExclusionFine y := by
  refine ⟨hlist ▸ f.length, hlist ▸ f.nodup, fun a h => ?_⟩
  obtain ⟨d, hd⟩ := (holdOf_eq_offered y a).1 h
  exact absurd hd (hno a d)

/-- An offer to an agent that is not excluded. -/
theorem ExclusionFine.offered (f : ExclusionFine x) (s : State) {b : Nat} (hb : b ∉ x.exclusion) :
    ExclusionFine (offeredCall s b x) := by
  refine ⟨f.length, f.nodup, fun a h => ?_⟩
  obtain rfl : b = a := by simpa [holdOf, offeredCall] using h
  exact hb

/-- The agent that joins the list when its offer ends was not on it, and leaves it at four at most (R73). -/
theorem ExclusionFine.returned (f : ExclusionFine x) {b : Nat} {d : Option Time} (hst : x.status = .offered b d) :
    ExclusionFine (returned b x) := by
  have hb : b ∉ x.exclusion := f.offer b (holdOf_of_offered hst)
  have hdrop : (x.exclusion.drop (x.exclusion.length - 3)).Sublist x.exclusion := List.drop_sublist ..
  refine ⟨?_, ?_, fun a h => ?_⟩
  · show (x.exclusion.drop (x.exclusion.length - 3) ++ [b]).length ≤ 4
    rw [List.length_append, List.length_drop, List.length_singleton]
    omega
  · exact List.nodup_append.2 ⟨f.nodup.sublist hdrop, List.nodup_singleton b, fun g hg k hk e =>
      hb (List.mem_singleton.1 hk ▸ e ▸ hdrop.subset hg)⟩
  · simp [holdOf, Machine.returned] at h

end

/-! ### The lists of all calls -/

/-- The records in order and the exclusion list of every call in order. -/
structure Excluding (s : State) : Prop where
  sound : Sound True False s
  calls : ∀ h c, callOf s h = some c → ExclusionFine c

theorem exclusionsOk_iff {s : State} (hcan : Canonical s) (hr : InRange s) :
    ExclusionsOk s ↔ ∀ h c, callOf s h = some c → ExclusionFine c := by
  constructor
  · intro x h c hc
    exact (exclusionFine_iff c).2 (x _ (mem_calls_of_callOf hcan hr hc))
  · rintro x ⟨k, c⟩ he
    exact (exclusionFine_iff c).1 (x _ c ((mem_calls_iff hcan hr k c).1 he).2)

/-- What says which calls the handles name. -/
def callSide (s : State) : Table Call × Table Nat := (s.calls, s.generations)

theorem callOf_of_side {s t : State} (e : callSide t = callSide s) (h : Nat) : callOf t h = callOf s h :=
  callOf_congr (congrArg Prod.fst e) (congrArg Prod.snd e) h

section
variable {s t : State}

theorem Excluding.canonical (m : Excluding s) : Canonical s := ((sound_iff True False s).1 m.sound).1 trivial

theorem Excluding.inRange (m : Excluding s) : InRange s := ((sound_iff True False s).1 m.sound).2.1

/-- A call that has moved at most in what the Playout Unit writes has its list in order. -/
theorem Excluding.alike (m : Excluding s) {g : Nat} {y : Call} (e : (callOf t g).map withoutAudio = (callOf s g).map withoutAudio)
    (hy : callOf t g = some y) : ExclusionFine y := by
  rw [hy, Option.map_some, eq_comm, Option.map_eq_some_iff] at e
  obtain ⟨x, hx, e⟩ := e
  exact (m.calls g x hx).of_withoutAudio e.symm

/-- A step that moves no call but for what the Playout Unit writes. -/
theorem Excluding.same (m : Excluding s) (sound : Sound True False t)
    (calls : ∀ g, (callOf t g).map withoutAudio = (callOf s g).map withoutAudio) : Excluding t :=
  ⟨sound, fun g _ hy => m.alike (calls g) hy⟩

/-- A step that moves one call, whose list is then in order. -/
theorem Excluding.moveCall (m : Excluding s) {h : Nat} (sound : Sound True False t) (others : ∀ g, g ≠ h → callOf t g = callOf s g)
    (self : ∀ y, callOf t h = some y → ExclusionFine y) : Excluding t := by
  refine ⟨sound, fun g y hy => ?_⟩
  by_cases hg : g = h
  · exact self y (hg ▸ hy)
  · exact m.calls g y (others g hg ▸ hy)

theorem Excluding.of_side (m : Excluding s) (sound : Sound True False t) (e : callSide t = callSide s) : Excluding t :=
  m.same sound fun g => by rw [callOf_of_side e]

theorem Excluding.of_records (m : Excluding s) (e : records t = records s) : Excluding t :=
  m.of_side (m.sound.of_records e) (congrArg callSide e :)

theorem Excluding.of_audio (m : Excluding s) (sound : Sound True False t) (e : AudioOnly s t) : Excluding t := m.same sound e.callOf

theorem Excluding.notify (m : Excluding s) (kind body) : Excluding (notify kind body s) := m.of_records (records_notify ..)

theorem Excluding.evalSurge (m : Excluding s) {q : Nat} (hq : q < 64) : Excluding (evalSurge q s) :=
  m.same (m.sound.evalSurge hq) fun g => by rw [callOf_evalSurge]

theorem Excluding.count (m : Excluding s) {q : Nat} (hq : q < 64) (f : Counters → Counters) : Excluding (count s q f) :=
  m.of_side (m.sound.count hq f) rfl

theorem Excluding.detach (m : Excluding s) (h : Nat) : Excluding (detach h s) := m.of_audio (m.sound.detach h) (audioOnly_detach h s)

theorem Excluding.setCallRec (m : Excluding s) {h : Nat} {x y : Call} (hx : callOf s h = some x) (hq : y.queue < 64)
    (hy : ExclusionFine y) : Excluding (setCallRec s h y) := by
  have hcalls := callOf_setCallRec hx y
  refine m.moveCall (h := h) (m.sound.setCallRec h hq) (fun g hg => by rw [hcalls, if_neg hg]) fun z hz => ?_
  rw [hcalls, if_pos rfl] at hz
  exact Option.some.inj hz ▸ hy

/-- A call record written that is offered to no agent, with the list kept. -/
theorem Excluding.setUnoffered (m : Excluding s) {h : Nat} {x y : Call} (hx : callOf s h = some x) (hq : y.queue < 64)
    (hlist : y.exclusion = x.exclusion) (hno : ∀ a d, y.status ≠ .offered a d) : Excluding (Machine.setCallRec s h y) :=
  m.setCallRec hx hq ((m.calls h x hx).unoffered hlist hno)

theorem Excluding.freeCall (m : Excluding s) (h : Nat) : Excluding (freeCall s h) := by
  refine ⟨m.sound.freeCall h, fun g y hy => ?_⟩
  by_cases hslot : slotOf g = slotOf h
  · rw [callOf_freeCall_of_eq _ hslot] at hy
    cases hy
  · rw [callOf_freeCall_of_ne _ hslot] at hy
    exact m.calls g y hy

/-! ### Offers and matching -/

/-- The calls after an offer. -/
theorem callOf_makeOffer {h b : Nat} {x : Call} {v : Agent} (hx : callOf s h = some x) (hv : agentOf s b = some v)
    (rotate : Bool) (g : Nat) :
    callOf (makeOffer h b rotate s) g = if g = h then some (offeredCall s b x) else callOf s g := by
  rw [makeOffer_eq_written hx hv, offerNotice, callOf_notify, callOf_evalSurge, (offerWritten_spec hx b v rotate).1]

/-- An offer to an agent that the call does not exclude. -/
theorem Excluding.makeOffer (m : Excluding s) {h b : Nat} {x : Call} {v : Agent} (hx : callOf s h = some x)
    (hv : agentOf s b = some v) (hb : b ∉ x.exclusion) (rotate : Bool) : Excluding (makeOffer h b rotate s) := by
  have hcalls := callOf_makeOffer hx hv rotate
  refine m.moveCall (h := h) (m.sound.makeOffer h b rotate) (fun g hg => by rw [hcalls, if_neg hg]) fun y hy => ?_
  rw [hcalls, if_pos rfl] at hy
  exact Option.some.inj hy ▸ (m.calls h x hx).offered s hb

/-- Call-side matching chooses a candidate, which the call does not exclude (R54). -/
theorem Excluding.matchCall (m : Excluding s) (h : Nat) : Excluding (matchCall h s) := by
  rcases matchCall_cases h s with e | ⟨x, b, hx, -, -, hb, e⟩ <;> rw [e]
  · exact m
  · obtain ⟨-, v, hv, hpair⟩ := (mem_candidates s x b).1 (chooseAgent_eq_some hb).1
    exact m.makeOffer hx hv ((pairable_eq_true s b v x).1 hpair).2.2 _

/-- Arbitration chooses a call that the agent could take, which does not exclude it (R58). -/
theorem Excluding.matchAgent (m : Excluding s) (b : Nat) : Excluding (matchAgent b s) := by
  rcases matchAgent_cases b s with e | ⟨v, slot, x, hv, hbest, e⟩ <;> rw [e]
  · exact m
  · obtain ⟨hmem, htake⟩ := bestCall_mem hbest
    obtain ⟨-, -, -, -, hb⟩ := (takeable_eq_true s b v x).1 htake
    exact m.makeOffer ((mem_calls_iff m.canonical m.inRange slot x).1 hmem).2 hv hb false

theorem Excluding.offerAgent (m : Excluding s) (b : Nat) : Excluding (offerAgent b s) := by
  unfold Machine.offerAgent
  split
  · exact m.matchAgent b
  · exact m

theorem Excluding.reopeningPass (m : Excluding s) (q : Nat) : Excluding (reopeningPass q s) := by
  unfold Machine.reopeningPass
  generalize (rankOrder s q).map (·.1) = hs
  induction hs generalizing s with
  | nil => exact m
  | cons h hs ih => exact ih (m.matchCall h)

/-! ### An offer ends without an answer -/

theorem Excluding.returnCall (m : Excluding s) {h b : Nat} {x : Call} {d : Option Time} (hx : callOf s h = some x)
    (hst : x.status = .offered b d) : Excluding (returnCall h b x s) := by
  have hcalls := callOf_returnCall hx b
  refine m.moveCall (h := h) (m.sound.returnCall h b (m.sound.call hx)) (fun g hg => by rw [hcalls, if_neg hg]) fun y hy => ?_
  rw [hcalls, if_pos rfl] at hy
  exact Option.some.inj hy ▸ (m.calls h x hx).returned hst

theorem callSide_refusingAgent (b q : Nat) (reason : Option Nat) (s : State) :
    callSide (refusingAgent b q reason s) = callSide s := by
  unfold refusingAgent
  split
  · rfl
  · cases reason <;> rfl

theorem Excluding.refuseCall (m : Excluding s) {h b : Nat} {x : Call} {d : Option Time} (hx : callOf s h = some x)
    (hst : x.status = .offered b d) (reason : Option Nat) : Excluding (refuseCall h b reason x s) := by
  have refused : Excluding (refusedCall s h b x) := (m.returnCall hx hst).count (m.sound.call hx) _
  have moved : Excluding (refusingAgent b x.queue reason (refusedCall s h b x)) :=
    refused.of_side (refused.sound.refusingAgent b x.queue reason) (callSide_refusingAgent ..)
  exact (moved.matchCall h).offerAgent b

theorem Excluding.missOffer (m : Excluding s) {b : Nat} (hb : b < 512) (h : Nat) (x : Call) (v : Agent) :
    Excluding (missOffer h b x v s) := by
  unfold Machine.missOffer
  dsimp only
  split
  · exact (m.of_side (m.sound.setAgentRec hb (wrapFine_of_none rfl)) rfl).notify _ _
  · exact m.of_side (m.sound.enterReady hb _ _) rfl

theorem Excluding.expireOffer (m : Excluding s) {h b : Nat} {x : Call} {d : Option Time} (hx : callOf s h = some x)
    (hst : x.status = .offered b d) : Excluding (expireOffer h b x s) := by
  have missed : Excluding (missedCall s h b x) := (m.returnCall hx hst).count (m.sound.call hx) _
  refine Excluding.offerAgent (Excluding.matchCall (Excluding.notify ?_ _ _) h) b
  split
  · next v hv => exact missed.missOffer (missed.sound.agent hv).1 h x v
  · exact missed

/-- The call an agent leaves is the one it was offered (R52), and excludes it from then on. -/
theorem Excluding.withdrawAgent (m : Excluding s) {h b : Nat} {x : Call} {v : Agent} {d : Option Time} (hx : callOf s h = some x)
    (hst : x.status = .offered b d) (hv : agentOf s b = some v) (reason : Option Nat) : Excluding (withdrawAgent b h v reason s) := by
  have returned := m.returnCall hx hst
  rw [withdrawAgent_eq hx]
  refine Excluding.matchCall (Excluding.notify ?_ _ _) h
  cases reason with
  | none => exact returned.of_side (returned.sound.dropAgent b) rfl
  | some r => exact returned.of_side (returned.sound.setAgentRec (m.sound.agent hv).1 (wrapFine_of_none rfl)) rfl

/-! ### Wraps that end -/

theorem callSide_enterOutcome (s : State) (b : Nat) (v : Agent) (o : WrapOutcome) : callSide (enterOutcome s b v o) = callSide s := by
  cases o <;> rfl

theorem Excluding.endWrap (m : Excluding s) {b : Nat} (hb : b < 512) (v : Agent) {w : WrapRecord} (hq : w.queue < 64)
    (o : WrapOutcome) (expired : Bool) : Excluding (endWrap b v w o expired s) := by
  have sampled : Excluding (takeSample s w.queue (wrapSample s w)) := m.of_side (m.sound.takeSample hq (Nat.min_le_right _ _)) rfl
  have ended : Excluding (enterOutcome (takeSample s w.queue (wrapSample s w)) b v o) :=
    sampled.of_side (sampled.sound.enterOutcome hb v o) (callSide_enterOutcome ..)
  have told : Excluding (if expired then wrapExpiredNotice b w o (enterOutcome (takeSample s w.queue (wrapSample s w)) b v o)
      else enterOutcome (takeSample s w.queue (wrapSample s w)) b v o) := by
    split
    · exact ended.notify _ _
    · exact ended
  cases o with
  | ready => exact told.matchAgent b
  | notReady r => exact told
  | loggedOut => exact told

/-! ### Calls that are answered, released, removed or admitted -/

theorem Excluding.clearAwaiting (m : Excluding s) (h : Nat) : Excluding (clearAwaiting h s) :=
  m.of_audio (m.sound.clearAwaiting h) (audioOnly_clearAwaiting h s)

theorem Excluding.connectCall (m : Excluding s) {h : Nat} {x : Call} (hx : callOf s h = some x) (b : Nat) :
    Excluding (connectCall h b x s) := by
  have hq := m.sound.call hx
  have connected : Excluding (Machine.setCallRec s h { x with status := .connected s.now }) :=
    m.setUnoffered hx hq rfl nofun
  refine Excluding.detach (Excluding.clearAwaiting (Excluding.count ?_ hq _) h) h
  split
  · next v hv => exact connected.of_side (connected.sound.setAgentRec (connected.sound.agent hv).1 (wrapFine_of_none rfl)) rfl
  · exact connected

theorem Excluding.releaseCall (m : Excluding s) {h b : Nat} {x : Call} (hx : callOf s h = some x) (hb : b < 512) (v : Agent)
    (talk : Time) : Excluding (releaseCall h b v x talk s) := by
  have hq : (newWrap s x.queue talk).queue < 64 := m.sound.call hx
  have freed := (m.count (m.sound.call hx) fun k => { k with completed := sat16 (k.completed + 1) }).freeCall h
  have wraps : Excluding (releaseWritten s h b v x (newWrap s x.queue talk)) :=
    freed.of_side (m.sound.releaseWritten hx hb hq) rfl
  rw [releaseCall_eq]
  split
  · exact wraps.endWrap hb _ hq _ true
  · exact wraps

/-- A call that leaves its place is offered to no agent (R24, step 1). -/
theorem Excluding.leavePlace (m : Excluding s) {h : Nat} {x : Call} (hx : callOf s h = some x) : Excluding (leavePlace h x s) := by
  have hq := m.sound.call hx
  unfold Machine.leavePlace
  split
  · have waits : Excluding (Machine.setCallRec s h { x with status := .waiting }) := m.setUnoffered hx hq rfl nofun
    refine Excluding.notify ?_ _ _
    split
    · next v hv => exact waits.of_side (waits.sound.returnToPlace (waits.sound.agent hv).1 _ _) rfl
    · exact waits
  · exact m.of_side (m.sound.leaveList h hq) rfl
  · exact m.of_side (m.sound.leaveList h hq) rfl
  · exact m

theorem Excluding.removeCall (m : Excluding s) {h : Nat} {x : Call} (hx : callOf s h = some x) (cause : BitVec 8) :
    Excluding (removeCall h cause x s) := by
  have hq := m.sound.call hx
  have gone := ((((m.leavePlace hx).detach h).count hq (countRemoved cause)).freeCall h).evalSurge hq
  unfold Machine.removeCall
  dsimp only
  split
  · exact gone.matchAgent _
  · exact gone
  · exact gone
  · exact gone

/-- A call that arrives excludes no agent (R21). -/
theorem Excluding.admitCall (m : Excluding s) {slot : Nat} (hslot : slot < 2048) {x : Call} (hq : x.queue < 64)
    (ho : ∀ q, x.originQueue = some q → q < 64) (hx : x.exclusion = []) : Excluding (admitCall slot x s) := by
  have hcalls := callOf_admitCall hslot s x
  refine m.moveCall (h := handleOf s slot) (m.sound.admitCall hslot hq ho) (fun g hg => by rw [hcalls, if_neg hg]) fun y hy => ?_
  rw [hcalls, if_pos rfl] at hy
  obtain rfl := Option.some.inj hy
  exact ⟨by simp [hx], by simp [hx], by simp [hx]⟩

end

end Sys2Proof.Machine
end

-- ==== Sys2Proof/Proofs/ExclusionsKept ====
section
/-! Every step keeps every exclusion list in order: the orders that name no call, those that do, and the invariant settled (R73). -/

namespace Sys2Proof.Machine

section
variable {s t : State}

/-! ### Orders that move no call -/

theorem callSide_handleStartService (silence : BitVec 8) (s : State) : callSide (handleStartService silence s).1 = callSide s := by
  unfold handleStartService
  split <;> rfl

theorem callSide_handleStopService (s : State) : callSide (handleStopService s).1 = callSide s := by
  unfold handleStopService
  split
  · rfl
  · split <;> rfl

theorem callSide_handleSetQueue (f : QueueFields) (s : State) : callSide (handleSetQueue f s).1 = callSide s := by
  unfold handleSetQueue
  split <;> rfl

theorem callSide_handleReadQueueStatistics (queue clear : BitVec 8) (s : State) :
    callSide (handleReadQueueStatistics queue clear s).1 = callSide s := by
  unfold handleReadQueueStatistics
  dsimp only
  split_ifs <;> rfl

theorem callSide_handleSetDisposition (agent code : BitVec 16) (s : State) :
    callSide (handleSetDisposition agent code s).1 = callSide s := by
  unfold handleSetDisposition
  dsimp only
  split_ifs
  · rfl
  · rfl
  · exact withWrap_fst (P := fun t => callSide t = callSide s) rfl fun _ _ _ _ _ => rfl

theorem callSide_handleExtendWrap (agent : BitVec 16) (s : State) : callSide (handleExtendWrap agent s).1 = callSide s := by
  unfold handleExtendWrap
  dsimp only
  split
  · rfl
  · refine withWrap_fst (P := fun t => callSide t = callSide s) rfl fun _ _ _ _ _ => ?_
    split_ifs <;> rfl

theorem callSide_handleOpenClipLoad (clip : BitVec 8) (startPage : BitVec 16) (length : BitVec 32) (s : State) :
    callSide (handleOpenClipLoad clip startPage length s).1 = callSide s := by
  unfold handleOpenClipLoad
  dsimp only
  split_ifs
  any_goals rfl
  split <;> rfl

theorem callSide_handleClipData (clip : BitVec 8) (offset : BitVec 32) (data : List (BitVec 8)) (s : State) :
    callSide (handleClipData clip offset data s).1 = callSide s := by
  unfold handleClipData
  dsimp only
  split
  · rfl
  · refine withLoading_fst (P := fun t => callSide t = callSide s) rfl fun _ _ _ _ => ?_
    split <;> rfl

theorem callSide_handleCloseClipLoad (clip expectedXor : BitVec 8) (s : State) :
    callSide (handleCloseClipLoad clip expectedXor s).1 = callSide s :=
  withLoading_fst (P := fun t => callSide t = callSide s) rfl fun _ _ _ _ => rfl

theorem callSide_handleAbortClipLoad (clip : BitVec 8) (s : State) : callSide (handleAbortClipLoad clip s).1 = callSide s :=
  withLoading_fst (P := fun t => callSide t = callSide s) rfl fun _ _ _ _ => rfl

theorem callSide_handleFreeClip (clip : BitVec 8) (s : State) : callSide (handleFreeClip clip s).1 = callSide s := by
  unfold handleFreeClip
  dsimp only
  split
  · rfl
  split
  · rfl
  · split <;> rfl
  · rfl

theorem callSide_changeUses (js : List Nat) (f : Nat → Nat) (s : State) :
    callSide (js.foldl (fun t j => changeUse t j f) s) = callSide s := by
  induction js generalizing s with
  | nil => rfl
  | cons j js ih =>
    rw [List.foldl_cons, ih, changeUse]
    split <;> rfl

theorem callSide_moveReferences (s : State) (old new : List Nat) : callSide (moveReferences s old new) = callSide s :=
  (callSide_changeUses _ (· + 1) _).trans (callSide_changeUses _ (· - 1) s)

theorem callSide_handleSetProgram (f : ProgramFields) (s : State) : callSide (handleSetProgram f s).1 = callSide s := by
  unfold handleSetProgram
  split
  · rfl
  split
  · rfl
  · exact callSide_moveReferences s _ _

theorem callSide_handleDeleteProgram (program : BitVec 8) (s : State) : callSide (handleDeleteProgram program s).1 = callSide s := by
  unfold handleDeleteProgram
  dsimp only
  split
  · rfl
  split
  · rfl
  split
  · rfl
  · exact callSide_moveReferences s _ _

/-! ### Call orders -/

theorem Excluding.handleEnqueue (m : Excluding s) (tag : BitVec 32) (queue options priority : BitVec 8) (skills : BitVec 32)
    (program : BitVec 8) : Excluding (handleEnqueue tag queue options priority skills program s).1 := by
  unfold Machine.handleEnqueue
  dsimp only
  split
  · exact m
  next hq =>
  split
  · exact m
  split
  · exact m
  split
  · exact m
  next slot hslot =>
  split
  · exact m
  next chosen overflowed hdec =>
  have hq' : queue.toNat < 64 := by omega
  have hchosen := m.sound.overflowDecision_lt hq' hdec
  have admitted := m.admitCall (lowestFreeSlot_spec hslot).1 (x := newCall s tag queue.toNat chosen overflowed
    (enqueuePriority s queue.toNat options priority) (if optionBit options 1 then some skills else none)
    (enqueueProgram s queue.toNat options program)) hchosen (fun q hoq => by
      rw [newCall] at hoq
      cases overflowed with
      | true => cases hoq; exact hq'
      | false => cases hoq) rfl
  have judged := admitted.evalSurge hchosen
  exact (judged.of_audio (judged.sound.attach _) (audioOnly_attach ..)).matchCall _

theorem Excluding.handleRemove (m : Excluding s) (handle : BitVec 16) (cause : BitVec 8) : Excluding (handleRemove handle cause s).1 := by
  unfold Machine.handleRemove
  refine withCall_fst m fun x hx => ?_
  split
  · exact m
  · split
    · exact m
    · exact m.removeCall hx cause
    · exact m.removeCall hx cause
    · exact m.removeCall hx cause

theorem Excluding.handleAnswer (m : Excluding s) (handle agent : BitVec 16) : Excluding (handleAnswer handle agent s).1 := by
  unfold Machine.handleAnswer
  refine withCall_fst m fun x hx => ?_
  split
  · exact m
  · exact withOffer_fst m fun d _ => m.connectCall hx _

theorem Excluding.handleRefuseOffer (m : Excluding s) (handle agent : BitVec 16) (present reason : BitVec 8) :
    Excluding (handleRefuseOffer handle agent present reason s).1 := by
  unfold Machine.handleRefuseOffer
  refine withCall_fst m fun x hx => ?_
  dsimp only
  split
  · exact m
  split
  · exact m
  split
  · exact m
  exact withOffer_fst m fun d hst => m.refuseCall hx hst _

theorem Excluding.handleRelease (m : Excluding s) (handle : BitVec 16) : Excluding (handleRelease handle s).1 := by
  unfold Machine.handleRelease
  refine withCall_fst m fun x hx => ?_
  dsimp only
  split
  · exact m
  · exact m
  · exact m
  · split
    · next b v hb =>
      obtain ⟨b', -, e⟩ := Option.bind_eq_some_iff.1 hb
      obtain ⟨v', hv', e'⟩ := Option.map_eq_some_iff.1 e
      cases e'
      exact m.releaseCall hx (m.sound.agent hv').1 _ _
    · exact m

theorem Excluding.handleDivert (m : Excluding s) (handle : BitVec 16) : Excluding (handleDivert handle s).1 := by
  unfold Machine.handleDivert
  refine withCall_fst m fun x hx => ?_
  dsimp only
  split
  · exact m
  · exact m
  · exact m
  · have started : Excluding (divertStart s handle.toNat x) := m.setUnoffered hx (m.sound.call hx :) rfl nofun
    exact started.same (started.sound.divertExit _ _) (audioOrDraw_divertExit hx).callOf

theorem Excluding.handleCancelDivert (m : Excluding s) (handle : BitVec 16) : Excluding (handleCancelDivert handle s).1 := by
  unfold Machine.handleCancelDivert
  refine withCall_fst m fun x hx => ?_
  dsimp only
  split
  · exact m
  · exact m
  · exact m
  · have waits : Excluding (Machine.setCallRec s handle.toNat { x with status := .waiting }) :=
      m.setUnoffered hx (m.sound.call hx :) rfl nofun
    exact (waits.of_audio (waits.sound.cancelVoice _ _) (audioOnly_cancelVoice ..)).matchCall _

/-! ### Agent orders -/

theorem Excluding.handleLogin (m : Excluding s) (agent : BitVec 16) (skills : BitVec 32) (autoReady initialState reason : BitVec 8) :
    Excluding (handleLogin agent skills autoReady initialState reason s).1 := by
  unfold Machine.handleLogin
  dsimp only
  split
  · exact m
  next hb =>
  have hb' : agent.toNat < 512 := by omega
  split
  · exact m
  split
  · exact m
  split
  · exact m
  split
  · exact m
  dsimp only
  split
  · exact m.of_side (m.sound.setAgentRec hb' (wrapFine_of_none rfl)) rfl
  · exact (m.of_side (m.sound.enterReady hb' _ _) rfl).matchAgent _

theorem Excluding.logoutAgent (m : Excluding s) (k : Kept True False False s) {b : Nat} {v : Agent} (hv : agentOf s b = some v) :
    Excluding (logoutAgent b v s) := by
  obtain ⟨hb, hf⟩ := m.sound.agent hv
  unfold Machine.logoutAgent
  split
  · exact m.of_side (m.sound.dropAgent b) rfl
  · exact m.of_side ((m.sound.leaveReady b).dropAgent b) rfl
  · next hst =>
    obtain ⟨x, d, hx, hxs⟩ := k.offeredCall trivial hv hst
    exact m.withdrawAgent hx hxs hv none
  · next hst => exact m.endWrap hb v (hf.queue hst) _ _
  · exact m

theorem Excluding.handleLogout (m : Excluding s) (k : Kept True False False s) (agent : BitVec 16) :
    Excluding (handleLogout agent s).1 := by
  unfold Machine.handleLogout
  dsimp only
  split
  · exact m
  split
  · exact m
  next v hv =>
  split
  · exact m
  all_goals exact m.logoutAgent k hv

theorem Excluding.handleSetReady (m : Excluding s) (agent : BitVec 16) : Excluding (handleSetReady agent s).1 := by
  unfold Machine.handleSetReady
  dsimp only
  split
  · exact m
  split
  · exact m
  next v hv =>
  split
  · exact (m.of_side (m.sound.enterReady (m.sound.agent hv).1 v none) rfl).matchAgent _
  all_goals exact m

theorem Excluding.notReadyAgent (m : Excluding s) (k : Kept True False False s) {b : Nat} {v : Agent} (hv : agentOf s b = some v)
    (reason : Nat) : Excluding (notReadyAgent b v reason s) := by
  have sound := (k.notReadyAgent hv reason).sound
  unfold Machine.notReadyAgent at sound ⊢
  cases hst : v.status with
  | offered h n =>
    obtain ⟨x, d, hx, hxs⟩ := k.offeredCall trivial hv hst
    exact m.withdrawAgent hx hxs hv (some reason)
  | notReady r => rw [hst] at sound; exact m.of_side sound rfl
  | ready n d => rw [hst] at sound; exact m.of_side sound rfl
  | talking h p => rw [hst] at sound; exact m.of_side sound rfl
  | wrap w p => rw [hst] at sound; exact m.of_side sound rfl

theorem Excluding.handleSetNotReady (m : Excluding s) (k : Kept True False False s) (agent : BitVec 16) (reason : BitVec 8) :
    Excluding (handleSetNotReady agent reason s).1 := by
  unfold Machine.handleSetNotReady
  dsimp only
  split
  · exact m
  split
  · exact m
  split
  · exact m
  next v hv => exact m.notReadyAgent k hv _

theorem Excluding.handleSetSkills (m : Excluding s) (agent : BitVec 16) (skills : BitVec 32) :
    Excluding (handleSetSkills agent skills s).1 := by
  unfold Machine.handleSetSkills
  dsimp only
  split
  · exact m
  split
  · exact m
  next v hv =>
  obtain ⟨hb, hf⟩ := m.sound.agent hv
  exact (m.of_side (m.sound.setAgentRec (v := { v with skills := skills }) hb hf) rfl).offerAgent _

theorem Excluding.handleWrapDone (m : Excluding s) (agent : BitVec 16) (options : BitVec 8) (code : BitVec 16) (reason : BitVec 8) :
    Excluding (handleWrapDone agent options code reason s).1 := by
  unfold Machine.handleWrapDone
  dsimp only
  split
  · exact m
  split
  · exact m
  split
  · exact m
  split
  · exact m
  refine withWrap_fst m fun v w p hv hst => ?_
  obtain ⟨hb, hf⟩ := m.sound.agent hv
  split
  · exact m
  · exact m.endWrap hb v ((withCode_queue w options code).symm ▸ hf.queue hst) _ _

/-! ### Queues and clearings -/

theorem Excluding.handleSetQueueState (m : Excluding s) (queue state : BitVec 8) :
    Excluding (handleSetQueueState queue state s).1 := by
  unfold Machine.handleSetQueueState
  split
  · exact m
  split
  · exact m
  next hq _ =>
  have written : Excluding (setQueueRec s queue.toNat { queueOf s queue.toNat with state := queueStateOf state.toNat }) :=
    m.of_side (m.sound.setQueueRec (by omega) (m.sound.queue _)) rfl
  dsimp only
  split
  · exact written.reopeningPass _
  · exact written

/-- With no call there is no exclusion list. -/
theorem Excluding.of_empty (sound : Sound True False t) (hcalls : t.calls = []) : Excluding t := by
  refine ⟨sound, fun h c hc => ?_⟩
  rw [callOf, hcalls] at hc
  split at hc <;> cases hc

/-! ### Every step -/

theorem Excluding.conclude {r : State × Answer} (m : Excluding r.1) (kind : Nat) : Excluding (conclude kind r) :=
  m.of_records (records_conclude kind r)

theorem Excluding.concludeTo {r : State × Answer} (m : Excluding r.1) (dest : Dest) (kind : Nat) : Excluding (concludeTo dest kind r) :=
  m.of_records (records_concludeTo dest kind r)

theorem Excluding.serviceOnly {g : State → State × Answer} (m : Excluding s) (mg : Excluding (g s).1) :
    Excluding (serviceOnly g s).1 := by
  unfold Machine.serviceOnly
  split
  · exact mg
  · exact m

theorem Excluding.handOverOrder (m : Excluding s) (k : Kept True False False s) (i : Instr) : Excluding (handOverOrder i s) := by
  have service {g : State → State × Answer} (kind : Nat) (mg : Excluding (g s).1) :
      Excluding (Machine.conclude kind (Machine.serviceOnly g s)) := (m.serviceOnly mg).conclude kind
  have same {r : State × Answer} (kind : Nat) (h : r.1 = s) : Excluding (Machine.conclude kind r) :=
    Excluding.conclude (h ▸ m) kind
  have aside {r : State × Answer} (e : callSide r.1 = callSide s) (kr : Kept True False False r.1) : Excluding r.1 :=
    m.of_side kr.sound e
  cases i with
  | startService d b => exact (aside (callSide_handleStartService b s) (k.handleStartService b)).concludeTo _ _
  | stopService d => exact (aside (callSide_handleStopService s) k.handleStopService).concludeTo _ _
  | clearService d =>
    exact Excluding.concludeTo (r := handleClearService s) (.of_empty k.clearAll.sound (clearAll_calls k)) _ _
  | readEngine => exact m.of_records rfl
  | setQueue f => exact (aside (callSide_handleSetQueue f s) (k.handleSetQueue f)).conclude _
  | setQueueState d q st => exact (m.handleSetQueueState q st).concludeTo _ _
  | readQueue q => exact same _ (handleReadQueue_fst q s)
  | readQueueStatistics q b => exact (aside (callSide_handleReadQueueStatistics q b s) (k.handleReadQueueStatistics q b)).conclude _
  | readWaiting q f n => exact same _ (handleReadWaiting_fst q f n s)
  | enqueue t q o p j g => exact service _ (m.handleEnqueue t q o p j g)
  | remove h b => exact service _ (m.handleRemove h b)
  | answer h b => exact service _ (m.handleAnswer h b)
  | refuseOffer h b p r => exact service _ (m.handleRefuseOffer h b p r)
  | release h => exact service _ (m.handleRelease h)
  | divert h => exact service _ (m.handleDivert h)
  | cancelDivert h => exact service _ (m.handleCancelDivert h)
  | readCall h => exact same _ (handleReadCall_fst h s)
  | login b j u i r => exact service _ (m.handleLogin b j u i r)
  | logout b => exact service _ (m.handleLogout k b)
  | setReady b => exact service _ (m.handleSetReady b)
  | setNotReady b r => exact service _ (m.handleSetNotReady k b r)
  | setSkills b j => exact service _ (m.handleSetSkills b j)
  | wrapDone b o j r => exact service _ (m.handleWrapDone b o j r)
  | setDisposition b j => exact service _ (aside (callSide_handleSetDisposition b j s) (k.handleSetDisposition b j))
  | extendWrap b => exact service _ (aside (callSide_handleExtendWrap b s) (k.handleExtendWrap b))
  | readAgent b => exact same _ (handleReadAgent_fst b s)
  | readAgentStates b n => exact same _ (handleReadAgentStates_fst b n s)
  | openClipLoad j p n => exact (aside (callSide_handleOpenClipLoad j p n s) (k.handleOpenClipLoad j p n)).conclude _
  | clipData j o d => exact (aside (callSide_handleClipData j o d s) (k.handleClipData j o d)).conclude _
  | closeClipLoad j x => exact (aside (callSide_handleCloseClipLoad j x s) (k.handleCloseClipLoad j x)).conclude _
  | abortClipLoad j => exact (aside (callSide_handleAbortClipLoad j s) (k.handleAbortClipLoad j)).conclude _
  | freeClip j => exact (aside (callSide_handleFreeClip j s) (k.handleFreeClip j)).conclude _
  | readClip j o n => exact same _ (handleReadClip_fst j o n s)
  | readClipEntry j => exact same _ (handleReadClipEntry_fst j s)
  | setProgram f => exact (aside (callSide_handleSetProgram f s) (k.handleSetProgram f)).conclude _
  | deleteProgram p => exact (aside (callSide_handleDeleteProgram p s) (k.handleDeleteProgram p)).conclude _
  | readProgram p => exact same _ (handleReadProgram_fst p s)
  | readVoice v => exact same _ (handleReadVoice_fst v s)
  | unknownKind j b => exact same _ rfl
  | _ => exact m

/-- The pairing, by which an agent leaves the call it was offered, together with the exclusion lists. -/
theorem stepKept_excluding : StepKept fun s => Kept True False False s ∧ Excluding s where
  same _ _ p e := ⟨p.1.of_records e, p.2.of_records e⟩
  order i _ p := ⟨p.1.handOverOrder i, p.2.handOverOrder p.1 i⟩
  play order _ p :=
    have played := p.1.playFrame order
    ⟨played, p.2.same played.sound (audioOnly_playFrame order _).callOf⟩
  offer h b d x s hx hst p := ⟨(stepKept_kept ..).offer h b d x s hx hst p.1, p.2.expireOffer hx hst⟩
  wrap b v w pr s hv hst p := by
    obtain ⟨hb, hf⟩ := p.2.sound.agent hv
    exact ⟨(stepKept_kept ..).wrap b v w pr s hv hst p.1, p.2.endWrap hb v (hf.queue hst) _ true⟩
  cool b v n d s hv hst p := by
    have ended : Excluding (setAgentRec s b { v with status := .ready n none }) :=
      p.2.of_side (p.2.sound.setAgentRec (p.2.sound.agent hv).1 (wrapFine_of_none rfl)) rfl
    exact ⟨(stepKept_kept ..).cool b v n d s hv hst p.1, ended.matchAgent b⟩
  surge _ _ hq p := ⟨p.1.evalSurge hq, p.2.evalSurge hq⟩
  reset := ⟨kept_reset .., .of_empty (kept_reset True False False).sound rfl⟩
  held _ p := ⟨p.1.heldInReset, .of_empty p.1.heldInReset.sound rfl⟩

/-- Settles O59: with the pairing, every step keeps the exclusion lists in order. -/
theorem exclusionListsHoldFourDistinctAgents : Obligations.ExclusionListsHoldFourDistinctAgents := by
  intro s t hcan hr hp hx e
  have sound : Sound True False s := (sound_iff ..).2 ⟨fun _ => hcan, hr, False.elim⟩
  have start : Kept True False False s ∧ Excluding s :=
    ⟨⟨sound, fun _ => (paired_iff hcan hr).1 hp, fun _ => False.elim⟩, sound, (exclusionsOk_iff hcan hr).1 hx⟩
  have m := (stepKept_excluding.step start e).2
  exact (exclusionsOk_iff m.canonical m.inRange).2 m.calls

end

end Sys2Proof.Machine
end

-- ==== Sys2Proof/Proofs/MakingOffers ====
section
/-! Making an offer (R60 to R62): what it writes on both sides before the surge monitor evaluates the queue, and what the evaluation and
the notice leave of it. -/

namespace Sys2Proof.Machine

section
variable {s : State} {h b n : Nat} {x : Call} {v : Agent}

/-! ### Before the evaluation -/

/-- The queues of an offer: the call leaves its list, and the cursor moves when asked. -/
theorem queueOf_offerWritten (s : State) (h b : Nat) (x : Call) (v : Agent) (rotate : Bool) (j : Nat) :
    queueOf (offerWritten s h b x v rotate) j = if j = x.queue then { queueOf s x.queue with
      waiting := (queueOf s x.queue).waiting.erase h, cursor := if rotate then b else (queueOf s x.queue).cursor } else queueOf s j := by
  have hleft (i : Nat) : queueOf (offerWritten s h b x v false) i = if i = x.queue then { queueOf s x.queue with
      waiting := (queueOf s x.queue).waiting.erase h } else queueOf s i := by
    show queueOf (setAgentRec (leaveReady (setCallRec (leaveList s h x.queue) h (offeredCall s b x)) b) b _) i = _
    rw [queueOf_setAgentRec, queueOf_leaveReady, queueOf_setCallRec, queueOf_leaveList]
  cases rotate with
  | false => exact hleft j
  | true =>
    show queueOf (setQueueRec (offerWritten s h b x v false) x.queue
      { queueOf (offerWritten s h b x v false) x.queue with cursor := b }) j = _
    rw [queueOf_setQueueRec, hleft, hleft, if_pos rfl]
    split <;> rfl

/-- What an offer leaves of the rest before the evaluation. -/
theorem offerWritten_frame (s : State) (h b : Nat) (x : Call) (v : Agent) (rotate : Bool) :
    outsideMatching (offerWritten s h b x v rotate) = outsideMatching s ∧ (offerWritten s h b x v rotate).now = s.now ∧
      (offerWritten s h b x v rotate).due = s.due ∧ (offerWritten s h b x v rotate).notices = s.notices ∧
      (offerWritten s h b x v rotate).readyList = s.readyList.erase b ∧ (offerWritten s h b x v rotate).readies = s.readies ∧
      (offerWritten s h b x v rotate).agents = tableInsert s.agents b { v with status := .offered h (readySeqOf s b) } := by
  cases rotate <;> simp [offerWritten]

/-- An offer to an agent that is READY leaves what the evaluation looks at, but for the list. -/
theorem beforeSurge_offerWritten (hx : callOf s h = some x) (hv : agentOf s b = some v) (hw : wrapOf v = none) (rotate : Bool) :
    BeforeSurge s (offerWritten s h b x v rotate) x.queue := by
  obtain ⟨-, hnow, hdue, hnotices, -, -, hagents⟩ := offerWritten_frame s h b x v rotate
  obtain ⟨-, hagent, -⟩ := offerWritten_spec hx b v rotate
  refine ⟨by rw [queueOf_offerWritten, if_pos rfl], by rw [queueOf_offerWritten, if_pos rfl], hnow, fun j w hj => ?_,
    congrArg DueWork.wraps hdue, fun hcan => ⟨?_, fun p => ?_⟩, fun hn => ⟨?_, by rw [noticesOf, hnotices]; rfl⟩⟩
  · rw [hagent]
    split
    · next e =>
      refine ⟨fun hw' => absurd ?_ hj, fun hw' => absurd ?_ hj⟩
      · exact Option.some.inj hw' ▸ rfl
      · rw [e, hv] at hw'
        exact Option.some.inj hw' ▸ hw
    · exact Iff.rfl
  · rw [hagents]
    exact tableRising_tableInsert _ _ hcan.2.2.2.1
  · rw [hagents]
    refine countP_tableInsert_of_false (wrapHas p) s.agents b (fun w hw' => ?_) rfl
    obtain rfl : v = w := Option.some.inj (hv.symm.trans hw')
    simp [wrapHas, hw]
  · rw [hnotices]
    omega

/-! ### After the evaluation -/

/-- The notice of an offer leaves what the evaluation has written. -/
theorem afterSurge_offerNotice (r : State) (hr : r.notices.length ≤ s.notices.length + 1) (d : Option Time) :
    AfterSurge (s.notices.length < 250) r (offerNotice h b x d r) x.queue := by
  unfold offerNotice
  refine ⟨by rw [queueOf_notify], by rw [queueOf_notify], fun k => by rw [callOf_notify], fun a w _ hw => ?_, ?_, fun hn => ?_⟩
  · rw [agentOf_notify, hw]
  · rw [notify_due]
  · exact noticesOf_notify_of_ne (by omega) (by decide) _

/-- The effective priority depends on the clock, on the aging of the queue, and on the call's base and arrival. -/
theorem effPriority_congr {t : State} {y : Call} (hnow : t.now = s.now)
    (hsettings : (queueOf t x.queue).settings = (queueOf s x.queue).settings) (hq : y.queue = x.queue)
    (hbase : y.basePriority = x.basePriority) (harrival : y.arrivalTime = x.arrivalTime) : effPriority t y = effPriority s x := by
  simp only [effPriority, waitOf, since, hq, hbase, harrival, hnow, hsettings]

/-- The flags of an OFFER notice: 1 for a deadline, 2 for an overflowed call (R191). -/
theorem offerFlags_offeredCall (s : State) (b : Nat) (x : Call) : offerFlags (offeredCall s b x) (offerDeadline s x.queue) =
    (if (queueOf s x.queue).settings.offerTimeout = 0 then 0 else 1) + if x.originQueue = none then 0 else 2 := by
  have horigin : (offeredCall s b x).originQueue = x.originQueue := rfl
  rw [offerFlags, offerDeadline, horigin]
  congr 1
  · split <;> rfl
  · cases x.originQueue <;> rfl

/-- Settles O45: both sides are written, then the queue is evaluated, then the notice goes out. -/
theorem offerIsMadeToBothSides : Obligations.OfferIsMadeToBothSides := by
  intro h b rotate x v n s hx hv hvs
  have hw : wrapOf v = none := by rw [wrapOf, hvs]
  have hseq : readySeqOf s b = n := by simp only [readySeqOf, hv, hvs]
  have made := makeOffer_eq_written hx hv rotate
  have hqueues := queueOf_offerWritten s h b x v rotate
  have before := beforeSurge_offerWritten (h := h) hx hv hw rotate
  obtain ⟨hcalls, hagents, -⟩ := offerWritten_spec hx b v rotate
  obtain ⟨hout, hnow, hdue, hnotices, hlist, hreadies, -⟩ := offerWritten_frame s h b x v rotate
  generalize offerWritten s h b x v rotate = w at made hqueues before hcalls hagents hout hnow hdue hnotices hlist hreadies
  obtain ⟨hsurge, hmoved, -, hready, hreadies', hoffers, hcool, hwhole, hlength, hout'⟩ := evalSurge_spec x.queue w
  have hqueue : queueOf (evalSurge x.queue w) x.queue = { queueOf s x.queue with
      waiting := (queueOf s x.queue).waiting.erase h, cursor := if rotate then b else (queueOf s x.queue).cursor
      surge := (queueOf (evalSurge x.queue w) x.queue).surge } := by
    rw [hsurge, if_pos rfl, hqueues, if_pos rfl]
  have after := afterSurge_offerNotice (s := s) (h := h) (b := b) (x := offeredCall s b x) (evalSurge x.queue w)
    (by rw [← hnotices]; exact hlength) (offerDeadline s x.queue)
  intro u t deadline
  have hu : u = offerNotice h b (offeredCall s b x) (offerDeadline s x.queue) (evalSurge x.queue w) := made
  clear_value u
  subst hu
  have hq : queueOf (offerNotice h b (offeredCall s b x) (offerDeadline s x.queue) (evalSurge x.queue w)) x.queue =
      queueOf (evalSurge x.queue w) x.queue := queueOf_notify ..
  rw [hq]
  refine ⟨?_, ?_, by rw [hqueue], ?_, by rw [hqueue], by rw [hqueue], by rw [hqueue], by rw [hqueue], by rw [hqueue],
    fun j hj => ?_, fun k hk => ?_, fun a ha => ?_, surgeEvaluated_of before after, ?_, ?_, ?_, fun hn => ?_⟩
  · rw [offerNotice, callOf_notify, callOf_evalSurge, hcalls, if_pos rfl]
    rfl
  · rw [offerNotice, agentOf_notify]
    exact agentOf_evalSurge_of_not_wrap (by rw [hagents, if_pos rfl, hseq]) rfl _
  · rw [offerNotice, notify_readyList, hready, hlist]
  · rw [offerNotice, queueOf_notify, queueOf_evalSurge_of_ne _ hj, hqueues, if_neg hj]
  · rw [offerNotice, callOf_notify, callOf_evalSurge, hcalls, if_neg (fun e => hk (by rw [e]))]
  · rw [offerNotice, agentOf_notify, hmoved, hagents, if_neg ha]
  · rw [offerNotice, notify_due, withoutWraps, withoutWraps, hoffers, hcool, hwhole, hdue]
  · rw [offerNotice, notify_readies, hreadies', hreadies]
  · rw [offerNotice, outsideMatching_notify, hout', hout]
  · have hpriority : effPriority (evalSurge x.queue w) (offeredCall s b x) = effPriority s x :=
      effPriority_congr (by rw [evalSurge_now, hnow]) (by rw [hqueue]) rfl rfl rfl
    rw [offerNotice, notify_getLast (by rw [hnotices] at hlength; omega), offerFlags_offeredCall, hpriority, evalSurge_now, hnow]
    rfl

end

end Sys2Proof.Machine
end

-- ==== Sys2Proof/Proofs/Reopening ====
section
/-! The reopening pass (R59): what call-side matching leaves as it was, and that it leaves no candidate to the calls it has been through. -/

namespace Sys2Proof.Machine

section
variable {s t u : State}

/-! ### Matching makes nothing more to match -/

/-- From `s` to `t` matching has at most made offers: no call has become WAITING, no list has gained a call, no call a candidate, and no
queue has other settings or another state. -/
structure FewerPairs (s t : State) : Prop where
  calls : ∀ h c, callOf t h = some c → c.status = .waiting → callOf s h = some c
  lists : ∀ q, (queueOf t q).waiting ⊆ (queueOf s q).waiting
  candidates : ∀ c, candidates t c ⊆ candidates s c
  queues : ∀ q, (queueOf t q).settings = (queueOf s q).settings ∧ (queueOf t q).state = (queueOf s q).state

theorem FewerPairs.refl (s : State) : FewerPairs s s :=
  ⟨fun _ _ hc _ => hc, fun _ => List.Subset.refl _, fun _ => List.Subset.refl _, fun _ => ⟨rfl, rfl⟩⟩

theorem FewerPairs.trans (f : FewerPairs s t) (g : FewerPairs t u) : FewerPairs s u :=
  ⟨fun h c hc hw => f.calls h c (g.calls h c hc hw) hw, fun q => List.Subset.trans (g.lists q) (f.lists q),
    fun c => List.Subset.trans (g.candidates c) (f.candidates c),
    fun q => ⟨(g.queues q).1.trans (f.queues q).1, (g.queues q).2.trans (f.queues q).2⟩⟩

/-- A call without a candidate stays without one. -/
theorem FewerPairs.no_candidate (f : FewerPairs s t) {c : Call} (h : Machine.candidates s c = []) : Machine.candidates t c = [] :=
  List.subset_nil.1 (h ▸ f.candidates c)

/-! ### One offer -/

section
variable {h b : Nat} {x : Call} {v : Agent}

theorem queueOf_makeOffer (hx : callOf s h = some x) (hv : agentOf s b = some v) (rotate : Bool) (q : Nat) :
    (queueOf (makeOffer h b rotate s) q).waiting = (if q = x.queue then (queueOf s q).waiting.erase h else (queueOf s q).waiting) ∧
      (queueOf (makeOffer h b rotate s) q).settings = (queueOf s q).settings ∧
      (queueOf (makeOffer h b rotate s) q).state = (queueOf s q).state := by
  rw [makeOffer_eq_written hx hv, offerNotice, queueOf_notify, (evalSurge_spec ..).1]
  split
  · next e => rw [queueOf_offerWritten, if_pos rfl, e]; exact ⟨rfl, rfl, rfl⟩
  · next e => rw [queueOf_offerWritten, if_neg e]; exact ⟨rfl, rfl, rfl⟩

theorem readyList_makeOffer (hx : callOf s h = some x) (hv : agentOf s b = some v) (rotate : Bool) :
    (makeOffer h b rotate s).readyList = s.readyList.erase b := by
  rw [makeOffer_eq_written hx hv, offerNotice, notify_readyList, evalSurge_readyList, (offerWritten_matching ..).1]

/-- An agent that has something to spare after an offer had it before. -/
theorem spareIn_makeOffer (hx : callOf s h = some x) (hv : agentOf s b = some v) (rotate : Bool) (a : Nat) :
    spareIn (makeOffer h b rotate s) a = if a = b then none else spareIn s a := by
  have same : SameMatching (offerWritten s h b x v rotate) (makeOffer h b rotate s) := by
    rw [makeOffer_eq_written hx hv, offerNotice]
    exact (sameMatching_evalSurge ..).trans (.of_records (records_notify ..))
  rw [same.spare, spareIn, agentView_of_moved spareOf (offerWritten_spec hx b v rotate).2.1]
  rfl

theorem mem_candidates_iff_spare (s : State) (c : Call) (a : Nat) :
    a ∈ candidates s c ↔ a ∈ s.readyList ∧ ∃ m, spareIn s a = some m ∧ covers m (requiredOf s c) = true ∧ a ∉ c.exclusion := by
  rw [mem_candidates]
  refine and_congr_right fun _ => ⟨fun ⟨v, hv, hp⟩ => ?_, fun ⟨m, hm, hcov, hex⟩ => ?_⟩
  · obtain ⟨⟨n, hn⟩, hcov, hex⟩ := (pairable_eq_true s a v c).1 hp
    exact ⟨v.skills, (spareIn_eq_some s a _).2 ⟨v, n, hv, hn, rfl⟩, hcov, hex⟩
  · obtain ⟨v, n, hv, hn, rfl⟩ := (spareIn_eq_some s a m).1 hm
    exact ⟨v, hv, (pairable_eq_true s a v c).2 ⟨⟨n, hn⟩, hcov, hex⟩⟩

theorem fewerPairs_makeOffer (hx : callOf s h = some x) (hv : agentOf s b = some v) (rotate : Bool) :
    FewerPairs s (makeOffer h b rotate s) := by
  have hqueue := queueOf_makeOffer hx hv rotate
  refine ⟨fun g c hc hw => ?_, fun q => ?_, fun c a ha => ?_, fun q => (hqueue q).2⟩
  · rw [callOf_makeOffer hx hv] at hc
    split at hc
    · cases hc
      cases hw
    · exact hc
  · rw [(hqueue q).1]
    split
    · exact List.erase_subset
    · exact List.Subset.refl _
  · rw [mem_candidates_iff_spare] at ha ⊢
    obtain ⟨hmem, m, hm, hcov, hex⟩ := ha
    rw [readyList_makeOffer hx hv] at hmem
    rw [spareIn_makeOffer hx hv] at hm
    rw [requiredOf, (hqueue c.queue).2.1] at hcov
    split at hm
    · cases hm
    · exact ⟨List.mem_of_mem_erase hmem, m, hm, hcov, hex⟩

end

/-! ### The calls of the pass -/

theorem fewerPairs_matchCall (h : Nat) (s : State) : FewerPairs s (matchCall h s) := by
  rcases matchCall_cases h s with e | ⟨x, b, hx, -, -, hb, e⟩ <;> rw [e]
  · exact .refl s
  · obtain ⟨v, -, hv, -⟩ := ready_of_chooseAgent hb
    exact fewerPairs_makeOffer hx hv _

/-- Matching a call leaves every other call as it stands. -/
theorem callOf_matchCall_of_ne {g h : Nat} (hg : g ≠ h) (s : State) : callOf (matchCall h s) g = callOf s g := by
  rcases matchCall_cases h s with e | ⟨x, b, hx, -, -, hb, e⟩ <;> rw [e]
  obtain ⟨v, -, hv, -⟩ := ready_of_chooseAgent hb
  rw [callOf_makeOffer hx hv, if_neg hg]

/-- A call that matching leaves WAITING, in a queue that offers, has no candidate. -/
theorem no_candidate_of_matchCall {h : Nat} {c : Call} (hc : callOf (matchCall h s) h = some c) (hw : c.status = .waiting)
    (ho : offering (queueOf s c.queue).state = true) : candidates (matchCall h s) c = [] := by
  have before : callOf s h = some c := (fewerPairs_matchCall h s).calls h c hc hw
  refine (fewerPairs_matchCall h s).no_candidate ?_
  cases ha : chooseAgent s c with
  | none => exact (chooseAgent_eq_none s c).1 ha
  | some b =>
    obtain ⟨v, -, hv, -⟩ := ready_of_chooseAgent ha
    rw [matchCall_of_choice before hw ho ha, callOf_makeOffer before hv, if_pos rfl] at hc
    rw [← Option.some.inj hc] at hw
    cases hw

theorem fewerPairs_matchCalls (hs : List Nat) (s : State) : FewerPairs s (hs.foldl (fun t h => matchCall h t) s) := by
  induction hs generalizing s with
  | nil => exact .refl s
  | cons h hs ih => exact (fewerPairs_matchCall h s).trans (ih _)

theorem callOf_matchCalls_of_notMem {hs : List Nat} {g : Nat} (hg : g ∉ hs) (s : State) :
    callOf (hs.foldl (fun t h => matchCall h t) s) g = callOf s g := by
  induction hs generalizing s with
  | nil => rfl
  | cons h hs ih =>
    rw [List.mem_cons, not_or] at hg
    rw [List.foldl_cons, ih hg.2, callOf_matchCall_of_ne hg.1]

/-- A call that matching one call after the other leaves WAITING, in a queue that offers, has no candidate at the end. -/
theorem no_candidate_of_matchCalls {hs : List Nat} {g : Nat} {c : Call} (hg : g ∈ hs)
    (hc : callOf (hs.foldl (fun t h => matchCall h t) s) g = some c) (hw : c.status = .waiting)
    (ho : offering (queueOf s c.queue).state = true) : candidates (hs.foldl (fun t h => matchCall h t) s) c = [] := by
  induction hs generalizing s with
  | nil => cases hg
  | cons h hs ih =>
    rw [List.foldl_cons] at hc ⊢
    have later := fewerPairs_matchCalls hs (matchCall h s)
    by_cases hgs : g ∈ hs
    · exact ih hgs hc (((fewerPairs_matchCall h s).queues c.queue).2 ▸ ho)
    · obtain rfl : g = h := (List.mem_cons.1 hg).resolve_right hgs
      exact later.no_candidate (no_candidate_of_matchCall (later.calls g c hc hw) hw ho)

/-! ### The pass -/

theorem mem_waitingCalls (s : State) (q : Nat) (e : Nat × Call) :
    e ∈ waitingCalls s q ↔ e.1 ∈ (queueOf s q).waiting ∧ callOf s e.1 = some e.2 ∧ e.2.status = .waiting := by
  obtain ⟨h, c⟩ := e
  simp only [waitingCalls, listedCalls, List.mem_filter, List.mem_filterMap, Option.map_eq_some_iff, isWaiting_eq_true, Prod.mk.injEq]
  constructor
  · rintro ⟨⟨g, hg, d, hd, rfl, rfl⟩, hw⟩
    exact ⟨hg, hd, hw⟩
  · rintro ⟨hg, hd, hw⟩
    exact ⟨⟨h, hg, c, hd, rfl, rfl⟩, hw⟩

/-- The pass goes through the WAITING calls of the queue. -/
theorem mem_rankOrder_handles (s : State) (q g : Nat) :
    g ∈ (rankOrder s q).map (·.1) ↔ ∃ e ∈ waitingCalls s q, e.1 = g := by
  rw [List.mem_map]
  exact exists_congr fun e => and_congr_left fun _ => (rankOrder_perm s q).mem_iff

/-- Settles O29: a call that is WAITING after the pass was WAITING before it, so the pass has been through it. -/
theorem reopeningPassLeavesNoPair : Obligations.ReopeningPassLeavesNoPair := by
  refine ⟨fun q s => List.foldl_map, fun q s ho hqueue => ?_⟩
  have fewer := fewerPairs_matchCalls ((rankOrder s q).map (·.1)) s
  refine ⟨fun e he => ?_, fewer.queues, fun h hno => ?_⟩
  · obtain ⟨hlisted, hc, hw⟩ := (mem_waitingCalls _ q e).1 he
    have before : e ∈ waitingCalls s q := (mem_waitingCalls s q e).2 ⟨fewer.lists q hlisted, fewer.calls _ _ hc hw, hw⟩
    exact no_candidate_of_matchCalls ((mem_rankOrder_handles s q e.1).2 ⟨e, before, rfl⟩) hc hw (hqueue e before ▸ ho)
  · refine callOf_matchCalls_of_notMem (fun hmem => ?_) s
    obtain ⟨e, he, heq⟩ := (mem_rankOrder_handles s q h).1 hmem
    exact hno e he (congrArg slotOf heq)

end

end Sys2Proof.Machine
end

-- ==== Sys2Proof/Proofs/Answering ====
section
/-! ANSWER (R64, R65): the two sides connected, the answer counted, the call off its voice, and the refusals. -/

namespace Sys2Proof.Machine

section
variable {s : State} {h b : Nat} {x : Call} {v : Agent}

/-! ### Before the call is taken off its voice -/

/-- The record of a call that is answered, while it still has its voice. -/
def connectedCall (s : State) (x : Call) : Call := { x with status := .connected s.now, awaitingVoice := false }

/-- The counters of the queue after an answer. -/
def answerCounters (s : State) (x : Call) : Counters → Counters :=
  countAnswer (waitOf s x) (queueOf s x.queue).settings.serviceThreshold

/-- The state of an answer before the call is taken off its voice. -/
def answerCounted (s : State) (h b : Nat) (x : Call) (v : Agent) : State :=
  setCallRec (count (answerWritten s h b x v) x.queue (answerCounters s x)) h (connectedCall s x)

theorem connectCall_eq (hx : callOf s h = some x) (hv : agentOf s b = some v) :
    connectCall h b x s = detach h (answerCounted s h b x v) := by
  have hv' : agentOf (setCallRec s h { x with status := .connected s.now }) b = some v := hv
  have hcall : callOf (count (answerWritten s h b x v) x.queue (answerCounters s x)) h =
      some { x with status := .connected s.now } := callOf_setCallRec_self hx _
  have hclear : clearAwaiting h (count (answerWritten s h b x v) x.queue (answerCounters s x)) = answerCounted s h b x v := by
    simp only [clearAwaiting, hcall]
    rfl
  rw [← hclear]
  simp only [connectCall, hv']
  rfl

theorem callOf_answerCounted (hx : callOf s h = some x) (b : Nat) (v : Agent) (g : Nat) :
    callOf (answerCounted s h b x v) g = if g = h then some (connectedCall s x) else callOf s g := by
  have hcalls (k : Nat) : callOf (count (answerWritten s h b x v) x.queue (answerCounters s x)) k =
      if k = h then some { x with status := .connected s.now } else callOf s k := callOf_setCallRec hx _ k
  rw [answerCounted, callOf_setCallRec (b := { x with status := .connected s.now }) (by rw [hcalls, if_pos rfl]), hcalls]
  split <;> rfl

theorem agentOf_answerCounted (s : State) (h b : Nat) (x : Call) (v : Agent) (j : Nat) :
    agentOf (answerCounted s h b x v) j = if j = b then some (talkTo h v) else agentOf s j := by
  rw [answerCounted, agentOf_setCallRec, agentOf_count, answerWritten, agentOf_setAgentRec, agentOf_setCallRec]

theorem queueOf_answerCounted (s : State) (h b : Nat) (x : Call) (v : Agent) (q : Nat) : queueOf (answerCounted s h b x v) q =
    if q = x.queue then { queueOf s x.queue with counters := answerCounters s x (queueOf s x.queue).counters } else queueOf s q := by
  have written (j : Nat) : queueOf (answerWritten s h b x v) j = queueOf s j := rfl
  rw [answerCounted, queueOf_setCallRec, queueOf_count, written, written]

/-- An answer moves neither the ready list nor the due work, nor what lies outside the traffic. -/
theorem answerCounted_frame (s : State) (h b : Nat) (x : Call) (v : Agent) :
    (answerCounted s h b x v).readyList = s.readyList ∧ (answerCounted s h b x v).due = s.due ∧
      outsideTraffic (answerCounted s h b x v) = outsideTraffic s := by
  have hout : outsideMatching (answerCounted s h b x v) = outsideMatching s := by simp [answerCounted, answerWritten]
  exact ⟨by simp [answerCounted, answerWritten], by simp [answerCounted, answerWritten], outsideTraffic_of_matching hout⟩

/-- An answer leaves the audio side alone but for the record of its call. -/
theorem audioKept_answerCounted (s : State) (h b : Nat) (x : Call) (v : Agent) : AudioKept h s (answerCounted s h b x v) where
  voices := by simp [answerCounted, answerWritten]
  clips := by simp [answerCounted, answerWritten]
  programs := by simp [answerCounted, answerWritten]
  generations := by simp [answerCounted, answerWritten]
  now := by simp [answerCounted, answerWritten]
  calls y := by simp only [answerCounted, answerWritten, setCallRec_calls, count_calls, setAgentRec_calls, tableInsert_tableInsert]
  notices hn := by
    have hnotices : (answerCounted s h b x v).notices = s.notices := by simp [answerCounted, answerWritten]
    rw [noticesOf, hnotices]
    exact ⟨by omega, rfl⟩

/-! ### ANSWER -/

/-- An ANSWER that names an agent of the part is taken when the call is OFFERED to it, and else refused. -/
theorem handleAnswer_of_call {handle agent : BitVec 16} (hx : callOf s handle.toNat = some x) (hb : agent.toNat < 512) :
    handleAnswer handle agent s = withOffer handle.toNat agent.toNat x (fun s =>
      (connectCall handle.toNat agent.toNat x s, .accept false [f2 handle.toNat, f2 agent.toNat, f4 (waitOf s x),
        f1 (bit (decide (waitOf s x ≤ (queueOf s x.queue).settings.serviceThreshold)))])) s := by
  rw [handleAnswer, withCall_of_some hx, if_neg (by omega)]

/-- Settles O37: the answer written and counted, then the call taken off its voice. -/
theorem answerConnectsTheCall : Obligations.AnswerConnectsTheCall := by
  intro h a x s ht hs hx ha
  have handled := handleAnswer_of_call hx ha
  have exec_of {t : State} {r : Answer} (hr : handleAnswer h a s = (t, r)) : exec (.answer h a) s = .next (answered 0x22 t r) :=
    exec_service ht hs rfl rfl hr
  refine ⟨fun d v hst hv => ?_, fun b d hst hb => ?_, fun hst => ?_, fun t hst => ?_⟩
  · have audio := audioOnly_detach h.toNat (answerCounted s h.toNat a.toNat x v)
    have hcalls := callOf_answerCounted hx a.toNat v
    have hcall : callOf (answerCounted s h.toNat a.toNat x v) h.toNat = some (connectedCall s x) := by rw [hcalls, if_pos rfl]
    obtain ⟨hready, hdue, hout⟩ := answerCounted_frame s h.toNat a.toNat x v
    refine ⟨detach h.toNat (answerCounted s h.toNat a.toNat x v), exec_of ?_, ?_, ?_, ?_, ?_, fun q hq => ?_, fun b hb => ?_,
      fun k hk => ?_, audio.readyList.trans hready, audio.due.trans hdue, (outsideTraffic_of_audio audio).trans hout⟩
    · rw [handled, withOffer, hst]
      simp only [if_true, connectCall_eq hx hv, bit_eq_ite, decide_eq_true_eq]
      rfl
    · rw [callOf_detach_self hcall rfl]
      rfl
    · rw [audio.agentOf, agentOf_answerCounted, if_pos rfl]
      rfl
    · rw [audio.queueOf, queueOf_answerCounted, if_pos rfl]
      rfl
    · exact takenOffVoice_detach (audioKept_answerCounted ..) hcall ⟨_, rfl⟩
    · rw [audio.queueOf, queueOf_answerCounted, if_neg hq]
    · rw [audio.agentOf, agentOf_answerCounted, if_neg hb]
    · rw [audio.callOf, hcalls, if_neg (fun e => hk (by rw [e]))]
  · refine exec_of ?_
    rw [handled, withOffer, pairedAgent, hst]
    exact if_neg hb
  · refine exec_of ?_
    rw [handled, withOffer, pairedAgent]
    cases hs' : x.status with
    | waiting => rfl
    | diverting done => rfl
    | offered b d => simp [isWaiting, isDiverting, hs'] at hst
    | connected t => simp [isWaiting, isDiverting, hs'] at hst
  · refine exec_of ?_
    rw [handled, withOffer, pairedAgent, hst]
    rfl

end

end Sys2Proof.Machine
end

-- ==== Sys2Proof/Proofs/Wraps ====
section
/-! The wraps (04): SET DISPOSITION, EXTEND WRAP, RELEASE, WRAP DONE and the expiry of a wrap (R79 to R94). -/

namespace Sys2Proof.Machine

section
variable {s : State} {a : Nat} {v : Agent} {w : WrapRecord} {p : Option Nat}

/-! ### Orders that need the agent in WRAP -/

theorem withWrap_of_wrap (hv : agentOf s a = some v) (hst : v.status = .wrap w p)
    (k : Agent → WrapRecord → Option Nat → State → State × Answer) : withWrap a k s = k v w p s := by
  simp only [withWrap, hv, hst]

theorem withWrap_of_not_wrap (h : agentStateCode (agentOf s a) ≠ 5)
    (k : Agent → WrapRecord → Option Nat → State → State × Answer) :
    withWrap a k s = (s, .refuse .wrongState 1 (agentStateCode (agentOf s a))) := by
  unfold withWrap
  split
  · rfl
  · next v hv =>
    split
    · next w p hst => exact absurd (by rw [hv, agentStateCode, hst]) h
    all_goals rfl

/-- Settles O46: the checks in their order, then the code written. -/
theorem setDispositionStoresTheCode : Obligations.SetDispositionStoresTheCode := by
  intro a code s ht
  refine ⟨fun hs => ?_, fun hs => ?_⟩
  · rw [exec_answered (kind := 0x36) ht rfl rfl, serviceOnly, if_neg (by simp [hs])]
    rfl
  have exec_of {t : State} {r : Answer} (h : handleSetDisposition a code s = (t, r)) :
      exec (.setDisposition a code) s = .next (answered 0x36 t r) := exec_service ht hs rfl rfl h
  have hcode (hc : code ≠ 0) : code.toNat ≠ 0 := BitVec.toNat_ne.1 hc
  refine ⟨fun ha => exec_of ?_, fun ha hc => exec_of ?_, fun ha hc hst => exec_of ?_, fun ha hc v w p hv hst => exec_of ?_⟩
  · rw [handleSetDisposition, if_pos ha]; rfl
  · rw [handleSetDisposition, if_neg (by omega), if_pos (by rw [hc]; rfl)]; rfl
  · rw [handleSetDisposition, if_neg (by omega), if_neg (hcode hc), withWrap_of_not_wrap hst]
  · rw [handleSetDisposition, if_neg (by omega), if_neg (hcode hc), withWrap_of_wrap hv hst]

/-! ### EXTEND WRAP (R87, R88) -/

/-- A deadline that lies below the cap and moves by no more than an extension's greatest length does not pass 2^32 tu from the
wrap's start. -/
theorem wrapDistance_timeAfter {n : Nat} (h : wrapDistance w w.deadline < 18000) (hn : n ≤ 1200) :
    wrapDistance w (timeAfter w.deadline n) = wrapDistance w w.deadline + n := by
  unfold wrapDistance timeAfter at *
  have e : w.deadline + BitVec.ofNat 32 n - w.start = w.deadline - w.start + BitVec.ofNat 32 n := by
    rw [BitVec.sub_eq_add_neg, BitVec.sub_eq_add_neg, BitVec.add_assoc, BitVec.add_comm (BitVec.ofNat 32 n), ← BitVec.add_assoc]
  rw [e, BitVec.toNat_add, BitVec.toNat_ofNat]
  omega

/-- The deadline at the cap is the cap's distance away. -/
theorem wrapDistance_cap (w : WrapRecord) : wrapDistance w (timeAfter w.start Config.wrapCap) = 18000 := by
  unfold wrapDistance timeAfter
  rw [BitVec.add_comm, BitVec.add_sub_cancel]
  rfl

/-- Whether an extension by `n` passes the cap. -/
def extensionCapped (w : WrapRecord) (n : Nat) : Bool := decide (Config.wrapCap < wrapDistance w (timeAfter w.deadline n))

/-- The deadline of a wrap after an extension by `n`. -/
def extendedDeadline (w : WrapRecord) (n : Nat) : Time :=
  if extensionCapped w n then timeAfter w.start Config.wrapCap else timeAfter w.deadline n

theorem extensionCapped_iff {n : Nat} (h : wrapDistance w w.deadline < 18000) (hn : n ≤ 1200) :
    extensionCapped w n = true ↔ 18000 < wrapDistance w w.deadline + n := by
  rw [extensionCapped, decide_eq_true_iff, wrapDistance_timeAfter h hn]; rfl

theorem wrapDistance_extendedDeadline {n : Nat} (h : wrapDistance w w.deadline < 18000) (hn : n ≤ 1200) :
    wrapDistance w (extendedDeadline w n) = min 18000 (wrapDistance w w.deadline + n) := by
  have hiff := extensionCapped_iff h hn
  unfold extendedDeadline
  split
  · next hc => rw [wrapDistance_cap]; have := hiff.1 hc; omega
  · next hc => rw [wrapDistance_timeAfter h hn]; have := mt hiff.2 hc; omega

/-- The state after an accepted extension. -/
def wrapExtended (s : State) (a : Nat) (v : Agent) (w : WrapRecord) (p : Option Nat) (n : Nat) : State :=
  let t := setAgentRec s a { v with status := .wrap { w with deadline := extendedDeadline w n, extensions := w.extensions + 1 } p }
  { t with due := { t.due with wraps := t.due.wraps.filter fun b => b != a } }

/-- EXTEND WRAP of an agent in WRAP: its checks in their order, then the extension. -/
theorem handleExtendWrap_of_wrap {agent : BitVec 16} (ha : agent.toNat < 512) (hv : agentOf s agent.toNat = some v)
    (hst : v.status = .wrap w p) : handleExtendWrap agent s =
      (let q := queueOf s w.queue
       if q.surge then (s, .refuse .surge 0 w.queue)
       else if q.settings.maxExtensions ≤ w.extensions then (s, .refuse .limit 0 1)
       else if Config.wrapCap ≤ wrapDistance w w.deadline then (s, .refuse .limit 0 2)
       else (wrapExtended s agent.toNat v w p q.settings.extensionLength,
         .accept (extensionCapped w q.settings.extensionLength) [f2 agent.toNat,
           f4 (extendedDeadline w q.settings.extensionLength).toNat, f1 (w.extensions + 1), f4 (wrapTime s w)])) := by
  rw [handleExtendWrap, if_neg (by omega), withWrap_of_wrap hv hst]
  rfl

/-- Settles O47. -/
theorem extendWrapMovesTheDeadline : Obligations.ExtendWrapMovesTheDeadline := by
  intro a v w p s ht hs ha hv hst
  have handled := handleExtendWrap_of_wrap ha hv hst
  have exec_of {t : State} {r : Answer} (h : handleExtendWrap a s = (t, r)) :
      exec (.extendWrap a) s = .next (answered 0x37 t r) := exec_service ht hs rfl rfl h
  refine ⟨fun hsurge => exec_of ?_,
    fun hsurge => ⟨fun hmax => exec_of ?_, fun hmax => ⟨fun hcap => exec_of ?_, fun hcap hlen => ?_⟩⟩⟩
  · rw [handled]
    exact if_pos hsurge
  · rw [handled]
    dsimp only
    rw [if_neg (by simp [hsurge]), if_pos hmax]
  · rw [handled]
    dsimp only
    rw [if_neg (by simp [hsurge]), if_neg (by omega), if_pos (show Config.wrapCap ≤ wrapDistance w w.deadline from hcap)]
  · refine ⟨wrapExtended s a.toNat v w p (queueOf s w.queue).settings.extensionLength, _, _, exec_of ?_, ?_,
      wrapDistance_extendedDeadline hcap hlen, extensionCapped_iff hcap hlen, fun b hb => agentOf_setAgentRec_other hb .., rfl⟩
    · rw [handled]
      dsimp only
      rw [if_neg (by simp [hsurge]), if_neg (by omega),
        if_neg (show ¬ Config.wrapCap ≤ wrapDistance w w.deadline from Nat.not_le.2 hcap)]
      rfl
    · exact agentOf_setAgentRec_self ..

/-! ### RELEASE (R79 to R82) -/

theorem callOf_releaseWritten (s : State) (h b : Nat) (v : Agent) (x : Call) (w : WrapRecord) :
    callOf (releaseWritten s h b v x w) h = none ∧
      ∀ k, slotOf k ≠ slotOf h → callOf (releaseWritten s h b v x w) k = callOf s k :=
  ⟨callOf_freeCall_of_eq _ rfl, fun _ hk => callOf_freeCall_of_ne _ hk⟩

theorem queueOf_releaseWritten (s : State) (h b : Nat) (v : Agent) (x : Call) (w : WrapRecord) (q : Nat) :
    queueOf (releaseWritten s h b v x w) q = if q = x.queue then { queueOf s x.queue with
      counters := { (queueOf s x.queue).counters with completed := sat16 ((queueOf s x.queue).counters.completed + 1) } }
      else queueOf s q := by
  rw [releaseWritten, queueOf_setAgentRec, queueOf_freeCall, queueOf_count]

theorem releaseWritten_frame (s : State) (h b : Nat) (v : Agent) (x : Call) (w : WrapRecord) :
    { releaseWritten s h b v x w with
      calls := s.calls, generations := s.generations, queues := s.queues, agents := s.agents } = s := by
  simp [releaseWritten]

/-- RELEASE of a CONNECTED call that an agent holds. -/
theorem handleRelease_of_connected {h : BitVec 16} {c : Call} {t : Time} (hc : callOf s h.toNat = some c)
    (hst : c.status = .connected t) (hold : agentHolding s h.toNat = some a) (hv : agentOf s a = some v) :
    handleRelease h s =
      (let x := releaseCall h.toNat a v c (s.now - t) s
       (x, .accept false [f2 h.toNat, f2 a, f4 (s.now - t).toNat, f2 (wrapAllowanceOf (queueOf s c.queue)),
         f4 (newWrap s c.queue (s.now - t)).deadline.toNat, f1 (agentStateCode (agentOf x a)),
         f1 (if agentStateCode (agentOf x a) = 3 then 1 else 0)])) := by
  rw [handleRelease, withCall_of_some hc]
  simp only [hst, hold, hv, Option.bind_some, Option.map_some, bit_eq_ite, beq_iff_eq]

theorem handleRelease_of_not_connected {h : BitVec 16} {c : Call} (hc : callOf s h.toNat = some c) (hst : callStateCode c.status ≠ 4) :
    handleRelease h s = (s, .refuse .wrongState 1 (callStateCode c.status)) := by
  rw [handleRelease, withCall_of_some hc]
  cases hcs : c.status with
  | connected t => exact absurd (by rw [hcs]; rfl) hst
  | waiting => rfl
  | diverting d => rfl
  | offered b d => rfl

/-- Settles O39: the call freed and the wrap begun, which ends as an expiry when its allowance is 0. -/
theorem releaseStartsTheWrap : Obligations.ReleaseStartsTheWrap := by
  intro h c s ht hs hc
  have exec_of {t : State} {r : Answer} (hr : handleRelease h s = (t, r)) : exec (.release h) s = .next (answered 0x24 t r) :=
    exec_service ht hs rfl rfl hr
  refine ⟨fun t a v p hst hold hv htalk => ?_, fun hst => exec_of (handleRelease_of_not_connected hc hst)⟩
  have handled := handleRelease_of_connected hc hst hold hv
  have hp : pendingReasonOf v = p := by rw [pendingReasonOf, htalk]
  obtain ⟨hgone, hothers⟩ := callOf_releaseWritten s h.toNat a v c (newWrap s c.queue (s.now - t))
  have hagent : agentOf (releaseWritten s h.toNat a v c (newWrap s c.queue (s.now - t))) a =
      some { v with status := .wrap (newWrap s c.queue (s.now - t)) p } := by
    rw [releaseWritten, agentOf_setAgentRec_self, hp]
  refine ⟨releaseWritten s h.toNat a v c (newWrap s c.queue (s.now - t)), newWrap s c.queue (s.now - t), rfl, rfl, rfl, rfl, rfl, rfl,
    hagent, hgone, ?_, fun q hq => ?_, fun b hb => agentOf_setAgentRec_other hb .., hothers, releaseWritten_frame ..,
    fun hw => ?_, fun hw => ⟨_, rfl, ?_⟩⟩
  · rw [queueOf_releaseWritten, if_pos rfl]; rfl
  · rw [queueOf_releaseWritten, if_neg hq]
  · refine exec_of ?_
    rw [handled, releaseCall_eq, if_neg hw]
    dsimp only
    rw [hagent]
    rfl
  · refine exec_of ?_
    have hdeadline : (newWrap s c.queue (s.now - t)).deadline = s.now := by
      rw [newWrap, hw, timeAfter]; exact BitVec.add_zero _
    rw [handled, releaseCall_eq, if_pos hw, hp, hw, hdeadline]

/-! ### The end of a wrap, before the agent is matched (R84) -/

/-- Where a wrap end takes an agent that stays logged in: NOT_READY with a reason, or READY without one. -/
def outcomeOf : Option Nat → WrapOutcome
  | none => .ready
  | some r => .notReady r

/-- The agent's status after a wrap end. -/
def statusAfterWrap (s : State) : Option Nat → AgentStatus
  | none => .ready s.readies none
  | some r => .notReady r

/-- The state after the sample and the agent's move of a wrap end. -/
def afterWrap (s : State) (a : Nat) (v : Agent) (w : WrapRecord) (goesTo : Option Nat) : State :=
  enterOutcome (takeSample s w.queue (wrapSample s w)) a v (outcomeOf goesTo)

theorem agentOf_afterWrap (s : State) (a : Nat) (v : Agent) (w : WrapRecord) (g : Option Nat) (b : Nat) :
    agentOf (afterWrap s a v w g) b = if b = a then some { v with status := statusAfterWrap s g } else agentOf s b := by
  cases g with
  | none => exact agentOf_enterReady ..
  | some r => exact agentOf_setAgentRec ..

theorem queueOf_afterWrap (s : State) (a : Nat) (v : Agent) (w : WrapRecord) (g : Option Nat) (q : Nat) :
    queueOf (afterWrap s a v w g) q = if q = w.queue then { queueOf s w.queue with
      aht16 := foldSample (queueOf s w.queue).aht16 (queueOf s w.queue).settings.smoothingShift (wrapSample s w) }
      else queueOf s q := by
  cases g <;> exact queueOf_takeSample ..

theorem afterWrap_readyList (s : State) (a : Nat) (v : Agent) (w : WrapRecord) (g : Option Nat) :
    (afterWrap s a v w g).readyList = if g = none then s.readyList ++ [a] else s.readyList := by
  cases g <;> rfl

theorem afterWrap_frame (s : State) (a : Nat) (v : Agent) (w : WrapRecord) (g : Option Nat) :
    { afterWrap s a v w g with agents := s.agents, queues := s.queues, readyList := s.readyList, readies := s.readies } = s := by
  cases g <;> rfl

theorem afterWrap_keeps (s : State) (a : Nat) (v : Agent) (w : WrapRecord) (g : Option Nat) :
    (afterWrap s a v w g).due = s.due ∧ (afterWrap s a v w g).calls = s.calls ∧ (afterWrap s a v w g).notices = s.notices ∧
      (afterWrap s a v w g).now = s.now := by
  cases g <;> exact ⟨rfl, rfl, rfl, rfl⟩

/-- A wrap end that an order asks for. -/
theorem endWrap_eq_of_order (s : State) (a : Nat) (v : Agent) (w : WrapRecord) (g : Option Nat) :
    endWrap a v w (outcomeOf g) false s = if g = none then matchAgent a (afterWrap s a v w g) else afterWrap s a v w g := by
  cases g <;> rfl

/-- The state after a wrap's expiry is told, before the agent is matched (R86). -/
def wrapExpiryTold (s : State) (a : Nat) (v : Agent) (w : WrapRecord) (g : Option Nat) : State :=
  notify 0x84 [f2 a, f1 w.queue, f1 (if g = none then 0 else 1), f1 (g.getD 255), f2 ((w.disposition.map (·.toNat)).getD 0),
    f4 w.talkTime.toNat, f4 (wrapTime s w), f1 w.extensions] (afterWrap s a v w g)

theorem endWrap_eq_of_expiry (s : State) (a : Nat) (v : Agent) (w : WrapRecord) (g : Option Nat) :
    endWrap a v w (outcomeOf g) true s =
      if g = none then matchAgent a (wrapExpiryTold s a v w g) else wrapExpiryTold s a v w g := by
  cases g <;> rfl

/-! ### WRAP DONE (R90, R91) -/

/-- The reason a WRAP DONE takes its agent to NOT_READY with, none when it goes READY. -/
def doneReason (options reason : BitVec 8) (p : Option Nat) : Option Nat :=
  if optionBit options 1 then some reason.toNat else p

theorem doneOutcome_eq (options reason : BitVec 8) (p : Option Nat) :
    doneOutcome options reason p = outcomeOf (doneReason options reason p) := by
  unfold doneOutcome doneReason
  split
  · rfl
  · cases p <;> rfl

theorem outcomeReason_outcomeOf (g : Option Nat) : outcomeReason (outcomeOf g) = g.getD 255 := by cases g <;> rfl

/-- A code that WRAP DONE carries changes the disposition alone. -/
theorem withCode_keeps (s : State) (w : WrapRecord) (options : BitVec 8) (code : BitVec 16) :
    (withCode w options code).queue = w.queue ∧ (withCode w options code).talkTime = w.talkTime ∧
      wrapTime s (withCode w options code) = wrapTime s w ∧ wrapSample s (withCode w options code) = wrapSample s w := by
  unfold withCode; split <;> exact ⟨rfl, rfl, rfl, rfl⟩

/-- The code that WRAP DONE tells: its own, or else the one of the record, 0 without one. -/
theorem withCode_held (w : WrapRecord) (options : BitVec 8) (code : BitVec 16) :
    ((withCode w options code).disposition.map (·.toNat)).getD 0 =
      if options.getLsbD 0 then code.toNat else (w.disposition.map (·.toNat)).getD 0 := by
  cases h : options.getLsbD 0 <;> (rw [withCode, optionBit, h]; rfl)

/-- The sample and the agent's move do not look at the disposition. -/
theorem afterWrap_withCode (s : State) (a : Nat) (v : Agent) (w : WrapRecord) (g : Option Nat) (options : BitVec 8) (code : BitVec 16) :
    afterWrap s a v (withCode w options code) g = afterWrap s a v w g := by
  obtain ⟨hq, -, -, hsample⟩ := withCode_keeps s w options code
  rw [afterWrap, hq, hsample, afterWrap]

/-- WRAP DONE with fields in their ranges, of an agent in WRAP. -/
theorem handleWrapDone_of_wrap {agent code : BitVec 16} {options reason : BitVec 8} (ha : agent.toNat < 512) (ho : options.toNat ≤ 7)
    (hcode : options.getLsbD 0 = true → code ≠ 0) (hr : options.getLsbD 1 = true → reason.toNat ≤ 199)
    (hv : agentOf s agent.toNat = some v) (hst : v.status = .wrap w p) : handleWrapDone agent options code reason s =
      (if (queueOf s w.queue).settings.dispositionRequired = true ∧ options.getLsbD 0 = false ∧ w.disposition = none ∧
          options.getLsbD 2 = false then (s, .refuse .codeMissing 3 w.queue)
       else
         let g := doneReason options reason p
         let t := if g = none then matchAgent agent.toNat (afterWrap s agent.toNat v w g) else afterWrap s agent.toNat v w g
         (t, .accept false [f2 agent.toNat, f1 (agentStateCode (agentOf t agent.toNat)), f1 (g.getD 255),
           f2 (if options.getLsbD 0 then code.toNat else (w.disposition.map (·.toNat)).getD 0), f4 w.talkTime.toNat,
           f4 (wrapTime s w), f2 (wrapSample s w), f1 (if agentStateCode (agentOf t agent.toNat) = 3 then 1 else 0)])) := by
  rw [handleWrapDone, if_neg (by omega), if_neg (by omega), if_neg (fun h => BitVec.toNat_ne.1 (hcode h.1) h.2),
    if_neg (fun h => absurd (hr h.1) (by omega)), withWrap_of_wrap hv hst]
  refine if_congr ?_ rfl ?_
  · simp only [Bool.and_eq_true, Bool.not_eq_true', Option.isNone_iff_eq_none, optionBit, and_assoc]
  · obtain ⟨-, htalk, htime, hsample⟩ := withCode_keeps s w options code
    simp only [doneOutcome_eq, endWrap_eq_of_order, afterWrap_withCode, outcomeReason_outcomeOf, withCode_held, htalk, htime, hsample,
      agentOffered, bit_eq_ite, beq_iff_eq]

/-- Settles O48. -/
theorem wrapDoneEndsTheWrap : Obligations.WrapDoneEndsTheWrap := by
  intro a options code reason v w p s ht hs ha ho hcode hr hv hst missing held sample goesTo
  have handled := handleWrapDone_of_wrap ha ho hcode hr hv hst
  have exec_of {t : State} {r : Answer} (h : handleWrapDone a options code reason s = (t, r)) :
      exec (.wrapDone a options code reason) s = .next (answered 0x35 t r) := exec_service ht hs rfl rfl h
  refine ⟨fun hm => exec_of (handled.trans (if_pos hm)), fun hm => ?_⟩
  refine ⟨afterWrap s a.toNat v w goesTo, _, rfl, exec_of (handled.trans (if_neg hm)), ?_, fun q hq => ?_, fun b hb => ?_,
    fun r hg => ⟨?_, ?_, ?_⟩, fun hg => ⟨?_, ?_, ?_⟩, afterWrap_frame ..⟩
  · rw [queueOf_afterWrap, if_pos rfl]; rfl
  · rw [queueOf_afterWrap, if_neg hq]
  · rw [agentOf_afterWrap, if_neg hb]
  · rw [agentOf_afterWrap, if_pos rfl, hg]; rfl
  · rw [afterWrap_readyList, hg]; rfl
  · rw [hg]; rfl
  · rw [agentOf_afterWrap, if_pos rfl, hg]; rfl
  · rw [afterWrap_readyList, if_pos hg]
  · rw [hg]; rfl

/-! ### The expiry of a wrap (R85, R86) -/

/-- The reason an expiry takes its agent to NOT_READY with, none when it goes READY. -/
def expiryReason (s : State) (v : Agent) (w : WrapRecord) (p : Option Nat) : Option Nat :=
  if (queueOf s w.queue).settings.dispositionRequired = true ∧ w.disposition = none then some 241
  else p.orElse fun _ => if v.autoReady then none else some 242

theorem expiryOutcome_eq (s : State) (v : Agent) (w : WrapRecord) (p : Option Nat) :
    expiryOutcome s v w p = outcomeOf (expiryReason s v w p) := by
  unfold expiryOutcome expiryReason
  simp only [Bool.and_eq_true, Option.isNone_iff_eq_none]
  split
  · rfl
  · cases p with
    | some r => rfl
    | none => cases v.autoReady <;> rfl

/-- A wrap that is due, and that no command has taken, expires. -/
theorem execWrapExpiry_of_due {agent : BitVec 16} (hrun : running s = true) (hsync : s.syncPresent = true)
    (hdue : s.due.wraps.contains agent.toNat = true) (hv : agentOf s agent.toNat = some v) (hst : v.status = .wrap w p)
    (hd : reached s.now w.deadline = true) : exec (.wrapExpiry agent) s = .next (settle
      (expireWrap agent.toNat v w p { s with due := { s.due with wraps := s.due.wraps.erase agent.toNat } })) := by
  have hover : wrapDue s.now v = true := by simp only [wrapDue, wrapOf, hst, Option.map_some, hd, Option.getD_some]
  show execWrapExpiry agent s = _
  simp only [execWrapExpiry, hv, hst, inSync, hrun, hsync, hdue, hover, Bool.and_self, if_true]

theorem agentOf_wrapExpiryTold (s : State) (a : Nat) (v : Agent) (w : WrapRecord) (g : Option Nat) (b : Nat) :
    agentOf (wrapExpiryTold s a v w g) b = if b = a then some { v with status := statusAfterWrap s g } else agentOf s b := by
  rw [wrapExpiryTold, agentOf_notify, agentOf_afterWrap]

theorem queueOf_wrapExpiryTold (s : State) (a : Nat) (v : Agent) (w : WrapRecord) (g : Option Nat) (q : Nat) :
    queueOf (wrapExpiryTold s a v w g) q = queueOf (afterWrap s a v w g) q := queueOf_notify ..

theorem wrapExpiryTold_readyList (s : State) (a : Nat) (v : Agent) (w : WrapRecord) (g : Option Nat) :
    (wrapExpiryTold s a v w g).readyList = if g = none then s.readyList ++ [a] else s.readyList := by
  rw [wrapExpiryTold, notify_readyList, afterWrap_readyList]

/-- What lies outside the agents, the queues, the ready list and the notices is not moved by a wrap end. -/
theorem wrapExpiryTold_frame (s : State) (a : Nat) (v : Agent) (w : WrapRecord) (g : Option Nat) :
    (wrapExpiryTold s a v w g).due = s.due ∧ (wrapExpiryTold s a v w g).calls = s.calls ∧
      outsideMatching (wrapExpiryTold s a v w g) = outsideMatching s := by
  obtain ⟨hdue, hcalls, -, -⟩ := afterWrap_keeps s a v w g
  refine ⟨?_, ?_, ?_⟩
  · rw [wrapExpiryTold, notify_due, hdue]
  · rw [wrapExpiryTold, notify_calls, hcalls]
  · rw [wrapExpiryTold, outsideMatching_notify, afterWrap, outsideMatching_enterOutcome, outsideMatching_takeSample]

/-- The notice tells the state and the reason that the agent has. -/
theorem told_eq_of_status {u : State} {g : Option Nat} (h : agentOf u a = some { v with status := statusAfterWrap s g }) :
    (if agentStateCode (agentOf u a) = 2 then 0 else 1) = (if g = none then 0 else 1) ∧
      ((agentOf u a).bind reasonOf).getD 255 = g.getD 255 := by
  rw [h]
  cases g <;> exact ⟨rfl, rfl⟩

/-- Settles O12. -/
theorem wrapExpiryDecidesTheOutcome : Obligations.WrapExpiryDecidesTheOutcome := by
  intro a s v w p hrun hsync hdue hv hst hd
  obtain ⟨s', hs'⟩ : ∃ s', s' = { s with due := { s.due with wraps := s.due.wraps.erase a.toNat } } := ⟨_, rfl⟩
  obtain ⟨g, hg⟩ : ∃ g, g = expiryReason s v w p := ⟨_, rfl⟩
  obtain ⟨u, hu⟩ : ∃ u, u = wrapExpiryTold s' a.toNat v w g := ⟨_, rfl⟩
  have hexec : exec (.wrapExpiry a) s = .next (settle (if g = none then matchAgent a.toNat u else u)) := by
    rw [execWrapExpiry_of_due hrun hsync hdue hv hst hd, ← hs', expireWrap, expiryOutcome_eq, endWrap_eq_of_expiry, hu, hg, hs']
    rfl
  have hagents (b : Nat) : agentOf u b = if b = a.toNat then some { v with status := statusAfterWrap s g } else agentOf s b := by
    rw [hu, agentOf_wrapExpiryTold, hs']; rfl
  have hagent : agentOf u a.toNat = some { v with status := statusAfterWrap s g } := by rw [hagents, if_pos rfl]
  have hready : u.readyList = if g = none then s.readyList ++ [a.toNat] else s.readyList := by
    rw [hu, wrapExpiryTold_readyList, hs']
  have hqueues (q : Nat) : queueOf u q = queueOf (afterWrap s a.toNat v w g) q := by
    rw [hu, queueOf_wrapExpiryTold, queueOf_afterWrap, queueOf_afterWrap, hs']; rfl
  obtain ⟨hdues, hcalls, hout⟩ := wrapExpiryTold_frame s' a.toNat v w g
  have goes {r : Nat} (h : g = some r) : exec (.wrapExpiry a) s = .next (settle u) ∧
      agentOf u a.toNat = some { v with status := .notReady r } ∧ u.readyList = s.readyList := by
    rw [h] at hexec hagent hready
    exact ⟨hexec, hagent, hready⟩
  refine ⟨u, ?sample, ⟨fun hm => goes ?missing, fun r hm hp => goes ?pending, fun hm hp hauto => goes ?parked, fun hm hp hauto => ?ready⟩,
    fun hn => ?notice, fun b hb => ?others, fun q => ?record, fun q hq => ?average, ?due, ?calls, ?outside⟩
  case sample => rw [hqueues, queueOf_afterWrap, if_pos rfl]; rfl
  case missing => rw [hg, expiryReason, if_pos hm]
  case pending => rw [hg, expiryReason, if_neg hm, hp]; rfl
  case parked => rw [hg, expiryReason, if_neg hm, hp, hauto]; rfl
  case ready =>
    have hnone : g = none := by rw [hg, expiryReason, if_neg hm, hp, hauto]; rfl
    rw [hnone] at hexec hagent hready
    exact ⟨hexec, hagent, hready⟩
  case notice =>
    obtain ⟨hstate, hreason⟩ := told_eq_of_status hagent
    obtain ⟨-, -, hnotices, hnow⟩ := afterWrap_keeps s' a.toNat v w g
    have sameNotices : s'.notices = s.notices := by rw [hs']
    have sameNow : s'.now = s.now := by rw [hs']
    rw [hstate, hreason, hu, wrapExpiryTold, notify_of_lt (by rw [hnotices, sameNotices]; exact hn), hnotices, hnow,
      sameNotices, sameNow, wrapTime, since, sameNow]
  case others => rw [hagents, if_neg hb]
  case record =>
    rw [hqueues, queueOf_afterWrap]
    split
    · next e => rw [e]
    · rfl
  case average => rw [hqueues, queueOf_afterWrap, if_neg hq]
  case due => rw [hu, hdues, hs']
  case calls => rw [hu, hcalls, hs']
  case outside => rw [hu, hout, hs']; rfl

end

end Sys2Proof.Machine
end

-- ==== Sys2Proof/Proofs/WholeSecond ====
section
/-! The whole-second evaluation of the 64 queues, in whatever order (R93, R109 to R114). -/

namespace Sys2Proof.Machine

/-! ### Wraps that move -/

/-- The agent with its wrap record, if it has one, changed. -/
def mapWrap (f : WrapRecord → WrapRecord) (v : Agent) : Agent :=
  match v.status with
  | .wrap w p => { v with status := .wrap (f w) p }
  | _ => v

theorem mapWrap_of_wrap {v : Agent} {w : WrapRecord} {p : Option Nat} (h : v.status = .wrap w p) (f : WrapRecord → WrapRecord) :
    mapWrap f v = { v with status := .wrap (f w) p } := by
  simp only [mapWrap, h]

theorem mapWrap_of_not_wrap {v : Agent} (h : wrapOf v = none) (f : WrapRecord → WrapRecord) : mapWrap f v = v := by
  cases hs : v.status with
  | wrap w p => simp [wrapOf, hs] at h
  | notReady r => simp only [mapWrap, hs]
  | ready n d => simp only [mapWrap, hs]
  | offered g n => simp only [mapWrap, hs]
  | talking g p => simp only [mapWrap, hs]

/-- An agent is in WRAP, or has no wrap record. -/
theorem wrap_or_not (v : Agent) : (∃ w p, v.status = .wrap w p) ∨ wrapOf v = none := by
  cases hs : v.status with
  | wrap w p => exact .inl ⟨w, p, rfl⟩
  | notReady r => exact .inr (by rw [wrapOf, hs])
  | ready n d => exact .inr (by rw [wrapOf, hs])
  | offered g n => exact .inr (by rw [wrapOf, hs])
  | talking g p => exact .inr (by rw [wrapOf, hs])

theorem wrapOf_of_wrap {v : Agent} {w : WrapRecord} {p : Option Nat} (h : v.status = .wrap w p) : wrapOf v = some w := by
  rw [wrapOf, h]

theorem wrapOf_mapWrap (f : WrapRecord → WrapRecord) (v : Agent) : wrapOf (mapWrap f v) = (wrapOf v).map f := by
  rcases wrap_or_not v with ⟨w, p, h⟩ | h
  · rw [mapWrap_of_wrap h, wrapOf_of_wrap h]; rfl
  · rw [mapWrap_of_not_wrap h, h]; rfl

theorem mapWrap_mapWrap (f g : WrapRecord → WrapRecord) (v : Agent) : mapWrap g (mapWrap f v) = mapWrap (fun w => g (f w)) v := by
  rcases wrap_or_not v with ⟨w, p, h⟩ | h
  · rw [mapWrap_of_wrap h, mapWrap_of_wrap h]; exact mapWrap_of_wrap rfl g
  · rw [mapWrap_of_not_wrap h, mapWrap_of_not_wrap h, mapWrap_of_not_wrap h]

theorem mapWrap_eq_self {f : WrapRecord → WrapRecord} {v : Agent} (h : ∀ w p, v.status = .wrap w p → f w = w) : mapWrap f v = v := by
  rcases wrap_or_not v with ⟨w, p, hs⟩ | hs
  · rw [mapWrap_of_wrap hs, h w p hs, ← hs]
  · exact mapWrap_of_not_wrap hs f

/-! ### One queue -/

/-- The wrap record after an evaluation of queue `q`. -/
def cutAt (s : State) (q : Nat) (w : WrapRecord) : WrapRecord := if isCut s q w then { w with deadline := trimLimit s q } else w

theorem isCut_of_ne {s : State} {q : Nat} {w : WrapRecord} (h : w.queue ≠ q) : isCut s q w = false := by simp [isCut, h]

theorem cutAt_of_ne {s : State} {q : Nat} {w : WrapRecord} (h : w.queue ≠ q) : cutAt s q w = w := by simp [cutAt, isCut_of_ne h]

theorem cutAt_queue (s : State) (q : Nat) (w : WrapRecord) : (cutAt s q w).queue = w.queue := by
  unfold cutAt; split <;> rfl

/-- A surge entry that trims moves the wraps it cuts. -/
theorem trimmed_eq_mapWrap {s : State} {q : Nat} (h : trimsWraps s q = true) (v : Agent) :
    trimmed q (trimLimit s q) v = mapWrap (cutAt s q) v := by
  cases hs : v.status with
  | wrap w p =>
    rw [mapWrap_of_wrap hs, cutAt, isCut, h, Bool.true_and]
    simp only [trimmed, hs]
    split
    · rfl
    · rw [← hs]
  | notReady r => simp only [trimmed, mapWrap, hs]
  | ready n d => simp only [trimmed, mapWrap, hs]
  | offered g n => simp only [trimmed, mapWrap, hs]
  | talking g p => simp only [trimmed, mapWrap, hs]

/-- The agents after an evaluation: their wraps cut, and nothing else. -/
theorem evalSurge_agents (s : State) (q : Nat) : (evalSurge q s).agents = s.agents.map fun e => (e.1, mapWrap (cutAt s q) e.2) := by
  have same (h : trimsWraps s q = false) : s.agents = s.agents.map fun e => (e.1, mapWrap (cutAt s q) e.2) := by
    refine (List.map_id'' (fun e => ?_) _).symm
    rw [mapWrap_eq_self fun w p _ => by simp [cutAt, isCut, h]]
  cases he : entersSurge s q with
  | true =>
    rw [evalSurge_of_enters he]
    cases ht : (queueOf s q).settings.surgeTrim with
    | true =>
      have htrims : trimsWraps s q = true := by rw [trimsWraps, he, ht]; rfl
      have hlimit : trimLimit (flagged s q true) q = trimLimit s q := by rw [trimLimit, queueOf_flagged]; rfl
      have trims : (trimWraps (flagged s q true) q).agents =
          s.agents.map fun e => (e.1, trimmed q (trimLimit (flagged s q true) q) e.2) := rfl
      simp only [enterSurge, ht, if_true, surgeNotice, notify_agents]
      refine trims.trans (List.map_congr_left fun e _ => ?_)
      rw [hlimit, trimmed_eq_mapWrap htrims]
    | false =>
      simp only [enterSurge, ht, Bool.false_eq_true, if_false, surgeNotice, notify_agents]
      exact same (by rw [trimsWraps, ht, Bool.and_false])
  | false =>
    have hstay := same (by rw [trimsWraps, he, Bool.false_and])
    cases hl : leavesSurge s q with
    | true =>
      rw [evalSurge_of_leaves hl, leaveSurge, surgeNotice, notify_agents]
      exact hstay
    | false =>
      rw [evalSurge_of_stays he hl]
      exact hstay

/-- The record of a queue after its evaluation. -/
def evaluatedQueue (s : State) (q : Nat) : Queue :=
  { queueOf s q with surge := if (queueOf s q).surge then !leavesSurge s q else entersSurge s q }

theorem queueOf_evalSurge (s : State) (q j : Nat) :
    queueOf (evalSurge q s) j = if j = q then evaluatedQueue s q else queueOf s j := by
  have h := evalSurge_surge s q
  rw [(evalSurge_spec q s).1] at h ⊢
  split
  · rw [if_pos rfl] at h; rw [evaluatedQueue, ← h]
  · rfl

/-- The two states agree on what an evaluation of queue `q` looks at. -/
structure SameQueue (s t : State) (q : Nat) : Prop where
  queue : queueOf t q = queueOf s q
  now : t.now = s.now
  calls : ∀ h, callOf t h = callOf s h

section
variable {s t : State} {q : Nat}

theorem SameQueue.oldestWait (h : SameQueue s t q) : oldestWait t q = oldestWait s q :=
  SameLine.oldestWait ⟨by rw [h.queue], h.now, h.calls⟩

theorem SameQueue.countMet (h : SameQueue s t q) : countMet t q = countMet s q := by
  rw [Machine.countMet, h.queue]; rfl

theorem SameQueue.waitMet (h : SameQueue s t q) : waitMet t q = waitMet s q := by
  rw [Machine.waitMet, h.queue, h.oldestWait]; rfl

theorem SameQueue.entersSurge (h : SameQueue s t q) : entersSurge t q = entersSurge s q := by
  rw [Machine.entersSurge, h.queue, h.countMet, h.waitMet]; rfl

theorem SameQueue.leavesSurge (h : SameQueue s t q) : leavesSurge t q = leavesSurge s q := by
  rw [Machine.leavesSurge, exitMet, h.queue, h.oldestWait]; rfl

theorem SameQueue.trimsWraps (h : SameQueue s t q) : trimsWraps t q = trimsWraps s q := by
  rw [Machine.trimsWraps, h.entersSurge, h.queue]; rfl

theorem SameQueue.trimLimit (h : SameQueue s t q) : trimLimit t q = trimLimit s q := by
  rw [Machine.trimLimit, h.now, h.queue]; rfl

theorem SameQueue.isCut (h : SameQueue s t q) : isCut t q = isCut s q := by
  funext w
  rw [Machine.isCut, h.trimsWraps, h.trimLimit]; rfl

theorem SameQueue.cutAt (h : SameQueue s t q) : cutAt t q = cutAt s q := by
  funext w
  rw [Machine.cutAt, h.isCut, h.trimLimit]; rfl

theorem SameQueue.evaluatedQueue (h : SameQueue s t q) : evaluatedQueue t q = evaluatedQueue s q := by
  rw [Machine.evaluatedQueue, h.queue, h.leavesSurge, h.entersSurge]; rfl

/-- The notice tells the same when as many wraps are cut. -/
theorem SameQueue.surgeFrame (h : SameQueue s t q)
    (hcut : (t.agents.countP fun e => wrapHas (Machine.isCut t q) e.2) = s.agents.countP fun e => wrapHas (Machine.isCut s q) e.2) :
    surgeFrame t q = surgeFrame s q := by
  rw [countP_isCut, countP_isCut] at hcut
  rw [Machine.surgeFrame, h.now, h.entersSurge, h.countMet, h.waitMet, h.queue, h.oldestWait, hcut]; rfl

end

/-! ### The measures as propositions (R93, R111, R112) -/

theorem countMet_eq_decide (s : State) (q : Nat) : countMet s q = decide ((queueOf s q).settings.surgeCount ≠ 0 ∧
    (queueOf s q).settings.surgeCount ≤ (queueOf s q).waiting.length) := by
  rw [Bool.decide_and]; simp [countMet, bne, beq_eq_decide]

theorem waitMet_eq_decide (s : State) (q : Nat) : waitMet s q = decide ((queueOf s q).settings.surgeWait ≠ 0 ∧
    (queueOf s q).settings.surgeWait ≤ oldestWait s q) := by
  rw [Bool.decide_and]; simp [waitMet, bne, beq_eq_decide]

theorem exitMet_eq_decide (s : State) (q : Nat) : exitMet s q = decide (((queueOf s q).settings.surgeCount = 0 ∨
    (queueOf s q).waiting.length ≤ 3 * (queueOf s q).settings.surgeCount / 4) ∧ ((queueOf s q).settings.surgeWait = 0 ∨
    oldestWait s q ≤ 3 * (queueOf s q).settings.surgeWait / 4)) := by
  rw [Bool.decide_and, Bool.decide_or, Bool.decide_or]; simp [exitMet, beq_eq_decide]

/-- Whether a wrap is cut by the entry of its own queue. -/
theorem isCut_own (s : State) (w : WrapRecord) : isCut s w.queue w = (entersSurge s w.queue &&
    (queueOf s w.queue).settings.surgeTrim &&
      decide (w.deadline ≠ trimLimit s w.queue ∧ (w.deadline - trimLimit s w.queue).msb = false)) := by
  rw [isCut, trimsWraps, later, Bool.decide_and]; simp [beq_eq_decide, bne]

/-! ### The queues evaluated so far -/

/-- The wrap record after the evaluations of the queues `done`. -/
def cutIn (s : State) (done : List Nat) (w : WrapRecord) : WrapRecord := if w.queue ∈ done then cutAt s w.queue w else w

theorem cutIn_queue (s : State) (done : List Nat) (w : WrapRecord) : (cutIn s done w).queue = w.queue := by
  unfold cutIn; split
  · exact cutAt_queue ..
  · rfl

/-- The evaluations of other queues decide nothing of what a queue's own cuts. -/
theorem isCut_cutIn {s : State} {q : Nat} {done : List Nat} (hq : q ∉ done) (w : WrapRecord) :
    isCut s q (cutIn s done w) = isCut s q w := by
  by_cases hw : w.queue = q
  · rw [cutIn, if_neg (hw ▸ hq)]
  · rw [isCut_of_ne hw, isCut_of_ne (by rwa [cutIn_queue])]

theorem cutAt_cutIn {s : State} {q : Nat} {done : List Nat} (hq : q ∉ done) (w : WrapRecord) :
    cutAt s q (cutIn s done w) = cutIn s (done ++ [q]) w := by
  by_cases hw : w.queue = q
  · rw [cutIn, if_neg (hw ▸ hq), cutIn, if_pos (by simp [hw]), hw]
  · rw [cutAt_of_ne (by rwa [cutIn_queue])]
    exact if_congr (by simp [hw]) rfl rfl

/-- `t` is `s` after one evaluation of each of the queues `done`, each as if it were the first. -/
structure EvaluatedIn (s t : State) (done : List Nat) : Prop where
  queues : ∀ q, queueOf t q = if q ∈ done then evaluatedQueue s q else queueOf s q
  agents : t.agents = s.agents.map fun e => (e.1, mapWrap (cutIn s done) e.2)
  wraps : tableRising s.agents = true → ∀ a, a ∈ t.due.wraps ↔ a ∈ s.due.wraps ∧
    ∀ v w p, agentOf s a = some v → v.status = .wrap w p → w.queue ∈ done → isCut s w.queue w = false
  notices : s.notices.length + done.length ≤ 256 → t.notices =
    s.notices ++ (done.filter fun q => entersSurge s q || leavesSurge s q).map (surgeFrame s)
  surge : t.due.surge = s.due.surge
  calls : t.calls = s.calls
  readyList : t.readyList = s.readyList
  readies : t.readies = s.readies
  outside : outsideMatching t = outsideMatching s

theorem EvaluatedIn.nil (s : State) : EvaluatedIn s s [] where
  queues q := by simp
  agents := (List.map_id'' (fun e => by rw [mapWrap_eq_self fun w p _ => by simp [cutIn]]) _).symm
  wraps _ a := by simp
  notices _ := by simp
  surge := rfl
  calls := rfl
  readyList := rfl
  readies := rfl
  outside := rfl

section
variable {s t : State} {q : Nat} {done : List Nat}

theorem EvaluatedIn.agentOf (h : EvaluatedIn s t done) (a : Nat) : agentOf t a = (agentOf s a).map (mapWrap (cutIn s done)) := by
  rw [Machine.agentOf, h.agents]
  exact tableFind_map s.agents (fun _ => mapWrap (cutIn s done)) a

theorem EvaluatedIn.sameQueue (h : EvaluatedIn s t done) (hq : q ∉ done) : SameQueue s t q where
  queue := by rw [h.queues, if_neg hq]
  now := by simpa [outsideMatching] using congrArg State.now h.outside
  calls := callOf_congr h.calls (by simpa [outsideMatching] using congrArg State.generations h.outside)

/-- As many wraps of a queue are cut after the evaluations of others. -/
theorem EvaluatedIn.countP_isCut (h : EvaluatedIn s t done) (hq : q ∉ done) :
    (t.agents.countP fun e => wrapHas (isCut t q) e.2) = s.agents.countP fun e => wrapHas (isCut s q) e.2 := by
  rw [h.agents, List.countP_map]
  refine List.countP_congr fun e _ => ?_
  have hfun : (fun w => isCut s q (cutIn s done w)) = isCut s q := funext fun w => isCut_cutIn hq w
  simp only [Function.comp_apply, wrapHas, wrapOf_mapWrap, (h.sameQueue hq).isCut, Option.map_map, Function.comp_def, hfun]

theorem EvaluatedIn.surgeFrame (h : EvaluatedIn s t done) (hq : q ∉ done) : surgeFrame t q = surgeFrame s q :=
  (h.sameQueue hq).surgeFrame (h.countP_isCut hq)

/-- The wraps that one more evaluation leaves due. -/
theorem EvaluatedIn.mem_wraps_evalSurge (h : EvaluatedIn s t done) (hq : q ∉ done) (hr : tableRising s.agents = true) (a : Nat) :
    a ∈ (evalSurge q t).due.wraps ↔ a ∈ s.due.wraps ∧
      ∀ v w p, Machine.agentOf s a = some v → v.status = .wrap w p → w.queue ∈ done ++ [q] → isCut s w.queue w = false := by
  have hrt : tableRising t.agents = true := by rw [h.agents]; exact tableRising_map _ (fun _ => rfl) hr
  have hown : (∀ v w p, Machine.agentOf t a = some v → v.status = .wrap w p → isCut t q w = false) ↔
      ∀ v w p, Machine.agentOf s a = some v → v.status = .wrap w p → isCut s q w = false := by
    rw [h.agentOf, (h.sameQueue hq).isCut]
    refine ⟨fun hc v w p hv hs => ?_, fun hc v w p hv hs => ?_⟩
    · rw [← isCut_cutIn hq]
      exact hc _ _ p (by rw [hv]; rfl) (by rw [mapWrap_of_wrap hs])
    · obtain ⟨v₀, hv₀, rfl⟩ := Option.map_eq_some_iff.1 hv
      rcases wrap_or_not v₀ with ⟨w₀, p₀, hs₀⟩ | hnone
      · rw [mapWrap_of_wrap hs₀] at hs
        obtain ⟨rfl, -⟩ := AgentStatus.wrap.inj hs
        rw [isCut_cutIn hq]
        exact hc v₀ w₀ p₀ hv₀ hs₀
      · rw [mapWrap_of_not_wrap hnone] at hs
        rw [wrapOf_of_wrap hs] at hnone
        cases hnone
  rw [mem_due_wraps_evalSurge hrt, h.wraps hr, hown, and_assoc]
  refine and_congr_right fun _ => ⟨fun ⟨hd, hc⟩ v w p hv hs hw => ?_, fun hc => ⟨fun v w p hv hs hw => ?_, fun v w p hv hs => ?_⟩⟩
  · rcases List.mem_append.1 hw with hw | hw
    · exact hd v w p hv hs hw
    · rw [List.mem_singleton.1 hw]; exact hc v w p hv hs
  · exact hc v w p hv hs (List.mem_append_left _ hw)
  · by_cases hw : w.queue = q
    · rw [← hw]; exact hc v w p hv hs (by simp [hw])
    · exact isCut_of_ne hw

/-- One queue more. -/
theorem EvaluatedIn.evalSurge (h : EvaluatedIn s t done) (hq : q ∉ done) : EvaluatedIn s (evalSurge q t) (done ++ [q]) where
  queues j := by
    rw [queueOf_evalSurge, (h.sameQueue hq).evaluatedQueue, h.queues]
    by_cases hj : j = q
    · simp [hj]
    · simp [hj]
  agents := by
    have hfun : (fun w => Machine.cutAt s q (cutIn s done w)) = cutIn s (done ++ [q]) := funext fun w => cutAt_cutIn hq w
    rw [evalSurge_agents, (h.sameQueue hq).cutAt, h.agents, List.map_map]
    simp only [Function.comp_def, mapWrap_mapWrap, hfun]
  wraps hr a := h.mem_wraps_evalSurge hq hr a
  notices hn := by
    rw [List.length_append, List.length_singleton] at hn
    have before := h.notices (by omega)
    have room : t.notices.length < 256 := by
      have := List.length_filter_le (fun q => Machine.entersSurge s q || Machine.leavesSurge s q) done
      rw [before, List.length_append, List.length_map]
      omega
    rw [(evalSurge_moves t q).2.2 room, before, (h.sameQueue hq).entersSurge, (h.sameQueue hq).leavesSurge, h.surgeFrame hq,
      List.filter_append, List.map_append, List.append_assoc]
    cases hc : Machine.entersSurge s q || Machine.leavesSurge s q <;> simp [hc]
  surge := by
    obtain ⟨-, -, -, -, -, -, -, hsurge, -⟩ := evalSurge_spec q t
    rw [hsurge, h.surge]
  calls := by rw [evalSurge_calls, h.calls]
  readyList := by rw [evalSurge_readyList, h.readyList]
  readies := by rw [evalSurge_readies, h.readies]
  outside := by rw [outsideMatching_evalSurge, h.outside]

/-- Queues that are evaluated one after the other, none twice. -/
theorem EvaluatedIn.foldl (l : List Nat) : ∀ {t : State} {done : List Nat}, EvaluatedIn s t done → (done ++ l).Nodup →
    EvaluatedIn s (l.foldl (fun t q => Machine.evalSurge q t) t) (done ++ l) := by
  induction l with
  | nil => intro t done h _; rwa [List.append_nil]
  | cons q l ih =>
    intro t done h hl
    obtain ⟨-, -, hdisjoint⟩ := List.nodup_append.1 hl
    have hq : q ∉ done := fun hm => hdisjoint q hm q List.mem_cons_self rfl
    have := ih (h.evalSurge hq) (by rwa [List.append_assoc])
    rwa [List.append_assoc] at this

end

/-! ### The evaluation -/

/-- The queues in the order of an evaluation. -/
def evaluationOrder (order : List Nat) : List Nat := inOrder (List.range Config.queues) order

theorem evaluationOrder_perm (order : List Nat) : (evaluationOrder order).Perm (List.range 64) :=
  (List.perm_ext_iff_of_nodup (nodup_inOrder List.nodup_range order) List.nodup_range).2 fun _ => mem_inOrder

theorem mem_evaluationOrder {order : List Nat} {q : Nat} : q ∈ evaluationOrder order ↔ q < 64 := by
  rw [(evaluationOrder_perm order).mem_iff, List.mem_range]

/-- An evaluation that is owed evaluates every queue once. -/
theorem exec_surgeWholeSecondEvaluation {s : State} (hrun : running s = true) (hsync : s.syncPresent = true) (hdue : s.due.surge = true)
    (order : List Nat) : ∃ u, exec (.surgeWholeSecondEvaluation order) s = .next (settle u) ∧
      EvaluatedIn { s with due := { s.due with surge := false } } u (evaluationOrder order) := by
  refine ⟨_, ?_, (EvaluatedIn.nil _).foldl (evaluationOrder order) ?_⟩
  · show execSurgeWholeSecondEvaluation order s = _
    simp only [execSurgeWholeSecondEvaluation, inSync, hrun, hsync, hdue, Bool.and_self, if_true]
    rfl
  · exact nodup_inOrder List.nodup_range order

theorem two_mul_bit (b : Bool) : 2 * bit b = if b then 2 else 0 := by cases b <;> rfl

/-- What the notice of a change tells of the wraps cut. -/
theorem countP_cut {s : State} {q : Nat} (hq : q < 64) :
    (s.agents.countP fun e => ((wrapOf e.2).map fun w => w.queue == q && (decide (w.queue < 64) && isCut s w.queue w)).getD false) =
      if trimsWraps s q then trimCount s q else 0 := by
  rw [← countP_isCut]
  have hfun : (fun w : WrapRecord => w.queue == q && (decide (w.queue < 64) && isCut s w.queue w)) = isCut s q := by
    funext w
    by_cases hw : w.queue = q
    · simp [hw, hq]
    · simp [hw, isCut_of_ne hw]
  rw [hfun]
  rfl

/-- An agent in WRAP after the evaluation of the 64 queues. -/
theorem mapWrap_cutIn_evaluationOrder {s : State} {v : Agent} {w : WrapRecord} {p : Option Nat} (h : v.status = .wrap w p)
    (order : List Nat) : mapWrap (cutIn s (evaluationOrder order)) v = if (decide (w.queue < 64) && isCut s w.queue w) = true then
      { v with status := .wrap { w with deadline := trimLimit s w.queue } p } else v := by
  rw [mapWrap_of_wrap h]
  by_cases hq : w.queue < 64
  · rw [cutIn, if_pos (mem_evaluationOrder.2 hq), cutAt]
    cases isCut s w.queue w with
    | true => simp [hq]
    | false => simp [← h]
  · rw [cutIn, if_neg (mt mem_evaluationOrder.1 hq)]
    simp [hq, ← h]

/-- Settles O13: each queue is evaluated as if it were the first, since the evaluation of one decides nothing of another's. -/
theorem wholeSecondEvaluationSetsTheSurgeFlags : Obligations.WholeSecondEvaluationSetsTheSurgeFlags := by
  intro order s hrun hsync hdue settings len oldest byCount byWait leaves enters limit cut
  obtain ⟨u, hexec, h⟩ := exec_surgeWholeSecondEvaluation hrun hsync hdue order
  have hqueues (q : Nat) : queueOf u q = if q ∈ evaluationOrder order then evaluatedQueue s q else queueOf s q := h.queues q
  have hagents (a : Nat) : agentOf u a = (agentOf s a).map (mapWrap (cutIn s (evaluationOrder order))) := h.agentOf a
  have holdest : oldest = oldestWait s := funext fun q => (oldestWait_eq s q).symm
  have hcount : byCount = countMet s := funext fun q => (countMet_eq_decide s q).symm
  have hwait : byWait = waitMet s := by
    funext q
    rw [waitMet_eq_decide, ← holdest]
  have henters : enters = entersSurge s := by
    funext q
    show (!(queueOf s q).surge && (byCount q || byWait q)) = _
    rw [hcount, hwait]; rfl
  have hleaves : leaves = leavesSurge s := by
    funext q
    rw [leavesSurge, exitMet_eq_decide, ← holdest]
  have hcut : cut = fun w => decide (w.queue < 64) && isCut s w.queue w := by
    funext w
    rw [isCut_own, ← henters, ← Bool.and_assoc, ← Bool.and_assoc]
    rfl
  clear_value cut leaves enters byWait byCount oldest
  subst hcut hleaves henters hwait hcount holdest
  refine ⟨u, hexec, fun q hq => ?flag, fun q hq => ?high, h.calls, h.readyList, h.readies, h.surge,
    fun a v hv => ⟨fun hw => ?noWrap, fun w p hs => ?wrap⟩, fun a hv => ?loggedOut, fun hc a => ?due, fun hn => ?notices, h.outside⟩
  case flag => rw [hqueues, if_pos (mem_evaluationOrder.2 hq), evaluatedQueue]
  case high => rw [hqueues, if_neg (mt mem_evaluationOrder.1 (by omega))]
  case noWrap => rw [hagents, hv, Option.map_some, mapWrap_of_not_wrap hw]
  case wrap => rw [hagents, hv, Option.map_some, mapWrap_cutIn_evaluationOrder hs]; rfl
  case loggedOut => rw [hagents, hv]; rfl
  case due =>
    obtain ⟨-, -, -, hr, -⟩ := hc
    refine (h.wraps hr a).trans (and_congr_right fun _ => ?_)
    refine forall_congr' fun v => forall_congr' fun w => forall_congr' fun p => imp_congr_right fun _ => imp_congr_right fun _ => ?_
    rw [mem_evaluationOrder, Bool.and_eq_false_imp, decide_eq_true_iff]
    rfl
  case notices =>
    refine ⟨_, h.notices ?_, ?_, fun f => ?_⟩
    · have hlen := (evaluationOrder_perm order).length_eq
      rw [List.length_range] at hlen
      show s.notices.length + _ ≤ 256
      omega
    · rw [List.length_map, ← List.countP_eq_length_filter]
      exact (evaluationOrder_perm order).countP_eq _
    · simp only [List.mem_map, List.mem_filter, mem_evaluationOrder, and_assoc, Bool.or_eq_true]
      refine exists_congr fun q => and_congr_right fun hq => and_congr Iff.rfl ?_
      have hframe : surgeFrame { s with due := { s.due with surge := false } } q = surgeFrame s q := rfl
      rw [countP_cut hq, eq_comm, hframe, surgeFrame, two_mul_bit]
      rfl

end Sys2Proof.Machine
end

-- ==== Sys2Proof/Proofs/Estimates ====
section
/-! The estimated wait and the average handle time as numbers (R98, R99, R101, R102). -/

namespace Sys2Proof.Machine

/-! ### The estimated wait (R102) -/

theorem ewt_of_not_staffed {s : State} {q : Nat} (h : staffed s q = 0) (p : Nat) : ewt s q p = 65535 := if_pos h

theorem ewt_of_staffed {s : State} {q : Nat} (h : staffed s q ≠ 0) (p : Nat) :
    ewt s q p = min 65534 ((p * (queueOf s q).aht16 + 16 * staffed s q - 1) / (16 * staffed s q)) := if_neg h

theorem ewt_eq_65535_iff (s : State) (q p : Nat) : ewt s q p = 65535 ↔ staffed s q = 0 := by
  refine ⟨fun he => by_contra fun h => ?_, fun h => ewt_of_not_staffed h p⟩
  rw [ewt_of_staffed h] at he
  omega

theorem ewt_le_65535 (s : State) (q p : Nat) : ewt s q p ≤ 65535 := by
  by_cases h : staffed s q = 0
  · exact (ewt_of_not_staffed h p).le
  · rw [ewt_of_staffed h]
    omega

/-- The estimate of a staffed queue is the least number that, taken 16 N times, makes up p times the average. -/
theorem ewt_le_iff {s : State} {q : Nat} (h : staffed s q ≠ 0) (p m : Nat) :
    ewt s q p ≤ m ↔ 65534 ≤ m ∨ p * (queueOf s q).aht16 ≤ m * (16 * staffed s q) := by
  have hn : 0 < 16 * staffed s q := by omega
  rw [ewt_of_staffed h, min_le_iff, Nat.div_le_iff_le_mul_add_pred hn, Nat.mul_comm m]
  omega

theorem ewt_eq_zero_iff {s : State} {q p : Nat} (h : staffed s q ≠ 0) (hp : 1 ≤ p) : ewt s q p = 0 ↔ (queueOf s q).aht16 = 0 := by
  have hp0 : p ≠ 0 := by omega
  simpa [hp0] using ewt_le_iff h p 0

/-- The estimate moves with what it is the least number for. -/
theorem ewt_mono {s t : State} {q r p p' : Nat} (hs : staffed s q ≠ 0) (ht : staffed t r ≠ 0)
    (h : ∀ m, p' * (queueOf t r).aht16 ≤ m * (16 * staffed t r) → p * (queueOf s q).aht16 ≤ m * (16 * staffed s q)) :
    ewt s q p ≤ ewt t r p' :=
  (ewt_le_iff hs p _).2 (((ewt_le_iff ht p' _).1 le_rfl).imp_right (h _))

theorem ewt_mono_rank (s : State) (q : Nat) {p p' : Nat} (h : p ≤ p') : ewt s q p ≤ ewt s q p' := by
  by_cases hn : staffed s q = 0
  · rw [ewt_of_not_staffed hn, ewt_of_not_staffed hn]
  · exact ewt_mono hn hn fun m hm => (Nat.mul_le_mul_right _ h).trans hm

theorem ewt_mono_average {s t : State} {q r : Nat} (p : Nat) (hn : staffed t r = staffed s q)
    (ha : (queueOf s q).aht16 ≤ (queueOf t r).aht16) : ewt s q p ≤ ewt t r p := by
  by_cases hs : staffed s q = 0
  · rw [ewt_of_not_staffed hs, ewt_of_not_staffed (hn.trans hs)]
  · refine ewt_mono hs (hn ▸ hs) fun m hm => ?_
    rw [← hn]
    exact (Nat.mul_le_mul_left p ha).trans hm

theorem ewt_anti_staffed {s t : State} {q r : Nat} (p : Nat) (ha : (queueOf t r).aht16 = (queueOf s q).aht16)
    (hn : staffed s q ≤ staffed t r) : ewt t r p ≤ ewt s q p := by
  by_cases hs : staffed s q = 0
  · rw [ewt_of_not_staffed hs]
    exact ewt_le_65535 t r p
  · refine ewt_mono (by omega) hs fun m hm => ?_
    rw [ha]
    exact hm.trans (Nat.mul_le_mul_left m (Nat.mul_le_mul_left 16 hn))

/-- N counts the working agents whose skills cover the queue's mask (R101). -/
theorem staffed_eq_countP (s : State) (q : Nat) : staffed s q = s.agents.countP fun e =>
    working e.2 && decide (∀ i < 32, (queueOf s q).settings.requiredSkills.getLsbD i = true → e.2.skills.getLsbD i = true) := by
  refine List.countP_congr fun e _ => ?_
  simp only [Bool.and_eq_true, decide_eq_true_eq, covers_eq_true]

/-- Settles O30: value and movement all follow from the least number that `ewt_le_iff` says the estimate is. -/
theorem estimatedWaitForARank : Obligations.EstimatedWaitForARank := by
  intro s q p hp
  refine ⟨staffed_eq_countP s q, ewt_eq_65535_iff s q p, ewt_le_65535 s q p, fun h => ⟨ewt_le_iff h p, ewt_eq_zero_iff h hp⟩,
    fun p' h => ewt_mono_rank s q h, fun t r hn ha => ewt_mono_average p hn ha, fun t r ha hn => ewt_anti_staffed p ha hn,
    fun hrank haverage hstaffed => ?_⟩
  have hproduct : p * (queueOf s q).aht16 ≤ 2048 * 1048560 := Nat.mul_le_mul hrank haverage
  omega

/-! ### The average handle time (R98, R99) -/

/-- A sample adds its difference over 2^k, rounded toward minus infinity; the sum stays a count. -/
theorem foldSample_eq (old k sample : Nat) :
    ((foldSample old k sample : Nat) : Int) = (old : Int) + ((sample * 16 : Int) - old) / 2 ^ k := by
  have hstep : -(old : Int) ≤ ((sample * 16 : Int) - old) / 2 ^ k := by
    have hself : -(old : Int) ≤ -(old : Int) / 2 ^ k := Int.self_le_ediv_of_nonpos_of_nonneg (by omega) (by positivity)
    exact hself.trans (Int.ediv_le_ediv (by positivity) (by omega))
  simp only [foldSample]
  push_cast
  omega

/-- A sample that is not below the average raises it, and not past the sample. -/
theorem foldSample_of_ge {old sample : Nat} (h : old ≤ sample * 16) (k : Nat) :
    old ≤ foldSample old k sample ∧ foldSample old k sample ≤ sample * 16 := by
  have hstep : 0 ≤ ((sample * 16 : Int) - old) / 2 ^ k := Int.ediv_nonneg (by omega) (by positivity)
  have heq := foldSample_eq old k sample
  exact ⟨by omega, foldSample_le old k sample _ h le_rfl⟩

/-- A sample that is not above the average lowers it, and not past the sample. -/
theorem foldSample_of_le {old sample : Nat} (h : sample * 16 ≤ old) (k : Nat) :
    sample * 16 ≤ foldSample old k sample ∧ foldSample old k sample ≤ old := by
  have hstep : (sample * 16 : Int) - old ≤ ((sample * 16 : Int) - old) / 2 ^ k :=
    Int.self_le_ediv_of_nonpos_of_nonneg (by omega) (by positivity)
  have heq := foldSample_eq old k sample
  exact ⟨by omega, foldSample_le old k sample _ le_rfl h⟩

/-- A sample below the average lowers it, however little: the step is rounded down. -/
theorem foldSample_lt {old sample : Nat} (h : sample * 16 < old) (k : Nat) : foldSample old k sample < old := by
  have hstep : ((sample * 16 : Int) - old) / 2 ^ k < 0 := Int.ediv_neg_of_neg_of_pos (by omega) (by positivity)
  have heq := foldSample_eq old k sample
  omega

/-- A sample less than 2^k above the average does not move it: the step is rounded to 0. -/
theorem foldSample_settled {old k sample : Nat} (h : old ≤ sample * 16) (h' : sample * 16 < old + 2 ^ k) :
    foldSample old k sample = old := by
  have hstep : ((sample * 16 : Int) - old) / 2 ^ k = 0 := by
    refine Int.ediv_eq_zero_of_lt (by omega) ?_
    have hbelow : ((sample * 16 : Nat) : Int) < ((old + 2 ^ k : Nat) : Int) := Int.ofNat_lt.2 h'
    push_cast at hbelow
    linarith
  have heq := foldSample_eq old k sample
  omega

theorem foldSample_zero (old sample : Nat) : foldSample old 0 sample = sample * 16 := by
  have heq := foldSample_eq old 0 sample
  simp only [pow_zero, Int.ediv_one] at heq
  omega

/-- Settles O31. -/
theorem averageTakesASample : Obligations.AverageTakesASample := fun old k sample =>
  ⟨foldSample_eq old k sample, fun h => foldSample_of_ge h k, fun h => foldSample_of_le h k, fun h => foldSample_lt h k,
    foldSample_settled, foldSample_zero old sample⟩

end Sys2Proof.Machine
end

-- ==== Sys2Proof/Proofs/Playing ====
section
/-! One voice at a frame: the next step of its segment, the announcement, the end of an exit (R103, R121, R139, R146 to R150, R154). -/

namespace Sys2Proof.Machine

/-! ### The announcement (R103, R139, R148) -/

theorem announcementIsDue_eq_true (s : State) (c : Call) : announcementIsDue s c = true ↔
    (queueOf s c.queue).settings.announcementInterval ≠ 0 ∧ ∃ d, c.announceDue = some d ∧ (s.now - d).msb = false := by
  cases hd : c.announceDue <;> simp [announcementIsDue, reached, hd]

theorem callEstimate_of_waiting (s : State) {c : Call} (h : c.status = .waiting) :
    callEstimate s c = ewt s c.queue (rankOf s c) := by
  rw [callEstimate, if_pos ((isWaiting_eq_true c).2 h)]

theorem callEstimate_of_not_waiting (s : State) {c : Call} (h : c.status ≠ .waiting) : callEstimate s c = ewt s c.queue 1 := by
  rw [callEstimate, if_neg (mt (isWaiting_eq_true c).1 h)]

theorem announcementClip_of_no_estimate (p : Program) : announcementClip p 65535 = p.noEstimateClip := rfl

theorem announcementClip_of_band {p : Program} {e : Nat} {before after : List (Nat × Nat)} {b : Nat × Nat} (he : e ≠ 65535)
    (hp : p.bands = before ++ b :: after) (hb : e ≤ b.1) (hbefore : ∀ x ∈ before, x.1 < e) : announcementClip p e = some b.2 := by
  have hfind : (p.bands.find? fun x => decide (e ≤ x.1)) = some b :=
    List.find?_eq_some_iff_append.2 ⟨by simpa using hb, before, after, hp, by simpa using hbefore⟩
  simp only [announcementClip, if_neg he, hfind]

theorem announcementClip_of_no_band {p : Program} {e : Nat} (he : e ≠ 65535) (hp : ∀ x ∈ p.bands, x.1 < e) :
    announcementClip p e = p.overClip := by
  have hfind : (p.bands.find? fun x => decide (e ≤ x.1)) = none := List.find?_eq_none.2 (by simpa using hp)
  simp only [announcementClip, if_neg he, hfind]

theorem callOf_renewDue {s : State} {h : Nat} {c : Call} (hc : callOf s h = some c) : callOf (renewDue h s) h =
    some { c with announceDue := some (timeAfter s.now (queueOf s c.queue).settings.announcementInterval) } := by
  simp only [renewDue, hc]
  exact callOf_setCallRec_self hc _

/-! ### The step of a voice, segment by segment (R146, R147, R149, R150) -/

section
variable {s : State} {v : Nat} {r : Voice} {k : Clip} {p : Program}

theorem playVoice_of_lt (hr : voiceOf s v = some r) (hk : clipOf s r.clip = some k) (h : r.offset + 1 < k.length) :
    playVoice s v = setVoiceRec s v { r with offset := r.offset + 1 } := by
  simp [playVoice, hr, hk, h]

theorem playVoice_of_end (hr : voiceOf s v = some r) (hk : clipOf s r.clip = some k) (h : k.length ≤ r.offset + 1) :
    playVoice s v = clipEnd v r s := by
  simp [playVoice, hr, hk, h]

theorem clipEnd_of_intro (hp : programOf s r.program = some p) (hseg : r.segment = .intro) :
    clipEnd v r s = nextClip v r .loop 0 (loopClip p 0) s := by
  simp only [clipEnd, hp, hseg]

theorem clipEnd_of_shared {n : Nat} (hp : programOf s r.program = some p) (hseg : r.segment = .loop) (hm : r.mode = .shared n) :
    clipEnd v r s = nextLoop v r p s := by
  simp only [clipEnd, hp, hseg, hm]

theorem clipEnd_of_private {h : Nat} (hp : programOf s r.program = some p) (hseg : r.segment = .loop) (hm : r.mode = .private_ h) :
    clipEnd v r s = privateLoopEnd v r p h s := by
  simp only [clipEnd, hp, hseg, hm]

/-- The state in which an announcement has ended: the call of a PRIVATE voice has its next due (R150). -/
def announced (m : VoiceMode) (s : State) : State :=
  match m with
  | .private_ h => renewDue h s
  | .shared _ => s

theorem clipEnd_of_announce {i : Nat} (hp : programOf s r.program = some p) (hseg : r.segment = .announce i) :
    clipEnd v r s = nextClip v r .loop (i % p.loop.length) (loopClip p (i % p.loop.length)) (announced r.mode s) := by
  simp only [clipEnd, hp, hseg]
  rfl

theorem clipEnd_of_exit {h : Nat} (hp : programOf s r.program = some p) (hseg : r.segment = .exit) (hm : r.mode = .private_ h) :
    clipEnd v r s = divertDone h true s := by
  simp only [clipEnd, hp, hseg, hm]

theorem privateLoopEnd_of_not_due {h : Nat} {c : Call} (hc : callOf s h = some c) (hd : announcementIsDue s c = false) :
    privateLoopEnd v r p h s = nextLoop v r p s := by
  simp [privateLoopEnd, hc, hd]

theorem privateLoopEnd_of_clip {h a : Nat} {c : Call} (hc : callOf s h = some c) (hd : announcementIsDue s c = true)
    (ha : announcementClip p (callEstimate s c) = some a) :
    privateLoopEnd v r p h s = nextClip v r (.announce ((r.loopIndex + 1) % p.loop.length)) r.loopIndex a s := by
  simp [privateLoopEnd, hc, hd, ha]

theorem privateLoopEnd_of_no_clip {h : Nat} {c : Call} (hc : callOf s h = some c) (hd : announcementIsDue s c = true)
    (ha : announcementClip p (callEstimate s c) = none) : privateLoopEnd v r p h s = nextLoop v r p (renewDue h s) := by
  simp [privateLoopEnd, hc, hd, ha]

theorem voiceOf_nextClip_self (segment : Segment) (i j : Nat) : voiceOf (nextClip v r segment i j s) v =
    some { r with segment := segment, loopIndex := i, clip := j, offset := 0 } := by
  rw [voiceOf_nextClip, if_pos rfl]

theorem voiceOf_nextLoop_self (hseg : r.segment = .loop) : voiceOf (nextLoop v r p s) v = some { r with
    loopIndex := (r.loopIndex + 1) % p.loop.length, clip := p.loop.getD ((r.loopIndex + 1) % p.loop.length) 0, offset := 0 } := by
  rw [nextLoop, voiceOf_nextClip_self, ← hseg]
  rfl

end

/-! ### The other voices and the use counts (R121) -/

/-- From `s` to `t` voice `v`, whose clip was `old`, alone has moved, and the use counts have followed it. -/
def FollowedByUse (s t : State) (v old : Nat) : Prop :=
  (∀ w, w ≠ v → voiceOf t w = voiceOf s w) ∧ ∀ x, voiceOf t v = some x →
    (x.clip = old → t.clips = s.clips) ∧
    (x.clip ≠ old → ∀ j, clipOf t j = (clipOf s j).map (movedUse (some old) (some x.clip) j))

theorem followedByUse_setVoiceRec (s : State) (v : Nat) (r : Voice) (n : Nat) :
    FollowedByUse s (setVoiceRec s v { r with offset := n }) v r.clip := by
  refine ⟨fun w hw => ?_, fun x hx => ?_⟩
  · rw [voiceOf_setVoiceRec, if_neg hw]
  · rw [voiceOf_setVoiceRec, if_pos rfl] at hx
    cases hx
    exact ⟨fun _ => rfl, fun hne => absurd rfl hne⟩

theorem followedByUse_nextClip (s : State) (v : Nat) (r : Voice) (segment : Segment) (i k : Nat) :
    FollowedByUse s (nextClip v r segment i k s) v r.clip := by
  refine ⟨fun w hw => ?_, fun x hx => ?_⟩
  · rw [voiceOf_nextClip, if_neg hw]
  · rw [voiceOf_nextClip_self] at hx
    cases hx
    refine ⟨fun hk => ?_, fun hk => clipOf_nextClip v r segment i s hk⟩
    rw [show k = r.clip from hk, nextClip_clips_of_same]

theorem FollowedByUse.of_renewDue {h : Nat} {s t : State} {v old : Nat} (f : FollowedByUse (renewDue h s) t v old) :
    FollowedByUse s t v old := by
  have hvoices : (renewDue h s).voices = s.voices := by unfold renewDue; split <;> rfl
  have hclips : (renewDue h s).clips = s.clips := by unfold renewDue; split <;> rfl
  simpa only [FollowedByUse, voiceOf, clipOf, hvoices, hclips] using f

theorem followedByUse_privateLoopEnd (s : State) (v : Nat) (r : Voice) (p : Program) (h : Nat) :
    FollowedByUse s (privateLoopEnd v r p h s) v r.clip := by
  unfold privateLoopEnd
  split
  · exact followedByUse_nextClip ..
  · split
    · split
      · exact followedByUse_nextClip ..
      · exact .of_renewDue (followedByUse_nextClip ..)
    · exact followedByUse_nextClip ..

theorem followedByUse_clipEnd {s : State} {v : Nat} {r : Voice} {p : Program} (hp : programOf s r.program = some p)
    (hexit : r.segment ≠ .exit) : FollowedByUse s (clipEnd v r s) v r.clip := by
  cases hseg : r.segment with
  | intro => exact clipEnd_of_intro hp hseg ▸ followedByUse_nextClip ..
  | loop =>
    cases hm : r.mode with
    | private_ h => exact clipEnd_of_private hp hseg hm ▸ followedByUse_privateLoopEnd ..
    | shared n => exact clipEnd_of_shared hp hseg hm ▸ followedByUse_nextClip ..
  | announce i =>
    rw [clipEnd_of_announce hp hseg]
    cases r.mode with
    | private_ h => exact .of_renewDue (followedByUse_nextClip ..)
    | shared n => exact followedByUse_nextClip ..
  | exit => exact absurd hseg hexit

theorem followedByUse_playVoice {s : State} {v : Nat} {r : Voice} {k : Clip} {p : Program} (hr : voiceOf s v = some r)
    (hk : clipOf s r.clip = some k) (hp : programOf s r.program = some p) (h : r.offset + 1 < k.length ∨ r.segment ≠ .exit) :
    FollowedByUse s (playVoice s v) v r.clip := by
  by_cases hend : r.offset + 1 < k.length
  · exact playVoice_of_lt hr hk hend ▸ followedByUse_setVoiceRec ..
  · exact playVoice_of_end hr hk (Nat.not_lt.1 hend) ▸ followedByUse_clipEnd hp (h.resolve_left hend)

/-! ### The end of an exit (R154) -/

theorem offVoice_of_voice {c : Call} {v : Nat} (hv : c.voice = some v) :
    offVoice c = { c with voice := none, announceDue := none } := by
  simp [offVoice, hv]

/-- A freed voice is handed over or stays FREE, and no other voice is touched (R143, R145). -/
theorem voiceOf_freeVoice_of_ne (s : State) {v w : Nat} (hw : w ≠ v) : voiceOf (freeVoice v s) w = voiceOf s w := by
  unfold freeVoice
  split
  · rfl
  · next r hr =>
    have hfreed : voiceOf (giveUse (dropVoice s v) r.clip) w = voiceOf s w := by
      rw [giveUse, voiceOf, changeUse_voices]
      exact (voiceOf_dropVoice ..).trans (if_neg hw)
    rw [handVoice_eq, ← hfreed]
    split
    · rfl
    · rw [voiceOf_notify, voiceOf_startVoice, if_neg hw]
      rfl

/-- The divert of a call on a PRIVATE voice is done: the notice, the voice freed, the flag. -/
theorem divertDone_of_private {s : State} {h v g : Nat} {c : Call} {r : Voice} (hc : callOf s h = some c) (hv : c.voice = some v)
    (hr : voiceOf s v = some r) (hm : r.mode = .private_ g) (hd : isDiverting c = true) (hs : c.awaitingVoice = false)
    (played : Bool) : divertDone h played s =
      setCallRec (freeVoice v (setCallRec (divertNotified s h c played) h { c with voice := none, announceDue := none })) h
        { c with status := .diverting true, voice := none, announceDue := none } := by
  have hc' : callOf (divertNotified s h c played) h = some c := (callOf_notify ..).trans hc
  have hr' : voiceOf (divertNotified s h c played) v = some r := (voiceOf_notify ..).trans hr
  rw [divertDone_eq hc hd hs, detach_of_voice hc' hv hr', hm, offVoice_of_voice hv]

theorem voiceOf_divertDone_of_ne {s : State} {h v g w : Nat} {c : Call} {r : Voice} (hc : callOf s h = some c)
    (hv : c.voice = some v) (hr : voiceOf s v = some r) (hm : r.mode = .private_ g) (hd : isDiverting c = true)
    (hs : c.awaitingVoice = false) (played : Bool) (hw : w ≠ v) : voiceOf (divertDone h played s) w = voiceOf s w := by
  rw [divertDone_of_private hc hv hr hm hd hs, voiceOf_setCallRec, voiceOf_freeVoice_of_ne _ hw, voiceOf_setCallRec, divertNotified,
    voiceOf_notify]

/-- Settles O6: the equation of each segment's end, then what it leaves of the voice and of the call. -/
theorem voiceTakesItsNextStep : Obligations.VoiceTakesItsNextStep := by
  refine ⟨announcementIsDue_eq_true, fun s c => ⟨callEstimate_of_waiting s, fun a d h => ?estimate⟩,
    fun p e => ⟨fun he => he ▸ announcementClip_of_no_estimate p, fun he =>
      ⟨fun before b after => announcementClip_of_band he, announcementClip_of_no_band he⟩⟩,
    fun s v r k p hr hk hp => ⟨fun hlt => ?offset, fun hend hseg => ?intro, fun n hend hseg hm => ?shared,
      fun h c hend hseg hm hc => ⟨fun hdue => ?notDue, fun a hdue ha => ?announce, fun hdue ha => ?noClip⟩,
      fun i hend hseg => ⟨?announced, fun h c hm hc => ?renewed⟩,
      fun h c hend hseg hm hc hv hd hs => ?exit, followedByUse_playVoice hr hk hp⟩⟩
  case estimate => exact callEstimate_of_not_waiting s (by rw [h]; simp)
  case offset => rw [playVoice_of_lt hr hk hlt, voiceOf_setVoiceRec, if_pos rfl]
  case intro => exact playVoice_of_end hr hk hend ▸ clipEnd_of_intro hp hseg ▸ voiceOf_nextClip_self ..
  case shared => rw [playVoice_of_end hr hk hend, clipEnd_of_shared hp hseg hm, voiceOf_nextLoop_self hseg]
  case notDue =>
    rw [playVoice_of_end hr hk hend, clipEnd_of_private hp hseg hm, privateLoopEnd_of_not_due hc hdue, voiceOf_nextLoop_self hseg]
  case announce =>
    rw [playVoice_of_end hr hk hend, clipEnd_of_private hp hseg hm, privateLoopEnd_of_clip hc hdue ha, voiceOf_nextClip_self]
  case noClip =>
    rw [playVoice_of_end hr hk hend, clipEnd_of_private hp hseg hm, privateLoopEnd_of_no_clip hc hdue ha]
    exact ⟨voiceOf_nextLoop_self hseg, (callOf_nextClip ..).trans (callOf_renewDue hc)⟩
  case announced => exact playVoice_of_end hr hk hend ▸ clipEnd_of_announce hp hseg ▸ voiceOf_nextClip_self ..
  case renewed =>
    rw [playVoice_of_end hr hk hend, clipEnd_of_announce hp hseg, callOf_nextClip, hm]
    exact callOf_renewDue hc
  case exit =>
    rw [playVoice_of_end hr hk hend, clipEnd_of_exit hp hseg hm]
    refine ⟨?_, ⟨fun hn => ?_, divertDone_of_private hc hv hr hm hd hs true⟩,
      fun w hw => voiceOf_divertDone_of_ne hc hv hr hm hd hs true hw⟩
    · rw [callOf_divertDone hc hd hs, offVoice_of_voice hv]
    · rw [notify_of_lt hn]

end Sys2Proof.Machine
end

-- ==== Sys2Proof/Proofs/Quiet ====
section
/-! Steps that leave the audio side alone: the clips, the programs, the voices, what each call has of them, and the programs that calls and
queues name. -/

namespace Sys2Proof.Machine

/-! ### What a call has of the audio side -/

/-- Where a call stands, as the voices see it: WAITING or OFFERED, CONNECTED, or DIVERTING (R140, R142, R154). -/
inductive Stage where
  | open_
  | connected
  | diverting (done : Bool)
deriving DecidableEq

def stageOf (c : Call) : Stage :=
  match c.status with
  | .waiting => .open_
  | .offered _ _ => .open_
  | .connected _ => .connected
  | .diverting d => .diverting d

/-- What a call has of the audio side. -/
structure Ear where
  program : Option Nat
  voice : Option Nat
  silent : Bool
  stage : Stage

def earOf (c : Call) : Ear := { program := c.program, voice := c.voice, silent := c.awaitingVoice, stage := stageOf c }

def earIn (s : State) (h : Nat) : Option Ear := (callOf s h).map earOf

/-- A call or a queue names program `p` (R137). -/
def Names (s : State) (p : Nat) : Prop :=
  (∃ e ∈ s.calls, e.2.program = some p) ∨ ∃ e ∈ s.queues, e.2.settings.defaultProgram = some p

/-- From `s` to `t` the audio side stands, no program is newly named, and, where `l` asks for it, every call has of the audio side what
it had. -/
structure Quiet (l : Prop) (s t : State) : Prop where
  voices : t.voices = s.voices
  clips : t.clips = s.clips
  programs : t.programs = s.programs
  samples : t.samples = s.samples
  names : ∀ p, Names t p → Names s p
  ears : l → ∀ h, earIn t h = earIn s h

section
variable {l : Prop} {s t u : State}

theorem Quiet.refl (l : Prop) (s : State) : Quiet l s s := ⟨rfl, rfl, rfl, rfl, fun _ => id, fun _ _ => rfl⟩

theorem Quiet.trans (a : Quiet l s t) (b : Quiet l t u) : Quiet l s u :=
  ⟨b.voices.trans a.voices, b.clips.trans a.clips, b.programs.trans a.programs, b.samples.trans a.samples,
    fun p h => a.names p (b.names p h), fun hl h => (b.ears hl h).trans (a.ears hl h)⟩

theorem quiet_of_records (e : records t = records s) : Quiet l s t where
  voices := (congrArg State.voices e :)
  clips := (congrArg State.clips e :)
  programs := (congrArg State.programs e :)
  samples := (congrArg State.samples e :)
  names p h := by
    have hc : t.calls = s.calls := (congrArg State.calls e :)
    have hq : t.queues = s.queues := (congrArg State.queues e :)
    rwa [Names, hc, hq] at h
  ears _ h := (congrArg (earIn · h) e :)

theorem quiet_notify (kind body s) : Quiet l s (notify kind body s) := quiet_of_records (records_notify ..)

/-! ### Records written -/

theorem quiet_setAgentRec (s a v) : Quiet l s (setAgentRec s a v) := ⟨rfl, rfl, rfl, rfl, fun _ => id, fun _ _ => rfl⟩
theorem quiet_dropAgent (s a) : Quiet l s (dropAgent s a) := ⟨rfl, rfl, rfl, rfl, fun _ => id, fun _ _ => rfl⟩
theorem quiet_enterReady (s a v d) : Quiet l s (enterReady s a v d) := ⟨rfl, rfl, rfl, rfl, fun _ => id, fun _ _ => rfl⟩
theorem quiet_returnToPlace (s a v n) : Quiet l s (returnToPlace s a v n) := ⟨rfl, rfl, rfl, rfl, fun _ => id, fun _ _ => rfl⟩
theorem quiet_leaveReady (s a) : Quiet l s (leaveReady s a) := ⟨rfl, rfl, rfl, rfl, fun _ => id, fun _ _ => rfl⟩
theorem quiet_trimWraps (s q) : Quiet l s (trimWraps s q) := ⟨rfl, rfl, rfl, rfl, fun _ => id, fun _ _ => rfl⟩

/-- The program a queue names is one of those named. -/
theorem names_of_queueOf {q p : Nat} (h : (queueOf s q).settings.defaultProgram = some p) : Names s p := by
  unfold queueOf at h
  cases hq : tableFind s.queues q with
  | none => rw [hq] at h; cases h
  | some r => rw [hq] at h; exact .inr ⟨(q, r), mem_of_tableFind hq, h⟩

/-- A queue record written names no more programs than it names itself. -/
theorem names_setQueueRec {q p : Nat} {r : Queue} (h : Names (setQueueRec s q r) p) :
    Names s p ∨ r.settings.defaultProgram = some p := by
  rcases h with h | ⟨e, he, hp⟩
  · exact .inl (.inl h)
  · rw [setQueueRec_queues, tablePut] at he
    split at he
    · exact .inl (.inr ⟨e, ((mem_tableErase_iff ..).1 he).1, hp⟩)
    · rcases mem_tableInsert he with rfl | he
      · exact .inr hp
      · exact .inl (.inr ⟨e, he, hp⟩)

theorem quiet_setQueueRec {q : Nat} {r : Queue} (hr : r.settings.defaultProgram = (queueOf s q).settings.defaultProgram) :
    Quiet l s (setQueueRec s q r) :=
  ⟨rfl, rfl, rfl, rfl, fun _ h => (names_setQueueRec h).elim id fun h => names_of_queueOf (hr ▸ h), fun _ _ => rfl⟩

theorem quiet_count (s q f) : Quiet l s (count s q f) := quiet_setQueueRec rfl
theorem quiet_joinList (s h c) : Quiet l s (joinList s h c) := quiet_setQueueRec rfl
theorem quiet_leaveList (s h q) : Quiet l s (leaveList s h q) := quiet_setQueueRec rfl
theorem quiet_takeSample (s q n) : Quiet l s (takeSample s q n) := quiet_setQueueRec rfl

/-- The program of a call in use is one of those named. -/
theorem names_of_callOf {h p : Nat} {c : Call} (hc : callOf s h = some c) (hp : c.program = some p) : Names s p :=
  .inl ⟨_, mem_of_tableFind ((callOf_eq_some ..).1 hc).2, hp⟩

/-- A call record written names no more programs than it names itself. -/
theorem names_setCallRec {h p : Nat} {c : Call} (hn : Names (setCallRec s h c) p) : Names s p ∨ c.program = some p := by
  rcases hn with ⟨e, he, hp⟩ | hn
  · rcases mem_tableInsert he with rfl | he
    · exact .inr hp
    · exact .inl (.inl ⟨e, he, hp⟩)
  · exact .inl (.inr hn)

/-- A record written over one of the same program names no more. -/
theorem names_setCallRec_of_callOf {h p : Nat} {b c : Call} (hb : callOf s h = some b) (hc : c.program = b.program)
    (hn : Names (setCallRec s h c) p) : Names s p :=
  (names_setCallRec hn).elim id fun e => names_of_callOf hb (hc ▸ e)

/-- What the calls have of the audio side after one record is written. -/
theorem earIn_setCallRec {h : Nat} {b : Call} (hb : callOf s h = some b) (c : Call) (g : Nat) :
    earIn (setCallRec s h c) g = if g = h then some (earOf c) else earIn s g := by
  rw [earIn, callOf_setCallRec hb]
  split <;> rfl

theorem earIn_eq {h : Nat} {c : Call} (hc : callOf s h = some c) : earIn s h = some (earOf c) := by rw [earIn, hc]; rfl

theorem quiet_setCallRec {h : Nat} {b c : Call} (hb : callOf s h = some b) (hp : c.program = b.program) (he : l → earOf c = earOf b) :
    Quiet l s (setCallRec s h c) := by
  refine ⟨rfl, rfl, rfl, rfl, fun p => names_setCallRec_of_callOf hb hp, fun hl g => ?_⟩
  rw [earIn_setCallRec hb]
  split
  · next e => rw [e, earIn_eq hb, he hl]
  · rfl

/-! ### The surge monitor and matching -/

theorem quiet_evalSurge (q : Nat) (s : State) : Quiet l s (evalSurge q s) := by
  have flag (b : Bool) : Quiet l s (setQueueRec s q { queueOf s q with surge := b }) := quiet_setQueueRec rfl
  unfold evalSurge
  split
  · split
    · exact (flag false).trans (quiet_notify ..)
    · exact .refl l s
  · split
    · unfold enterSurge
      dsimp only
      split
      · exact ((flag true).trans (quiet_trimWraps ..)).trans (quiet_notify ..)
      · exact (flag true).trans (quiet_notify ..)
    · exact .refl l s

/-- An offer of a call that was WAITING is nothing to the voices. -/
theorem quiet_makeOffer {h : Nat} (hs : l → ∀ x, callOf s h = some x → stageOf x = .open_) (a : Nat) (rotate : Bool) :
    Quiet l s (makeOffer h a rotate s) := by
  cases hx : callOf s h with
  | none => rw [makeOffer, hx]; exact .refl l s
  | some x =>
    cases hv : agentOf s a with
    | none => rw [makeOffer, hx, hv]; exact .refl l s
    | some v =>
      have moved : Quiet l s (setAgentRec (leaveReady (setCallRec (leaveList s h x.queue) h (offeredCall s a x)) a) a
          { v with status := .offered h (readySeqOf s a) }) :=
        (((quiet_leaveList ..).trans (quiet_setCallRec (c := offeredCall s a x) (b := x) (hx :) rfl fun hl => by
          simp only [earOf, hs hl x hx]; rfl)).trans (quiet_leaveReady ..)).trans (quiet_setAgentRec ..)
      have written : Quiet l s (offerWritten s h a x v rotate) := by
        cases rotate with
        | false => exact moved
        | true => exact moved.trans (quiet_setQueueRec rfl)
      rw [makeOffer_eq_written hx hv, offerNotice]
      exact (written.trans (quiet_evalSurge ..)).trans (quiet_notify ..)

theorem stageOf_of_waiting {c : Call} (h : c.status = .waiting) : stageOf c = .open_ := by rw [stageOf, h]

theorem stageOf_of_offered {c : Call} {a : Nat} {d : Option Time} (h : c.status = .offered a d) : stageOf c = .open_ := by
  rw [stageOf, h]

theorem quiet_matchCall (h : Nat) (s : State) : Quiet l s (matchCall h s) := by
  rcases matchCall_cases h s with e | ⟨x, b, hx, hw, -, -, e⟩ <;> rw [e]
  · exact .refl l s
  · exact quiet_makeOffer (fun _ y hy => by cases hx.symm.trans hy; exact stageOf_of_waiting hw) ..

theorem quiet_matchAgent (a : Nat) (hs : l → Sound True False s) : Quiet l s (matchAgent a s) := by
  rcases matchAgent_cases a s with e | ⟨v, slot, x, -, hbest, e⟩ <;> rw [e]
  · exact .refl l s
  · refine quiet_makeOffer (fun hl y hy => ?_) ..
    obtain ⟨hmem, htake⟩ := bestCall_mem hbest
    obtain ⟨hcan, hr, -⟩ := (sound_iff ..).1 (hs hl)
    cases ((mem_calls_iff (hcan trivial) hr slot x).1 hmem).2.symm.trans hy
    exact stageOf_of_waiting ((takeable_eq_true s a v x).1 htake).1

theorem quiet_offerAgent (a : Nat) (hs : l → Sound True False s) : Quiet l s (offerAgent a s) := by
  unfold offerAgent
  split
  · exact quiet_matchAgent a hs
  · exact .refl l s

theorem quiet_reopeningPass (q : Nat) (s : State) : Quiet l s (reopeningPass q s) := by
  unfold reopeningPass
  generalize (rankOrder s q).map (·.1) = hs
  induction hs generalizing s with
  | nil => exact .refl l s
  | cons h hs ih => exact (quiet_matchCall h s).trans (ih _)

/-- A call whose offer ends without an answer keeps what it has of the audio side. -/
theorem quiet_returnCall {h : Nat} {c : Call} (hc : callOf s h = some c) (hst : l → stageOf c = .open_) (a : Nat) :
    Quiet l s (returnCall h a c s) := by
  refine ((quiet_setCallRec (c := { c with status := .waiting, exclusion := excludeAgent a c.exclusion }) hc rfl fun hl => ?_).trans
    (quiet_joinList ..)).trans (quiet_evalSurge ..)
  simp only [earOf, hst hl]
  rfl

/-! ### Agents, offers that end, and wraps -/

theorem quiet_refusingAgent (a q : Nat) (reason : Option Nat) (s : State) : Quiet l s (refusingAgent a q reason s) := by
  unfold refusingAgent
  split
  · exact .refl l s
  · split
    · exact quiet_setAgentRec ..
    · exact quiet_enterReady ..

theorem quiet_missOffer (h a : Nat) (c : Call) (v : Agent) (s : State) : Quiet l s (missOffer h a c v s) := by
  unfold missOffer
  dsimp only
  split
  · exact (quiet_setAgentRec ..).trans (quiet_notify ..)
  · exact quiet_enterReady ..

theorem quiet_enterOutcome (s : State) (a : Nat) (v : Agent) (o : WrapOutcome) : Quiet l s (enterOutcome s a v o) := by
  cases o with
  | ready => exact quiet_enterReady ..
  | notReady r => exact quiet_setAgentRec ..
  | loggedOut => exact quiet_dropAgent ..

theorem quiet_endWrap {a : Nat} {v : Agent} {w : WrapRecord} (ha : l → Sound True False s ∧ a < 512 ∧ w.queue < 64) (o : WrapOutcome)
    (expired : Bool) : Quiet l s (endWrap a v w o expired s) := by
  have ended : Quiet l s (enterOutcome (takeSample s w.queue (wrapSample s w)) a v o) :=
    (quiet_takeSample ..).trans (quiet_enterOutcome ..)
  have sound (hl : l) : Sound True False (enterOutcome (takeSample s w.queue (wrapSample s w)) a v o) := by
    obtain ⟨hs, ha, hw⟩ := ha hl
    exact (hs.takeSample hw (Nat.min_le_right _ _)).enterOutcome ha v o
  have told : Quiet l s (if expired then wrapExpiredNotice a w o (enterOutcome (takeSample s w.queue (wrapSample s w)) a v o)
      else enterOutcome (takeSample s w.queue (wrapSample s w)) a v o) := by
    split
    · exact ended.trans (quiet_notify ..)
    · exact ended
  cases o with
  | ready =>
    refine told.trans (quiet_matchAgent a fun hl => ?_)
    split
    · exact (sound hl).notify _ _
    · exact sound hl
  | notReady r => exact told
  | loggedOut => exact told

/-- A refused offer (R67). -/
theorem quiet_refuseCall {h a : Nat} {c : Call} {d : Option Time} (hs : l → Sound True False s) (hc : callOf s h = some c)
    (hst : c.status = .offered a d) (reason : Option Nat) : Quiet l s (refuseCall h a reason c s) := by
  refine ((((quiet_returnCall hc (fun _ => stageOf_of_offered hst) a).trans (quiet_count ..)).trans (quiet_refusingAgent ..)).trans
    (quiet_matchCall ..)).trans (quiet_offerAgent a fun hl => ?_)
  have hq := (hs hl).call hc
  exact ((((hs hl).returnCall h a hq).count hq _).refusingAgent ..).matchCall h

/-- An offer that is missed (R68). -/
theorem quiet_expireOffer {h a : Nat} {c : Call} {d : Option Time} (hs : l → Sound True False s) (hc : callOf s h = some c)
    (hst : c.status = .offered a d) : Quiet l s (expireOffer h a c s) := by
  have missed : Quiet l s (missedCall s h a c) := (quiet_returnCall hc (fun _ => stageOf_of_offered hst) a).trans (quiet_count ..)
  have sound (hl : l) : Sound True False (missedCall s h a c) := ((hs hl).returnCall h a ((hs hl).call hc)).count ((hs hl).call hc) _
  refine ((Quiet.trans (t := match agentOf (missedCall s h a c) a with
    | some v => missOffer h a c v (missedCall s h a c)
    | none => missedCall s h a c) ?_ (quiet_notify ..)).trans (quiet_matchCall ..)).trans (quiet_offerAgent a fun hl => ?_)
  · split
    · exact missed.trans (quiet_missOffer ..)
    · exact missed
  · refine Sound.matchCall (Sound.notify ?_ _ _) h
    show Sound True False (match agentOf (missedCall s h a c) a with
      | some v => missOffer h a c v (missedCall s h a c)
      | none => missedCall s h a c)
    split
    · next v hv => exact (sound hl).missOffer ((sound hl).agent hv).1 h c v
    · exact sound hl

/-- An agent that leaves its offer (R71). -/
theorem quiet_withdrawAgent {h a n : Nat} {v : Agent} (k : l → Kept True False False s) (hv : agentOf s a = some v)
    (hst : v.status = .offered h n) (reason : Option Nat) : Quiet l s (withdrawAgent a h v reason s) := by
  have after (t : State) : Quiet l t (match reason with
      | none => dropAgent t a
      | some r => setAgentRec t a { v with status := .notReady r }) := by
    cases reason with
    | none => exact quiet_dropAgent ..
    | some r => exact quiet_setAgentRec ..
  unfold withdrawAgent
  dsimp only
  split
  · exact after s
  · next c hc =>
    refine (((quiet_returnCall hc (fun hl => ?_) a).trans (after _)).trans (quiet_notify ..)).trans (quiet_matchCall ..)
    obtain ⟨x, d, hx, hs⟩ := (k hl).offeredCall trivial hv hst
    cases hc.symm.trans hx
    exact stageOf_of_offered hs

end

/-! ### The orders of queues and agents -/

section
variable {l : Prop} {s : State} (k : l → Kept True False False s)

theorem quiet_handleSetQueueState (queue state : BitVec 8) (s : State) : Quiet l s (handleSetQueueState queue state s).1 := by
  unfold handleSetQueueState
  split
  · exact .refl l s
  split
  · exact .refl l s
  have written : Quiet l s (setQueueRec s queue.toNat { queueOf s queue.toNat with state := queueStateOf state.toNat }) :=
    quiet_setQueueRec rfl
  dsimp only
  split
  · exact written.trans (quiet_reopeningPass ..)
  · exact written

theorem quiet_handleReadQueueStatistics (queue clear : BitVec 8) (s : State) :
    Quiet l s (handleReadQueueStatistics queue clear s).1 := by
  unfold handleReadQueueStatistics
  split
  · exact .refl l s
  split
  · exact .refl l s
  dsimp only
  split
  · exact quiet_setQueueRec rfl
  · exact .refl l s

theorem quiet_handleStartService (silence : BitVec 8) (s : State) : Quiet l s (handleStartService silence s).1 := by
  unfold handleStartService
  split
  · exact .refl l s
  · exact quiet_of_records rfl

theorem quiet_handleStopService (s : State) : Quiet l s (handleStopService s).1 := by
  unfold handleStopService
  split
  · exact .refl l s
  · split
    · exact .refl l s
    · exact quiet_of_records rfl

include k

theorem quiet_handleRefuseOffer (handle agent : BitVec 16) (present reason : BitVec 8) :
    Quiet l s (handleRefuseOffer handle agent present reason s).1 := by
  unfold handleRefuseOffer
  refine withCall_fst (.refl l s) fun x hx => ?_
  dsimp only
  split
  · exact .refl l s
  split
  · exact .refl l s
  split
  · exact .refl l s
  exact withOffer_fst (.refl l s) fun d hst => quiet_refuseCall (fun hl => (k hl).sound) hx hst _

theorem quiet_handleLogin (agent : BitVec 16) (skills : BitVec 32) (autoReady initialState reason : BitVec 8) :
    Quiet l s (handleLogin agent skills autoReady initialState reason s).1 := by
  unfold handleLogin
  dsimp only
  split
  · exact .refl l s
  next hb =>
  split
  · exact .refl l s
  split
  · exact .refl l s
  split
  · exact .refl l s
  split
  · exact .refl l s
  dsimp only
  split
  · exact quiet_setAgentRec ..
  · exact (quiet_enterReady ..).trans (quiet_matchAgent _ fun hl => (k hl).sound.enterReady (by omega) _ _)

theorem quiet_logoutAgent {a : Nat} {v : Agent} (hv : agentOf s a = some v) : Quiet l s (logoutAgent a v s) := by
  unfold logoutAgent
  split
  · exact quiet_dropAgent ..
  · exact (quiet_leaveReady ..).trans (quiet_dropAgent ..)
  · next hs => exact quiet_withdrawAgent k hv hs none
  · next hs =>
    refine quiet_endWrap (fun hl => ?_) _ _
    obtain ⟨ha, hf⟩ := (k hl).sound.agent hv
    exact ⟨(k hl).sound, ha, hf.queue hs⟩
  · exact .refl l s

theorem quiet_handleLogout (agent : BitVec 16) : Quiet l s (handleLogout agent s).1 := by
  unfold handleLogout
  dsimp only
  split
  · exact .refl l s
  split
  · exact .refl l s
  next v hv =>
  split
  · exact .refl l s
  all_goals exact quiet_logoutAgent k hv

theorem quiet_handleSetReady (agent : BitVec 16) : Quiet l s (handleSetReady agent s).1 := by
  unfold handleSetReady
  dsimp only
  split
  · exact .refl l s
  split
  · exact .refl l s
  next v hv =>
  split
  · exact (quiet_enterReady ..).trans (quiet_matchAgent _ fun hl => (k hl).sound.enterReady ((k hl).sound.agent hv).1 _ _)
  all_goals exact .refl l s

theorem quiet_handleSetNotReady (agent : BitVec 16) (reason : BitVec 8) : Quiet l s (handleSetNotReady agent reason s).1 := by
  unfold handleSetNotReady
  dsimp only
  split
  · exact .refl l s
  split
  · exact .refl l s
  split
  · exact .refl l s
  next v hv =>
  unfold notReadyAgent
  split
  · exact quiet_setAgentRec ..
  · exact (quiet_leaveReady ..).trans (quiet_setAgentRec ..)
  · next hs => exact quiet_withdrawAgent k hv hs (some reason.toNat)
  · exact quiet_setAgentRec ..
  · exact quiet_setAgentRec ..

theorem quiet_handleSetSkills (agent : BitVec 16) (skills : BitVec 32) : Quiet l s (handleSetSkills agent skills s).1 := by
  unfold handleSetSkills
  dsimp only
  split
  · exact .refl l s
  split
  · exact .refl l s
  next v hv =>
  refine (quiet_setAgentRec ..).trans (quiet_offerAgent _ fun hl => ?_)
  obtain ⟨hb, hf⟩ := (k hl).sound.agent hv
  exact (k hl).sound.setAgentRec hb hf

theorem quiet_handleWrapDone (agent : BitVec 16) (options : BitVec 8) (code : BitVec 16) (reason : BitVec 8) :
    Quiet l s (handleWrapDone agent options code reason s).1 := by
  unfold handleWrapDone
  dsimp only
  split
  · exact .refl l s
  split
  · exact .refl l s
  split
  · exact .refl l s
  split
  · exact .refl l s
  refine withWrap_fst (.refl l s) fun v w p hv hs => ?_
  split
  · exact .refl l s
  · refine quiet_endWrap (fun hl => ?_) _ _
    obtain ⟨ha, hf⟩ := (k hl).sound.agent hv
    exact ⟨(k hl).sound, ha, (withCode_queue w options code).symm ▸ hf.queue hs⟩

omit k

theorem quiet_handleSetDisposition (agent code : BitVec 16) (s : State) : Quiet l s (handleSetDisposition agent code s).1 := by
  unfold handleSetDisposition
  dsimp only
  split
  · exact .refl l s
  split
  · exact .refl l s
  exact withWrap_fst (.refl l s) fun v w p hv hs => quiet_setAgentRec ..

theorem quiet_handleExtendWrap (agent : BitVec 16) (s : State) : Quiet l s (handleExtendWrap agent s).1 := by
  unfold handleExtendWrap
  dsimp only
  split
  · exact .refl l s
  refine withWrap_fst (.refl l s) fun v w p hv hs => ?_
  split
  · exact .refl l s
  split
  · exact .refl l s
  split
  · exact .refl l s
  exact (quiet_setAgentRec ..).trans (quiet_of_records rfl)

end

end Sys2Proof.Machine
end

-- ==== Sys2Proof/Proofs/UseCounts ====
section
/-! The clips, the programs and their use counts in order, kept by the shared operations of the audio side (R117, R118, R120, R121, R137). -/

namespace Sys2Proof.Machine

/-! ### Counting in a table -/

/-- 1 for a value that is there and satisfies `f`, else 0. -/
def tally {α : Type} (f : α → Bool) (o : Option α) : Nat := if o.any f then 1 else 0

section
variable {α : Type}

theorem tableFind_eq_none_of_lt {t : Table α} {k : Nat} (h : ∀ e ∈ t, k < e.1) : tableFind t k = none := by
  cases hv : tableFind t k with
  | none => rfl
  | some v => exact absurd (h _ (mem_of_tableFind hv)) (lt_irrefl k)

/-- A write takes the old value's count away and adds the new one's. -/
theorem countP_tableInsert {t : Table α} (ht : tableRising t = true) (f : α → Bool) (k : Nat) (v : α) :
    (tableInsert t k v).countP (fun e => f e.2) + tally f (tableFind t k) = t.countP (fun e => f e.2) + tally f (some v) := by
  induction t with
  | nil => simp [tableInsert, tally]
  | cons e t ih =>
    obtain ⟨i, w⟩ := e
    obtain ⟨hlt, ht'⟩ := (tableRising_cons _ _).1 ht
    simp only [tableInsert, tableFind]
    split
    · next hk =>
      have hnone : tableFind t k = none := tableFind_eq_none_of_lt fun e he => lt_trans hk (hlt e he)
      rw [if_neg (by omega), hnone]
      simp [tally, List.countP_cons]
    · split
      · next hk => subst hk; simp only [if_true, List.countP_cons, tally, Option.any_some]; omega
      · next hk =>
        have := ih ht'
        rw [if_neg (Ne.symm hk)]
        simp only [List.countP_cons]
        omega

/-- An erased index takes its value's count away. -/
theorem countP_tableErase {t : Table α} (ht : tableRising t = true) (f : α → Bool) (k : Nat) :
    (tableErase t k).countP (fun e => f e.2) + tally f (tableFind t k) = t.countP fun e => f e.2 := by
  induction t with
  | nil => rfl
  | cons e t ih =>
    obtain ⟨i, w⟩ := e
    obtain ⟨hlt, ht'⟩ := (tableRising_cons _ _).1 ht
    have := ih ht'
    by_cases hk : i = k
    · subst hk
      have hnone : tableFind t i = none := tableFind_eq_none_of_lt hlt
      rw [hnone] at this
      simp only [tableErase, ne_eq, not_true_eq_false, decide_false, Bool.false_eq_true, not_false_eq_true, List.filter_cons_of_neg,
        tableFind, if_true, List.countP_cons, tally, Option.any_some, Option.any_none, if_false] at this ⊢
      omega
    · simp only [tableErase, ne_eq, hk, not_false_eq_true, decide_true, List.filter_cons_of_pos, tableFind, if_false,
        List.countP_cons] at this ⊢
      omega

end

/-! ### The uses of clips (R121) -/

/-- Use counts that stand at the number of references, with only READY clips in use. -/
structure UsesIn (clip : Nat → Option Clip) (refs : Nat → Nat) : Prop where
  count : ∀ k, ((clip k).map (·.useCount)).getD 0 = refs k
  ready : ∀ k c, clip k = some c → c.useCount ≠ 0 → c.status = .ready

/-- The references to a clip: programs that refer to it and voices that play it. -/
def refsOf (s : State) (k : Nat) : Nat := programRefs s k + voiceRefs s k

theorem usesOk_iff (s : State) : UsesOk s ↔ UsesIn (clipOf s) (refsOf s) := by
  have each (k : Nat) : (((clipOf s k).map (·.useCount)).getD 0 = refsOf s k ∧
      ∀ c, clipOf s k = some c → c.useCount ≠ 0 → c.status = .ready) ↔ (match clipOf s k with
        | some c => c.useCount = programRefs s k + voiceRefs s k ∧ (c.useCount ≠ 0 → c.status = .ready)
        | none => programRefs s k = 0 ∧ voiceRefs s k = 0) := by
    cases clipOf s k with
    | none =>
      simp only [refsOf, Option.map_none, Option.getD_none, reduceCtorEq, IsEmpty.forall_iff, implies_true, and_true]
      omega
    | some c => simp [refsOf]
  exact ⟨fun h => ⟨fun k => ((each k).2 (h k)).1, fun k => ((each k).2 (h k)).2⟩,
    fun h k => (each k).1 ⟨h.count k, h.ready k⟩⟩

section
variable {clip clip' : Nat → Option Clip} {refs refs' : Nat → Nat}

/-- A clip that something refers to is READY. -/
theorem UsesIn.of_refs (u : UsesIn clip refs) {k : Nat} (h : refs k ≠ 0) : ∃ c, clip k = some c ∧ c.status = .ready := by
  have hc := u.count k
  cases e : clip k with
  | none => rw [e] at hc; exact absurd hc.symm h
  | some c => rw [e] at hc; exact ⟨c, rfl, u.ready k c e fun h0 => h (hc.symm.trans h0)⟩

/-- Use counts that fall and rise as the references do, where only READY clips gain. -/
theorem UsesIn.shift (u : UsesIn clip refs) {gone come : Nat → Nat}
    (hclip : ∀ j, clip' j = (clip j).map fun c => { c with useCount := c.useCount - gone j + come j })
    (hrefs : ∀ j, refs' j + gone j = refs j + come j) (hgone : ∀ j, gone j ≤ refs j)
    (hcome : ∀ j, come j ≠ 0 → ∃ c, clip j = some c ∧ c.status = .ready) : UsesIn clip' refs' := by
  refine ⟨fun j => ?_, fun j c hc hne => ?_⟩
  · have h1 := u.count j
    have h2 := hrefs j
    have h3 := hgone j
    rw [hclip]
    cases hc : clip j with
    | none =>
      have h4 : come j = 0 := by
        by_contra h
        obtain ⟨c, hc', -⟩ := hcome j h
        rw [hc] at hc'
        cases hc'
      rw [hc] at h1
      simp only [Option.map_none, Option.getD_none] at h1 ⊢
      omega
    | some c =>
      rw [hc] at h1
      simp only [Option.map_some, Option.getD_some] at h1 ⊢
      omega
  · rw [hclip] at hc
    obtain ⟨x, hx, rfl⟩ := Option.map_eq_some_iff.1 hc
    by_cases hj : come j = 0
    · refine u.ready j x hx fun h0 => hne ?_
      simp only [h0, hj, Nat.zero_sub, Nat.add_zero]
    · obtain ⟨y, hy, hready⟩ := hcome j hj
      rw [hx] at hy
      cases hy
      exact hready

/-- One use fewer of one clip and one more of another, as the references move. -/
theorem UsesIn.move (u : UsesIn clip refs) {gone come : Option Nat} (hclip : ∀ j, clip' j = (clip j).map (movedUse gone come j))
    (hrefs : ∀ j, refs' j + (if gone = some j then 1 else 0) = refs j + if come = some j then 1 else 0)
    (hcome : ∀ j, come = some j → refs j ≠ 0) : UsesIn clip' refs' := by
  refine u.shift hclip hrefs (fun j => ?_) fun j hj => u.of_refs (hcome j ?_)
  · have h2 := hrefs j
    have h3 := hcome j
    split at h2
    · split at h2
      · next hj => have := h3 hj; split <;> omega
      · split <;> omega
    · next hj => rw [if_neg hj]; omega
  · by_contra h
    exact hj (if_neg h)

/-- The record of one clip written or dropped, its count kept. -/
theorem UsesIn.write (u : UsesIn clip refs) {k : Nat} {o : Option Clip} (hclip : ∀ j, clip' j = if j = k then o else clip j)
    (hcount : (o.map (·.useCount)).getD 0 = refs k) (hready : ∀ c, o = some c → c.useCount ≠ 0 → c.status = .ready) :
    UsesIn clip' refs := by
  refine ⟨fun j => ?_, fun j c hc => ?_⟩
  · rw [hclip]
    split
    · next hj => rw [hj]; exact hcount
    · exact u.count j
  · rw [hclip] at hc
    split at hc
    · exact hready c hc
    · exact u.ready j c hc

end

/-! ### The clips and programs in order -/

/-- A clip within the memory where `p` asks for it (R120), with its load cursor and excess in range where `l` does (R118). -/
def ClipFine (p l : Prop) (c : Clip) : Prop :=
  (p → c.startPage * 512 + c.length ≤ 4194304 ∧ 1 ≤ c.length) ∧
    (l → ∀ cursor x excess, c.status = .loading cursor x excess → cursor ≤ c.length ∧ excess ≤ 4294967295)

/-- Two clips that share no page (R120). -/
def Apart (c d : Clip) : Prop :=
  c.startPage + pagesOf c.length ≤ d.startPage ∨ d.startPage + pagesOf d.length ≤ c.startPage

/-- The use counts in order, in canonical tables. -/
structure Uses (s : State) : Prop where
  programs : tableRising s.programs = true
  voices : tableRising s.voices = true
  uses : UsesIn (clipOf s) (refsOf s)

/-- The clips in order; the pages and the memory where `p` asks for them, the loads where `l` does, the programs named where `n` does,
and with them the uses where `u` does. -/
structure Stored (p l n u : Prop) (s : State) : Prop where
  clips : TableOk True (fun _ => ClipFine p l) s.clips
  apart : p → ∀ j k c d, clipOf s j = some c → clipOf s k = some d → j ≠ k → Apart c d
  samples : p → SamplesOk s
  named : n → ProgramsNamed s
  uses : n → u → Uses s

theorem programsNamed_iff (s : State) : ProgramsNamed s ↔ (∀ e ∈ s.programs, e.2.loop ≠ []) ∧
    (∀ p, Names s p → programOf s p ≠ none) ∧ ∀ e ∈ s.voices, programOf s e.2.program ≠ none := by
  constructor
  · rintro ⟨h1, h2, h3, h4⟩
    refine ⟨h1, fun p hp => ?_, h4⟩
    rcases hp with ⟨e, he, hp⟩ | ⟨e, he, hp⟩
    · exact h2 e he p hp
    · exact h3 e he p hp
  · rintro ⟨h1, h2, h3⟩
    exact ⟨h1, fun e he p hp => h2 p (.inl ⟨e, he, hp⟩), fun e he p hp => h2 p (.inr ⟨e, he, hp⟩), h3⟩

theorem pagesOk_iff {s : State} (hs : tableRising s.clips = true) : PagesOk s ↔
    (∀ e ∈ s.clips, e.2.startPage * 512 + e.2.length ≤ 4194304 ∧ 1 ≤ e.2.length) ∧
      ∀ j k c d, clipOf s j = some c → clipOf s k = some d → j ≠ k → Apart c d := by
  refine and_congr_right fun _ => ⟨fun h j k c d hc hd => h _ (mem_of_tableFind hc) _ (mem_of_tableFind hd), ?_⟩
  rintro h ⟨j, c⟩ hc ⟨k, d⟩ hd
  exact h j k c d ((tableFind_eq_some_iff hs j c).2 hc) ((tableFind_eq_some_iff hs k d).2 hd)

section
variable {p l n u : Prop} {s t : State}

theorem clipFine_withoutUse (c : Clip) (m : Nat) : ClipFine p l { c with useCount := m } ↔ ClipFine p l c := Iff.rfl

/-- Clips alike but for their use counts share no page when those share none. -/
theorem apart_of_withoutUse (h : ∀ k, (clipOf t k).map withoutUse = (clipOf s k).map withoutUse)
    (ha : ∀ j k c d, clipOf s j = some c → clipOf s k = some d → j ≠ k → Apart c d) (j k : Nat) (c d : Clip)
    (hc : clipOf t j = some c) (hd : clipOf t k = some d) (hjk : j ≠ k) : Apart c d := by
  have old {i : Nat} {x : Clip} (hx : clipOf t i = some x) : ∃ y, clipOf s i = some y ∧ withoutUse y = withoutUse x := by
    have e := h i
    rw [hx] at e
    exact Option.map_eq_some_iff.1 e.symm
  obtain ⟨x, hx, ex⟩ := old hc
  obtain ⟨y, hy, ey⟩ := old hd
  have hxy := ha j k x y hx hy hjk
  have hs (a b : Clip) (e : withoutUse a = withoutUse b) : a.startPage = b.startPage ∧ a.length = b.length :=
    ⟨(congrArg Clip.startPage e :), (congrArg Clip.length e :)⟩
  obtain ⟨e1, e2⟩ := hs x c ex
  obtain ⟨e3, e4⟩ := hs y d ey
  rwa [Apart, e1, e2, e3, e4] at hxy

theorem AudioOnly.samples (a : AudioOnly s t) : t.samples = s.samples := (congrArg State.samples a.1 :)

/-- A step of the audio side alone, from what it leaves of the programs named and of the uses. -/
theorem Stored.of_audio (k : Stored p l n u s) (a : AudioOnly s t) (hclips : TableOk True (fun _ => ClipFine p l) t.clips)
    (named : n → (∀ x, Names t x → Names s x) ∧ ∀ e ∈ t.voices, programOf s e.2.program ≠ none)
    (uses : n → u → Uses t) : Stored p l n u t where
  clips := hclips
  apart hp := apart_of_withoutUse a.2.2 (k.apart hp)
  samples hp := by
    have := k.samples hp
    rwa [SamplesOk, ← a.samples] at this
  named hn := by
    obtain ⟨h1, h2, h3⟩ := (programsNamed_iff s).1 (k.named hn)
    obtain ⟨hnames, hvoices⟩ := named hn
    have hprog (x : Nat) : programOf t x = programOf s x := by rw [programOf, programOf, a.programs]
    refine (programsNamed_iff t).2 ⟨by rw [a.programs]; exact h1, fun x hx => ?_, fun e he => ?_⟩
    · rw [hprog]; exact h2 x (hnames x hx)
    · rw [hprog]; exact hvoices e he
  uses := uses

/-- A step that leaves the audio tables alone and names defined programs only. -/
theorem Stored.rename (k : Stored p l n u s) (voices : t.voices = s.voices) (clips : t.clips = s.clips) (programs : t.programs = s.programs)
    (samples : t.samples = s.samples) (names : n → ∀ x, Names t x → Names s x ∨ programOf s x ≠ none) : Stored p l n u t where
  clips := by rw [clips]; exact k.clips
  apart hp := by
    have := k.apart hp
    simpa only [clipOf, clips] using this
  samples hp := by
    have := k.samples hp
    rwa [SamplesOk, ← samples] at this
  named hn := by
    obtain ⟨h1, h2, h3⟩ := (programsNamed_iff s).1 (k.named hn)
    have hprog (x : Nat) : programOf t x = programOf s x := by rw [programOf, programOf, programs]
    refine (programsNamed_iff t).2 ⟨by rw [programs]; exact h1, fun x hx => ?_, fun e he => ?_⟩
    · rw [hprog]; exact (names hn x hx).elim (h2 x) id
    · rw [hprog]; rw [voices] at he; exact h3 e he
  uses hn hu := by
    obtain ⟨h1, h2, h3⟩ := k.uses hn hu
    refine ⟨by rw [programs]; exact h1, by rw [voices]; exact h2, ?_⟩
    have hclip : clipOf t = clipOf s := funext fun j => by rw [clipOf, clipOf, clips]
    have hrefs : refsOf t = refsOf s := funext fun j => by simp only [refsOf, programRefs, voiceRefs, programs, voices]
    rwa [hclip, hrefs]

theorem Stored.quiet (k : Stored p l n u s) (q : Quiet False s t) : Stored p l n u t :=
  k.rename q.voices q.clips q.programs q.samples fun _ x hx => .inl (q.names x hx)

theorem Stored.notify (k : Stored p l n u s) (kind body) : Stored p l n u (notify kind body s) := k.quiet (quiet_notify ..)

theorem Stored.of_records (k : Stored p l n u s) (e : records t = records s) : Stored p l n u t := k.quiet (quiet_of_records e)

/-- A call record written over one of the same program. -/
theorem Stored.setCallRec (k : Stored p l n u s) {h : Nat} {b c : Call} (hb : callOf s h = some b) (hp : c.program = b.program) :
    Stored p l n u (setCallRec s h c) := k.quiet (quiet_setCallRec hb hp False.elim)

theorem tableOk_changeUse (h : TableOk True (fun _ => ClipFine p l) s.clips) (j : Nat) (f : Nat → Nat) :
    TableOk True (fun _ => ClipFine p l) (changeUse s j f).clips := by
  unfold changeUse
  split
  · next c hc => exact h.insert (h.find hc :)
  · exact h

/-! ### Voices written -/

theorem voiceRefs_setVoiceRec (hv : tableRising s.voices = true) (v : Nat) (r : Voice) (j : Nat) :
    voiceRefs (setVoiceRec s v r) j + tally (fun x => x.clip == j) (voiceOf s v) = voiceRefs s j + if some r.clip = some j then 1 else 0 := by
  have h := countP_tableInsert hv (fun x => x.clip == j) v r
  simp only [tally, Option.any_some, beq_iff_eq, Option.some.injEq] at h ⊢
  exact h

theorem voiceRefs_dropVoice (hv : tableRising s.voices = true) (v j : Nat) :
    voiceRefs (dropVoice s v) j + tally (fun x => x.clip == j) (voiceOf s v) = voiceRefs s j :=
  countP_tableErase hv (fun x => x.clip == j) v

/-- A clip of a defined program is referred to. -/
theorem refsOf_ne_zero {x j : Nat} {r : Program} (hr : programOf s x = some r) (hj : j ∈ programClips r) : refsOf s j ≠ 0 := by
  have hpos : 0 < programRefs s j := List.countP_pos_iff.2 ⟨(x, r), mem_of_tableFind hr, by simpa using hj⟩
  unfold refsOf
  omega

theorem mem_voices_setVoiceRec {v : Nat} {r : Voice} (hr : programOf s r.program ≠ none)
    (h : ∀ e ∈ s.voices, programOf s e.2.program ≠ none) : ∀ e ∈ (setVoiceRec s v r).voices, programOf s e.2.program ≠ none := by
  intro e he
  rcases mem_tableInsert he with rfl | he
  · exact hr
  · exact h e he

theorem programOf_ne_none {x : Nat} {r : Program} (h : programOf s x = some r) : programOf s x ≠ none := by simp [h]

/-- The record of a voice written over one of the same program and clip. -/
theorem Stored.setVoiceRec (k : Stored p l n u s) {v : Nat} {r r' : Voice} (hr : voiceOf s v = some r) (hp : r'.program = r.program)
    (hc : r'.clip = r.clip) : Stored p l n u (setVoiceRec s v r') := by
  refine k.of_audio (audioOnly_setVoiceRec ..) k.clips (fun hn => ⟨fun _ => id, ?_⟩) fun hn hu => ?_
  · obtain ⟨-, -, h3⟩ := (programsNamed_iff s).1 (k.named hn)
    exact mem_voices_setVoiceRec (hp ▸ h3 _ (mem_of_tableFind hr)) h3
  · obtain ⟨h1, h2, h3⟩ := k.uses hn hu
    refine ⟨h1, tableRising_tableInsert _ _ h2, ?_⟩
    have hrefs : refsOf (Machine.setVoiceRec s v r') = refsOf s := funext fun j => by
      have := voiceRefs_setVoiceRec h2 v r' j
      rw [hr, hc] at this
      simp only [tally, Option.any_some, beq_iff_eq, Option.some.injEq] at this
      have : voiceRefs (Machine.setVoiceRec s v r') j = voiceRefs s j := by omega
      rw [refsOf, this]
      rfl
    rwa [hrefs]

theorem rising_voices_startVoice (h : tableRising s.voices = true) (v x mode segment i j) :
    tableRising (startVoice s v x mode segment i j).voices = true := by
  rw [startVoice, takeUse, changeUse_voices]
  exact tableRising_tableInsert _ _ h

theorem refsOf_congr {t : State} (hp : t.programs = s.programs) (hv : t.voices = s.voices) : refsOf t = refsOf s := by
  funext j
  rw [refsOf, refsOf, programRefs, programRefs, voiceRefs, voiceRefs, hp, hv]

theorem changeUse_programs (s : State) (j : Nat) (f : Nat → Nat) : (changeUse s j f).programs = s.programs := by
  unfold changeUse; split <;> rfl

/-- A FREE voice starts a clip of a defined program. -/
theorem Stored.startVoice (k : Stored p l n u s) {v x : Nat} (hv : voiceOf s v = none) {mode segment i j}
    (hj : n → ∃ r, programOf s x = some r ∧ j ∈ programClips r) : Stored p l n u (startVoice s v x mode segment i j) := by
  refine k.of_audio (audioOnly_startVoice ..) ?_ (fun hn => ⟨fun y hy => ?_, fun e he => ?_⟩) fun hn hu => ?_
  · exact tableOk_changeUse (s := Machine.setVoiceRec s v _) k.clips ..
  · have hcalls : (Machine.startVoice s v x mode segment i j).calls = s.calls := changeUse_calls ..
    have hqueues := (audioOnly_startVoice s v x mode segment i j).queues
    rwa [Names, hcalls, hqueues] at hy
  · obtain ⟨-, -, h3⟩ := (programsNamed_iff s).1 (k.named hn)
    rw [Machine.startVoice, takeUse, changeUse_voices] at he
    obtain ⟨r, hr, -⟩ := hj hn
    exact mem_voices_setVoiceRec (programOf_ne_none hr) h3 e he
  · obtain ⟨h1, h2, h3⟩ := k.uses hn hu
    obtain ⟨r, hr, hmem⟩ := hj hn
    refine ⟨?_, rising_voices_startVoice h2 .., h3.move (gone := none) (come := some j) (clipOf_startVoice s v x mode segment i j)
      (fun g => ?_) fun g hg => ?_⟩
    · rw [(audioOnly_startVoice s v x mode segment i j).programs]
      exact h1
    · have := voiceRefs_setVoiceRec h2 v { program := x, mode := mode, segment := segment, loopIndex := i, clip := j, offset := 0 } g
      rw [hv] at this
      simp only [tally, Option.any_none, Bool.false_eq_true, if_false, Nat.add_zero] at this
      rw [refsOf_congr (t := Machine.startVoice s v x mode segment i j) (changeUse_programs ..) (changeUse_voices ..), refsOf, this]
      simp only [refsOf, reduceCtorEq, if_false]
      show programRefs s g + _ + 0 = _
      omega
    · cases hg
      exact refsOf_ne_zero hr hmem

/-- A voice that gives up a clip gives up one use of it. -/
theorem clipOf_giveUse (s : State) (k j : Nat) : clipOf (giveUse s k) j = (clipOf s j).map (movedUse (some k) none j) := by
  rw [giveUse, clipOf_changeUse]
  by_cases hj : j = k
  · subst hj
    cases clipOf s j <;> simp [movedUse]
  · have hk : k ≠ j := Ne.symm hj
    cases clipOf s j <;> simp [movedUse, hj, hk]

/-- A voice that becomes FREE gives up its clip. -/
theorem Stored.giveUp (k : Stored p l n u s) {v : Nat} {r : Voice} (hr : voiceOf s v = some r) :
    Stored p l n u (giveUse (dropVoice s v) r.clip) := by
  have audio : AudioOnly s (giveUse (dropVoice s v) r.clip) := (audioOnly_dropVoice ..).trans (audioOnly_giveUse ..)
  refine k.of_audio audio ?_ (fun hn => ⟨fun y hy => ?_, fun e he => ?_⟩) fun hn hu => ?_
  · exact tableOk_changeUse (s := dropVoice s v) k.clips ..
  · have hcalls : (giveUse (dropVoice s v) r.clip).calls = s.calls := changeUse_calls ..
    rwa [Names, hcalls, audio.queues] at hy
  · obtain ⟨-, -, h3⟩ := (programsNamed_iff s).1 (k.named hn)
    rw [giveUse, changeUse_voices] at he
    exact h3 e ((mem_tableErase_iff ..).1 he).1
  · obtain ⟨h1, h2, h3⟩ := k.uses hn hu
    refine ⟨audio.programs ▸ h1, ?_, h3.move (gone := some r.clip) (come := none) (fun g => ?_) (fun g => ?_) fun g hg => by cases hg⟩
    · rw [giveUse, changeUse_voices]
      exact tableRising_tableErase _ h2
    · rw [clipOf_giveUse, clipOf_dropVoice]
    · have := voiceRefs_dropVoice h2 v g
      rw [hr] at this
      simp only [tally, Option.any_some, beq_iff_eq] at this
      rw [refsOf_congr (t := giveUse (dropVoice s v) r.clip) (changeUse_programs ..) (changeUse_voices ..), refsOf, refsOf]
      simp only [Option.some.injEq, reduceCtorEq, if_false]
      show programRefs s g + _ + _ = _
      omega

/-- A voice goes on to a clip of a defined program. -/
theorem Stored.nextClip (k : Stored p l n u s) {v : Nat} {r : Voice} (hr : voiceOf s v = some r) {segment i j}
    (hj : n → ∃ y x, programOf s y = some x ∧ j ∈ programClips x) : Stored p l n u (nextClip v r segment i j s) := by
  have audio := audioOnly_nextClip v r segment i j s
  refine k.of_audio audio ?_ (fun hn => ⟨fun y hy => ?_, fun e he => ?_⟩) fun hn hu => ?_
  · show TableOk True (fun _ => ClipFine p l) (moveUse s r.clip j).clips
    unfold moveUse
    split
    · exact k.clips
    · exact tableOk_changeUse (tableOk_changeUse k.clips ..) ..
  · have hcalls : (Machine.nextClip v r segment i j s).calls = s.calls := moveUse_calls ..
    rwa [Names, hcalls, audio.queues] at hy
  · obtain ⟨-, -, h3⟩ := (programsNamed_iff s).1 (k.named hn)
    rw [Machine.nextClip, setVoiceRec_voices, moveUse_voices] at he
    exact mem_voices_setVoiceRec (r := { r with segment := segment, loopIndex := i, clip := j, offset := 0 })
      (h3 _ (mem_of_tableFind hr)) h3 e he
  · obtain ⟨h1, h2, h3⟩ := k.uses hn hu
    obtain ⟨y, x, hx, hmem⟩ := hj hn
    have hrefs (g : Nat) : refsOf (Machine.nextClip v r segment i j s) g + (if some r.clip = some g then 1 else 0) =
        refsOf s g + if some j = some g then 1 else 0 := by
      have := voiceRefs_setVoiceRec h2 v { r with segment := segment, loopIndex := i, clip := j, offset := 0 } g
      rw [hr] at this
      simp only [tally, Option.any_some, beq_iff_eq] at this
      rw [refsOf_congr (s := Machine.setVoiceRec s v { r with segment := segment, loopIndex := i, clip := j, offset := 0 })
        (t := Machine.nextClip v r segment i j s) audio.programs (by rw [Machine.nextClip, setVoiceRec_voices, moveUse_voices]; rfl),
        refsOf, refsOf]
      simp only [Option.some.injEq] at this ⊢
      show programRefs s g + _ + _ = _
      omega
    refine ⟨audio.programs ▸ h1, ?_, ?_⟩
    · rw [Machine.nextClip, setVoiceRec_voices, moveUse_voices]
      exact tableRising_tableInsert _ _ h2
    · by_cases hsame : j = r.clip
      · subst hsame
        refine h3.move (gone := none) (come := none) (fun g => ?_) (fun g => ?_) fun g hg => by cases hg
        · rw [clipOf, nextClip_clips_of_same]
          show clipOf s g = _
          cases clipOf s g <;> simp [movedUse]
        · have := hrefs g
          simp only [reduceCtorEq, if_false]
          omega
      · exact h3.move (gone := some r.clip) (come := some j) (clipOf_nextClip v r segment i s hsame) hrefs fun g hg => by
          cases hg
          exact refsOf_ne_zero hx hmem

end

end Sys2Proof.Machine
end

-- ==== Sys2Proof/Proofs/StoredAudio ====
section
/-! Calls attached and detached, voices played and freed, diverts: the clips, the programs and their use counts stay in order. -/

namespace Sys2Proof.Machine

section
variable {p l n u : Prop} {s : State}

/-! ### The clips of a program -/

theorem mem_programClips {r : Program} {j : Nat} : j ∈ programClips r ↔ r.introClip = some j ∨ r.exitClip = some j ∨
    r.overClip = some j ∨ r.noEstimateClip = some j ∨ j ∈ r.loop ∨ j ∈ r.bands.map (·.2) := by
  simp only [programClips, List.mem_dedup, List.mem_append, Option.mem_toList, or_assoc]

theorem loopClip_mem {r : Program} {i : Nat} (h : i < r.loop.length) : loopClip r i ∈ programClips r := by
  refine mem_programClips.2 (.inr <| .inr <| .inr <| .inr <| .inl ?_)
  rw [loopClip, List.getD_eq_getElem _ _ h]
  exact List.getElem_mem h

theorem startSegment_mem {r : Program} (h : r.loop ≠ []) : (startSegment r).2 ∈ programClips r := by
  unfold startSegment
  split
  · next j hj => exact mem_programClips.2 (.inl hj)
  · exact loopClip_mem (List.length_pos_iff.2 h)

theorem announcementClip_mem {r : Program} {e j : Nat} (h : announcementClip r e = some j) : j ∈ programClips r := by
  refine mem_programClips.2 ?_
  unfold announcementClip at h
  split at h
  · exact .inr <| .inr <| .inr <| .inl h
  · split at h
    · next b hb =>
      cases h
      exact .inr <| .inr <| .inr <| .inr <| .inr (List.mem_map_of_mem (List.mem_of_find?_eq_some hb))
    · exact .inr <| .inr <| .inl h

theorem Stored.loop_pos (k : Stored p l n u s) (hn : n) {x : Nat} {r : Program} (hr : programOf s x = some r) : 0 < r.loop.length :=
  List.length_pos_iff.2 ((k.named hn).1 _ (mem_of_tableFind hr))

/-! ### Calls attached and detached (R141 to R145) -/

theorem voiceOf_of_lowestFreeVoice {v : Nat} (h : lowestFreeVoice s = some v) : voiceOf s v = none := by
  simpa using List.find?_some h

theorem Stored.attach (k : Stored p l n u s) (h : Nat) : Stored p l n u (attach h s) := by
  unfold Machine.attach
  split
  · exact k
  next c hc =>
  split
  · exact k
  next x r hx =>
  obtain ⟨y, -, hy⟩ := Option.bind_eq_some_iff.1 hx
  obtain ⟨z, hz, e⟩ := Option.map_eq_some_iff.1 hy
  cases e
  have written (v : Option Nat) (b : Bool) (d : Option Time) : Stored p l n u (Machine.setCallRec s h
      { c with voice := v, awaitingVoice := b, announceDue := d }) := k.setCallRec hc rfl
  dsimp only
  split
  · next v _ hfree =>
    exact (written _ _ _).startVoice (voiceOf_of_lowestFreeVoice (s := s) hfree) fun hn =>
      ⟨r, hz, startSegment_mem (List.length_pos_iff.1 (k.loop_pos hn hz))⟩
  · next v _ _ =>
    split
    · next w hw =>
      split
      · exact (written (some v) false c.announceDue).setVoiceRec hw rfl rfl
      · exact k
    · exact k
  · next v hfree _ _ =>
    exact (written (some v) false c.announceDue).startVoice (voiceOf_of_lowestFreeVoice (s := s) hfree) fun hn =>
      ⟨r, hz, loopClip_mem (k.loop_pos hn hz)⟩
  · exact k.setCallRec hc rfl

theorem oldestSilent_mem {t : Table Call} {c : Call} (h : oldestSilent t = some c) : c.awaitingVoice = true ∧ ∃ i, (i, c) ∈ t := by
  induction t generalizing c with
  | nil => cases h
  | cons e t ih =>
    obtain ⟨i, b⟩ := e
    rw [oldestSilent] at h
    cases ht : oldestSilent t with
    | none =>
      rw [ht] at h
      dsimp only at h
      split at h
      · next hb => cases h; exact ⟨hb, i, List.mem_cons_self⟩
      · cases h
    | some d =>
      rw [ht] at h
      dsimp only at h
      split at h
      · next hb => cases h; exact ⟨(Bool.and_eq_true_iff.1 hb).1, i, List.mem_cons_self⟩
      · cases h
        obtain ⟨hd, j, hj⟩ := ih ht
        exact ⟨hd, j, List.mem_cons_of_mem _ hj⟩

theorem quiet_handed (s : State) (v x : Nat) : Quiet False s { s with calls := s.calls.map (handed v x) } where
  voices := rfl
  clips := rfl
  programs := rfl
  samples := rfl
  names y := by
    rintro (⟨e, he, hy⟩ | hq)
    · obtain ⟨f, hf, rfl⟩ := List.mem_map.1 he
      refine .inl ⟨f, hf, ?_⟩
      unfold handed at hy
      split at hy <;> exact hy
    · exact .inr hq
  ears := False.elim

theorem Stored.handVoice (k : Stored p l n u s) {v : Nat} (hv : voiceOf s v = none) : Stored p l n u (handVoice v s) := by
  rw [handVoice_eq]
  split
  · exact k
  next x hx =>
  refine ((k.quiet (quiet_handed s v x)).startVoice hv fun hn => ?_).notify _ _
  obtain ⟨c, hc, hcx⟩ := Option.bind_eq_some_iff.1 hx
  obtain ⟨-, i, hi⟩ := oldestSilent_mem hc
  obtain ⟨r, hr⟩ := Option.ne_none_iff_exists'.1 ((k.named hn).2.1 _ hi x hcx)
  refine ⟨r, hr, ?_⟩
  rw [hr]
  exact loopClip_mem (k.loop_pos hn hr)

theorem voiceOf_giveUse (s : State) (j w : Nat) : voiceOf (giveUse s j) w = voiceOf s w := by
  rw [voiceOf, giveUse, changeUse_voices, voiceOf]

theorem Stored.freeVoice (k : Stored p l n u s) (v : Nat) : Stored p l n u (freeVoice v s) := by
  unfold Machine.freeVoice
  split
  · exact k
  · next r hr =>
    refine (k.giveUp hr).handVoice ?_
    rw [voiceOf_giveUse]
    exact tableFind_tableErase_self ..

theorem Stored.detach (k : Stored p l n u s) (h : Nat) : Stored p l n u (detach h s) := by
  unfold Machine.detach
  split
  · exact k
  next c hc =>
  split
  · exact k
  next v hv =>
  have off : Stored p l n u (Machine.setCallRec s h { c with voice := none, announceDue := none }) := k.setCallRec hc rfl
  dsimp only
  split
  · exact off
  next r hr =>
  split
  · exact off.freeVoice v
  · split
    · exact off.freeVoice v
    · exact off.setVoiceRec hr rfl rfl

theorem Stored.clearAwaiting (k : Stored p l n u s) (h : Nat) : Stored p l n u (clearAwaiting h s) := by
  unfold Machine.clearAwaiting
  split
  · exact k
  · next c hc => exact k.setCallRec hc rfl

/-! ### Playing (R146 to R150) -/

theorem Stored.divertDone (k : Stored p l n u s) (h : Nat) (played : Bool) : Stored p l n u (divertDone h played s) := by
  unfold Machine.divertDone
  split
  · exact k
  next c hc =>
  split
  · have off := (k.notify 0x87 [f2 h, f4 c.tag.toNat, f1 c.queue, f1 (bit played)]).detach h
    dsimp only
    split
    · exact off
    · next d hd => exact off.setCallRec hd rfl
  · exact k

theorem Stored.renewDue (k : Stored p l n u s) (h : Nat) : Stored p l n u (renewDue h s) := by
  unfold Machine.renewDue
  split
  · exact k
  · next c hc => exact k.setCallRec hc rfl

section
variable {v : Nat} {r : Voice} {x : Program}

theorem Stored.nextLoop (k : Stored p l n u s) (hr : voiceOf s v = some r) (hx : programOf s r.program = some x) :
    Stored p l n u (nextLoop v r x s) :=
  k.nextClip hr fun hn => ⟨_, x, hx, loopClip_mem (Nat.mod_lt _ (k.loop_pos hn hx))⟩

theorem voiceOf_renewDue (h : Nat) (s : State) (w : Nat) : voiceOf (renewDue h s) w = voiceOf s w := by
  unfold renewDue; split <;> rfl

theorem programOf_renewDue (h : Nat) (s : State) (y : Nat) : programOf (renewDue h s) y = programOf s y := by
  unfold renewDue; split <;> rfl

theorem Stored.privateLoopEnd (k : Stored p l n u s) (hr : voiceOf s v = some r) (hx : programOf s r.program = some x) (h : Nat) :
    Stored p l n u (privateLoopEnd v r x h s) := by
  unfold Machine.privateLoopEnd
  split
  · exact k.nextLoop hr hx
  split
  · split
    · next j hj => exact k.nextClip hr fun _ => ⟨_, x, hx, announcementClip_mem hj⟩
    · exact (k.renewDue h).nextLoop ((voiceOf_renewDue ..).trans hr) ((programOf_renewDue ..).trans hx)
  · exact k.nextLoop hr hx

theorem Stored.clipEnd (k : Stored p l n u s) (hr : voiceOf s v = some r) : Stored p l n u (clipEnd v r s) := by
  unfold Machine.clipEnd
  split
  · exact k
  next x hx =>
  split
  · exact k.nextClip hr fun hn => ⟨_, x, hx, loopClip_mem (k.loop_pos hn hx)⟩
  · split
    · exact k.privateLoopEnd hr hx _
    · exact k.nextLoop hr hx
  · next i _ =>
    have mem (hn : n) : loopClip x (i % x.loop.length) ∈ programClips x := loopClip_mem (Nat.mod_lt _ (k.loop_pos hn hx))
    dsimp only
    split
    · exact (k.renewDue _).nextClip ((voiceOf_renewDue ..).trans hr) fun hn => ⟨_, x, (programOf_renewDue ..).trans hx, mem hn⟩
    · exact k.nextClip hr fun hn => ⟨_, x, hx, mem hn⟩
  · split
    · exact k.divertDone _ _
    · exact k

end

theorem Stored.playVoice (k : Stored p l n u s) (v : Nat) : Stored p l n u (playVoice s v) := by
  unfold Machine.playVoice
  split
  · exact k
  next r hr =>
  split
  · exact k.setVoiceRec hr rfl rfl
  · exact k.clipEnd hr

theorem Stored.playFrame (k : Stored p l n u s) (order : List Nat) : Stored p l n u (playFrame order s) := by
  have all (vs : List Nat) {t : State} (kt : Stored p l n u t) : Stored p l n u (vs.foldl Machine.playVoice t) := by
    induction vs generalizing t with
    | nil => exact kt
    | cons v vs ih => exact ih (kt.playVoice v)
  exact all _ (k.of_records rfl)

/-! ### Diverts (R153 to R155) -/

theorem Stored.divertFromShared (k : Stored p l n u s) {h x j : Nat} {r : Program} (hr : programOf s x = some r)
    (hj : j ∈ programClips r) : Stored p l n u (divertFromShared h x j s) := by
  have off := k.detach h
  unfold Machine.divertFromShared
  dsimp only
  split
  · next c v hc hv =>
    have drawn : Stored p l n u { Machine.setCallRec (Machine.detach h s) h
          { c with voice := some v, announceDue := some (firstDue (Machine.detach h s) c.queue) } with
        freeDraws := (Machine.detach h s).freeDraws + 1 } := Stored.of_records (s := Machine.setCallRec (Machine.detach h s) h
          { c with voice := some v, announceDue := some (firstDue (Machine.detach h s) c.queue) }) (off.setCallRec hc rfl) rfl
    refine drawn.startVoice (voiceOf_of_lowestFreeVoice hv) fun _ => ⟨r, ?_, hj⟩
    rw [← hr]
    show programOf (Machine.detach h s) x = _
    rw [programOf, (audioOnly_detach h s).programs, programOf]
  · exact off.divertDone h false

theorem Stored.divertExit (k : Stored p l n u s) (h : Nat) (c : Call) : Stored p l n u (divertExit h c s) := by
  unfold Machine.divertExit
  split
  · next x j v r hexit hvoice =>
    obtain ⟨-, z, hz, hj⟩ := (exitOf_eq_some ..).1 hexit
    obtain ⟨_, -, e⟩ := Option.bind_eq_some_iff.1 hvoice
    obtain ⟨r', hr', e'⟩ := Option.map_eq_some_iff.1 e
    cases e'
    have hmem : j ∈ programClips z := mem_programClips.2 (.inr (.inl hj))
    split
    · exact k.nextClip hr' fun _ => ⟨x, z, hz, hmem⟩
    · exact k.divertFromShared hz hmem
  · exact k.divertDone h false

theorem Stored.cancelVoice (k : Stored p l n u s) (h : Nat) (c : Call) : Stored p l n u (cancelVoice h c s) := by
  unfold Machine.cancelVoice
  split
  · split
    · next r x hrx =>
      obtain ⟨r', hr', e⟩ := Option.bind_eq_some_iff.1 hrx
      obtain ⟨x', hx', e'⟩ := Option.map_eq_some_iff.1 e
      cases e'
      exact k.nextClip hr' fun hn => ⟨_, x, hx', loopClip_mem (k.loop_pos hn hx')⟩
    · exact k
  · exact k.attach h

end

end Sys2Proof.Machine
end

-- ==== Sys2Proof/Proofs/StoredOrders ====
section
/-! The orders, the clearings and the reset pin keep the clips apart and within the memory, the programs defined and the use counts
right (R117 to R128, R132 to R137, R170). -/

namespace Sys2Proof.Machine

section
variable {p l n u : Prop} {s t : State}

/-! ### Calls -/

theorem quiet_freeCall (s : State) (h : Nat) : Quiet False s (freeCall s h) where
  voices := rfl
  clips := rfl
  programs := rfl
  samples := rfl
  names _ := Or.imp_left fun ⟨e, he, hx⟩ => ⟨e, ((mem_tableErase_iff ..).1 he).1, hx⟩
  ears := False.elim

theorem quiet_leavePlace {h : Nat} {c : Call} (hc : callOf s h = some c) : Quiet False s (leavePlace h c s) := by
  unfold leavePlace
  split
  · have waits : Quiet False s (setCallRec s h { c with status := .waiting }) := quiet_setCallRec hc rfl False.elim
    refine (waits.trans ?_).trans (quiet_notify ..)
    split
    · exact quiet_returnToPlace ..
    · exact .refl _ _
  · exact quiet_leaveList ..
  · exact quiet_leaveList ..
  · exact .refl _ _

theorem Stored.removeCall (k : Stored p l n u s) {h : Nat} {c : Call} (hc : callOf s h = some c) (cause : BitVec 8) :
    Stored p l n u (removeCall h cause c s) := by
  have gone := ((k.quiet (quiet_leavePlace hc)).detach h).quiet
    (((quiet_count _ c.queue (countRemoved cause)).trans (quiet_freeCall _ h)).trans (quiet_evalSurge c.queue _))
  unfold Machine.removeCall
  dsimp only
  split
  · exact gone.quiet (quiet_matchAgent _ False.elim)
  all_goals exact gone

theorem Stored.handleRemove (k : Stored p l n u s) (handle : BitVec 16) (cause : BitVec 8) :
    Stored p l n u (handleRemove handle cause s).1 := by
  unfold Machine.handleRemove
  refine withCall_fst k fun c hc => ?_
  split
  · exact k
  · split
    · exact k
    all_goals exact k.removeCall hc cause

/-- A call is admitted with a program that is defined. -/
theorem Stored.admitCall (k : Stored p l n u s) {slot : Nat} {c : Call}
    (hc : n → ∀ x, c.program = some x → Names s x ∨ programOf s x ≠ none) : Stored p l n u (admitCall slot c s) := by
  have inserted : Stored p l n u { s with calls := tableInsert s.calls slot c, arrivals := s.arrivals + 1 } := by
    refine k.rename rfl rfl rfl rfl fun hn x hx => ?_
    rcases hx with ⟨e, he, hx⟩ | hq
    · rcases mem_tableInsert he with rfl | he
      · exact hc hn x hx
      · exact .inl (.inl ⟨e, he, hx⟩)
    · exact .inl (.inr hq)
  have listed := (inserted.quiet (quiet_setQueueRec (q := c.queue) (r := { queueOf s c.queue with
    waiting := (queueOf s c.queue).waiting ++ [handleOf s slot] }) rfl)).quiet
      (quiet_count _ c.queue fun k => { k with arrived := sat16 (k.arrived + 1) })
  unfold Machine.admitCall
  dsimp only
  split
  · exact listed
  · exact listed.quiet ((quiet_count ..).trans (quiet_count ..))

/-- The program of a new call is defined. -/
theorem enqueueProgram_named {q : Nat} {options program : BitVec 8}
    (hhigh : ¬(optionBit options 2 && decide (32 ≤ program.toNat) && decide (program.toNat ≤ 254)) = true)
    (hlow : ¬(optionBit options 2 && decide (program.toNat < 32) && (programOf s program.toNat).isNone) = true) {x : Nat}
    (hx : enqueueProgram s q options program = some x) : Names s x ∨ programOf s x ≠ none := by
  unfold enqueueProgram at hx
  split at hx
  · cases hx
  split at hx
  · next hbit =>
    unfold orNone at hx
    split at hx
    · cases hx
    next hne =>
    cases hx
    rw [hbit] at hhigh hlow
    have hlt := program.isLt
    simp only [Bool.true_and, Bool.and_eq_true, decide_eq_true_eq, Option.isNone_iff_eq_none, not_and] at hhigh hlow
    exact .inr (hlow (by omega))
  · exact .inl (names_of_queueOf hx)

theorem Stored.handleEnqueue (k : Stored p l n u s) (tag : BitVec 32) (queue options priority : BitVec 8) (skills : BitVec 32)
    (program : BitVec 8) : Stored p l n u (handleEnqueue tag queue options priority skills program s).1 := by
  unfold Machine.handleEnqueue
  dsimp only
  split
  · exact k
  split
  · exact k
  next hhigh =>
  split
  · exact k
  next hlow =>
  split
  · exact k
  split
  · exact k
  · refine (Stored.attach (Stored.quiet (k.admitCall fun _ x hx => ?_) (quiet_evalSurge ..)) _).quiet (quiet_matchCall ..)
    exact enqueueProgram_named hhigh hlow hx

theorem Stored.connectCall (k : Stored p l n u s) {h : Nat} {c : Call} (hc : callOf s h = some c) (a : Nat) :
    Stored p l n u (connectCall h a c s) := by
  have written : Stored p l n u (Machine.setCallRec s h { c with status := .connected s.now }) := k.setCallRec hc rfl
  unfold Machine.connectCall
  refine ((Stored.quiet ?_ (quiet_count ..)).clearAwaiting h).detach h
  split
  · exact written.quiet (quiet_setAgentRec ..)
  · exact written

theorem Stored.handleAnswer (k : Stored p l n u s) (handle agent : BitVec 16) : Stored p l n u (handleAnswer handle agent s).1 := by
  unfold Machine.handleAnswer
  refine withCall_fst k fun c hc => ?_
  split
  · exact k
  · exact withOffer_fst k fun _ _ => k.connectCall hc _

theorem quiet_releaseCall (h a : Nat) (v : Agent) (c : Call) (talk : Time) (s : State) : Quiet False s (releaseCall h a v c talk s) := by
  have written (w : WrapRecord) : Quiet False s (releaseWritten s h a v c w) :=
    ((quiet_count ..).trans (quiet_freeCall ..)).trans (quiet_setAgentRec ..)
  rw [releaseCall_eq]
  split
  · exact (written _).trans (quiet_endWrap False.elim _ _)
  · exact written _

theorem Stored.handleRelease (k : Stored p l n u s) (handle : BitVec 16) : Stored p l n u (handleRelease handle s).1 := by
  unfold Machine.handleRelease
  refine withCall_fst k fun c _ => ?_
  dsimp only
  split
  · exact k
  · exact k
  · exact k
  · split
    · exact k.quiet (quiet_releaseCall ..)
    · exact k

theorem Stored.handleDivert (k : Stored p l n u s) (handle : BitVec 16) : Stored p l n u (handleDivert handle s).1 := by
  unfold Machine.handleDivert
  refine withCall_fst k fun c hc => ?_
  dsimp only
  split
  · exact k
  · exact k
  · exact k
  · exact (k.setCallRec (c := { c with status := .diverting false, awaitingVoice := false }) hc rfl).divertExit ..

theorem Stored.handleCancelDivert (k : Stored p l n u s) (handle : BitVec 16) : Stored p l n u (handleCancelDivert handle s).1 := by
  unfold Machine.handleCancelDivert
  refine withCall_fst k fun c hc => ?_
  dsimp only
  split
  · exact k
  · exact k
  · exact k
  · exact ((k.setCallRec (c := { c with status := .waiting }) hc rfl).cancelVoice ..).quiet (quiet_matchCall ..)

/-! ### Queues -/

theorem Stored.handleSetQueue (k : Stored p l n u s) (f : QueueFields) : Stored p l n u (handleSetQueue f s).1 := by
  cases h : setQueueRefusal s f with
  | some r => rw [handleSetQueue_of_refusal h]; exact k
  | none =>
    rw [handleSetQueue_of_accept h]
    refine k.rename rfl rfl rfl rfl fun _ x hx => ?_
    rcases names_setQueueRec hx with hx | hx
    · exact .inl hx
    rw [setQueueRefusal_eq, Option.map_eq_none_iff, List.find?_eq_none] at h
    have hhigh := h (decide (32 ≤ f.defaultProgram.toNat ∧ f.defaultProgram.toNat ≤ 254), .refuse .badField 18 0) (by simp [setQueueChecks])
    have hlow := h (decide (f.defaultProgram.toNat < 32 ∧ programOf s f.defaultProgram.toNat = none),
      .refuse .noSuch 18 f.defaultProgram.toNat) (by simp [setQueueChecks])
    simp only [decide_eq_true_eq, not_and] at hhigh hlow
    change orNone f.defaultProgram = some x at hx
    unfold orNone at hx
    split at hx
    · cases hx
    · cases hx
      have := f.defaultProgram.isLt
      exact .inr (hlow (by omega))

/-! ### Clips -/

theorem Apart.symm {c d : Clip} (h : Apart c d) : Apart d c := Or.symm h

theorem Stored.setClipRec (k : Stored p l n u s) {j : Nat} {e : Clip} (fine : ClipFine p l e)
    (apart : p → ∀ i d, clipOf s i = some d → i ≠ j → Apart e d)
    (uses : n → u → e.useCount = refsOf s j ∧ (e.useCount ≠ 0 → e.status = .ready)) : Stored p l n u (setClipRec s j e) where
  clips := k.clips.insert fine
  apart hp a b c d hc hd hab := by
    rw [clipOf_setClipRec] at hc hd
    split at hc <;> split at hd
    · next ha hb => exact absurd (ha.trans hb.symm) hab
    · next hb => cases hc; exact apart hp b d hd hb
    · next ha _ => cases hd; exact (apart hp a c hc ha).symm
    · exact k.apart hp a b c d hc hd hab
  samples := k.samples
  named := k.named
  uses hn hu := by
    obtain ⟨h1, h2, h3⟩ := k.uses hn hu
    obtain ⟨hcount, hready⟩ := uses hn hu
    refine ⟨h1, h2, h3.write (k := j) (o := some e) (fun i => by rw [clipOf_setClipRec]) hcount fun c hc => ?_⟩
    cases hc
    exact hready

/-- A clip whose record is written over with its pages and its use count kept. -/
theorem Stored.rewriteClip (k : Stored p l n u s) {j : Nat} {c e : Clip} (hc : clipOf s j = some c) (fine : ClipFine p l e)
    (start : e.startPage = c.startPage) (length : e.length = c.length) (count : e.useCount = c.useCount)
    (status : c.status = .ready → e.status = .ready) : Stored p l n u (Machine.setClipRec s j e) := by
  refine k.setClipRec fine (fun hp i d hd hi => ?_) fun hn hu => ?_
  · have := k.apart hp j i c d hc hd (Ne.symm hi)
    rwa [Apart, start, length]
  · obtain ⟨-, -, h3⟩ := k.uses hn hu
    have hcount := h3.count j
    rw [hc] at hcount
    exact ⟨count.trans hcount, fun h => status (h3.ready j c hc (count ▸ h))⟩

theorem Stored.dropClip (k : Stored p l n u s) {j : Nat} {c : Clip} (hc : clipOf s j = some c)
    (free : c.status ≠ .ready ∨ c.useCount = 0) : Stored p l n u (dropClip s j) where
  clips := k.clips.erase j
  apart hp a b c d hc hd hab := by
    rw [clipOf_dropClip] at hc hd
    split at hc
    · cases hc
    split at hd
    · cases hd
    exact k.apart hp a b c d hc hd hab
  samples := k.samples
  named := k.named
  uses hn hu := by
    obtain ⟨h1, h2, h3⟩ := k.uses hn hu
    refine ⟨h1, h2, h3.write (k := j) (o := none) (fun i => by rw [clipOf_dropClip]) ?_ nofun⟩
    have hcount := h3.count j
    rw [hc] at hcount
    have hzero : c.useCount = 0 := free.elim (fun h => by
      by_contra h0
      exact h (h3.ready j c hc h0)) id
    exact hzero.symm.trans hcount

/-- A clip that is neither LOADING nor in use is opened at pages that no other clip holds. -/
theorem Stored.handleOpenClipLoad (k : Stored p l n u s) (clip : BitVec 8) (startPage : BitVec 16) (length : BitVec 32) :
    Stored p l n u (handleOpenClipLoad clip startPage length s).1 := by
  unfold Machine.handleOpenClipLoad
  dsimp only
  split
  · exact k
  split
  · exact k
  next hlen =>
  split
  · exact k
  next hend =>
  split
  · exact k
  next hold =>
  split
  · exact k
  next hholder =>
  simp only [Config.sampleBytes, Config.pageBytes, not_or, not_lt] at hlen hend
  refine k.setClipRec ⟨fun _ => ⟨hend, Nat.pos_of_ne_zero hlen.1⟩, fun _ cursor x excess he => ?_⟩ (fun _ i d hd hi => ?_) fun hn hu => ?_
  · cases he
    omega
  · rw [pageHolder, Option.map_eq_none_iff, List.find?_eq_none] at hholder
    have := hholder _ (mem_of_tableFind hd)
    simp only [Bool.and_eq_true, bne_iff_ne, ne_eq, hi, not_false_eq_true, true_and, pagesMeet, decide_eq_true_eq, not_and,
      not_lt] at this
    show _ ≤ d.startPage ∨ d.startPage + _ ≤ startPage.toNat
    by_cases h : startPage.toNat < d.startPage + pagesOf d.length
    · exact .inl (this h)
    · exact .inr (by omega)
  · obtain ⟨-, -, h3⟩ := k.uses hn hu
    refine ⟨?_, fun h => absurd rfl h⟩
    have hcount := h3.count clip.toNat
    rw [← hcount]
    cases hc : clipOf s clip.toNat with
    | none => rfl
    | some c =>
      rw [hc] at hold
      simp only [Option.map_some, Option.getD_some, Bool.or_eq_true, bne_iff_ne, not_or, not_not] at hold
      exact hold.2.symm

/-- An order that needs a clip LOADING keeps what its steps keep of that clip. -/
theorem withLoading_keeps {P : State → Prop} {j : Nat} {g : Clip → Nat → Byte → Nat → State → State × Answer} (hs : P s)
    (hg : ∀ c cursor xor excess, clipOf s j = some c → c.status = .loading cursor xor excess → P (g c cursor xor excess s).1) :
    P (withLoading j g s).1 := by
  unfold withLoading
  split
  · exact hs
  · next c hc =>
    split
    · next hst => exact hg _ _ _ _ hc hst
    all_goals exact hs

theorem Stored.withSamples (k : Stored p l n u s) {m : Table Byte} (hm : p → SamplesOk { s with samples := m }) :
    Stored p l n u { s with samples := m } where
  clips := k.clips
  apart := k.apart
  samples := hm
  named := k.named
  uses hn hu := by
    obtain ⟨h1, h2, h3⟩ := k.uses hn hu
    exact ⟨h1, h2, h3⟩

theorem Stored.handleClipData (k : Stored p l n u s) (clip : BitVec 8) (offset : BitVec 32) (data : List (BitVec 8)) :
    Stored p l n u (handleClipData clip offset data s).1 := by
  unfold Machine.handleClipData
  dsimp only
  split
  · exact k
  refine withLoading_keeps k fun c cursor xor excess hc hst => ?_
  split
  · exact k
  have fine := k.clips.find hc
  have hlen : (data.take (c.length - cursor)).length ≤ c.length - cursor := List.length_take_le ..
  obtain ⟨written, hw⟩ : ∃ w, w = data.take (c.length - cursor) := ⟨_, rfl⟩
  rw [← hw] at hlen ⊢
  have loaded : Stored p l n u (Machine.setClipRec s clip.toNat { c with
      status := .loading (cursor + written.length) (xorBytes xor written) (min 4294967295 (excess + (data.length - written.length))) }) := by
    refine k.rewriteClip hc ⟨fine.1, fun hl cursor' x excess' he => ?_⟩ rfl rfl rfl fun h => ?_
    · cases he
      obtain ⟨hcur, -⟩ := fine.2 hl _ _ _ hst
      exact ⟨show cursor + written.length ≤ c.length by omega, Nat.min_le_left ..⟩
    · rw [hst] at h
      cases h
  refine loaded.withSamples fun hp => ?_
  obtain ⟨hin, hwf⟩ := k.samples hp
  obtain ⟨hend, -⟩ := fine.1 hp
  refine ⟨fun e he => ?_, wf_writeBytes _ _ hwf⟩
  rcases mem_writeBytes he with he | he
  · exact hin e he
  · simp only [sampleAddress, Config.pageBytes] at he
    omega

theorem Stored.handleCloseClipLoad (k : Stored p l n u s) (clip expectedXor : BitVec 8) :
    Stored p l n u (handleCloseClipLoad clip expectedXor s).1 := by
  refine withLoading_keeps k fun c cursor xor excess hc hst => ?_
  refine k.rewriteClip hc ⟨(k.clips.find hc).1, fun _ _ _ _ he => ?_⟩ rfl rfl rfl fun h => ?_
  · change closeStatus c cursor xor expectedXor = _ at he
    unfold closeStatus at he
    split at he
    · cases he
    · split at he <;> cases he
  · rw [hst] at h
    cases h

theorem Stored.handleAbortClipLoad (k : Stored p l n u s) (clip : BitVec 8) : Stored p l n u (handleAbortClipLoad clip s).1 :=
  withLoading_keeps k fun _ _ _ _ hc hst => k.dropClip hc (.inl (by rw [hst]; nofun))

theorem Stored.handleFreeClip (k : Stored p l n u s) (clip : BitVec 8) : Stored p l n u (handleFreeClip clip s).1 := by
  unfold Machine.handleFreeClip
  dsimp only
  split
  · exact k
  next c hc =>
  split
  · exact k
  · split
    · exact k
    · next h => exact k.dropClip hc (.inr (not_not.1 h))
  · next hst => exact k.dropClip hc (.inl (by rw [hst]; nofun))

end

end Sys2Proof.Machine
end

-- ==== Sys2Proof/Proofs/ProgramMoves ====
section
/-! SET PROGRAM and DELETE PROGRAM move the references of one program (R121, R135 to R137). -/

namespace Sys2Proof.Machine

section
variable {p l n u : Prop} {s t : State}

/-! ### References moved -/

theorem changeUse_frame (s : State) (j : Nat) (f : Nat → Nat) : changeUse s j f = { s with clips := (changeUse s j f).clips } := by
  unfold changeUse; split <;> rfl

theorem changeUses_frame (js : List Nat) (f : Nat → Nat) (s : State) : js.foldl (fun t j => changeUse t j f) s =
    { s with clips := (js.foldl (fun t j => changeUse t j f) s).clips } := by
  induction js generalizing s with
  | nil => rfl
  | cons j js ih =>
    rw [List.foldl_cons, ih, changeUse_frame s j f]

theorem moveReferences_frame (s : State) (old new : List Nat) :
    moveReferences s old new = { s with clips := (moveReferences s old new).clips } := by
  have taken (t : State) (js : List Nat) : js.foldl takeUse t = { t with clips := (js.foldl takeUse t).clips } := changeUses_frame js _ t
  have given (t : State) (js : List Nat) : js.foldl giveUse t = { t with clips := (js.foldl giveUse t).clips } := changeUses_frame js _ t
  unfold moveReferences
  dsimp only
  rw [taken, given]

/-- Each clip of the list is changed once. -/
theorem clipOf_changeUses {js : List Nat} (hjs : js.Nodup) (f : Nat → Nat) (s : State) (j : Nat) :
    clipOf (js.foldl (fun t j => changeUse t j f) s) j =
      (clipOf s j).map fun c => { c with useCount := if j ∈ js then f c.useCount else c.useCount } := by
  induction js generalizing s with
  | nil => simp
  | cons i js ih =>
    obtain ⟨hi, hjs⟩ := List.nodup_cons.1 hjs
    rw [List.foldl_cons, ih hjs, clipOf_changeUse]
    by_cases hj : j = i
    · subst hj
      cases clipOf s j <;> simp [hi]
    · cases clipOf s j <;> simp [hj]

theorem clipOf_moveReferences {old new : List Nat} (hold : old.Nodup) (hnew : new.Nodup) (s : State) (j : Nat) :
    clipOf (moveReferences s old new) j = (clipOf s j).map fun c => { c with useCount :=
      c.useCount - (if j ∈ old ∧ j ∉ new then 1 else 0) + (if j ∈ new ∧ j ∉ old then 1 else 0) } := by
  have gone : clipOf ((old.filter fun k => !new.contains k).foldl giveUse s) j = _ :=
    clipOf_changeUses (hold.filter fun k => !new.contains k) (· - 1) s j
  have come := clipOf_changeUses (hnew.filter fun k => !old.contains k) (· + 1)
    ((old.filter fun k => !new.contains k).foldl giveUse s) j
  refine come.trans ?_
  rw [gone, Option.map_map]
  congr 1
  funext c
  simp only [Function.comp_apply, List.mem_filter, List.contains_iff_mem, Bool.not_eq_true', ← Bool.not_eq_true]
  split <;> split <;> rfl

theorem audioOnly_moveReferences (s : State) (old new : List Nat) : AudioOnly s (moveReferences s old new) := by
  have fold (js : List Nat) (f : Nat → Nat) (t : State) : AudioOnly t (js.foldl (fun t j => changeUse t j f) t) := by
    induction js generalizing t with
    | nil => exact .refl t
    | cons j js ih => exact (audioOnly_changeUse t j f).trans (ih _)
  exact (fold _ (· - 1) s).trans (fold _ (· + 1) _)

theorem Stored.moveReferences_clips (k : Stored p l n u s) (old new : List Nat) :
    TableOk True (fun _ => ClipFine p l) (moveReferences s old new).clips := by
  have fold (js : List Nat) (f : Nat → Nat) {t : State} (ht : TableOk True (fun _ => ClipFine p l) t.clips) :
      TableOk True (fun _ => ClipFine p l) (js.foldl (fun t j => changeUse t j f) t).clips := by
    induction js generalizing t with
    | nil => exact ht
    | cons j js ih => exact ih (tableOk_changeUse ht j f)
  exact fold _ (· + 1) (fold _ (· - 1) k.clips)

/-- One program written or deleted, with the references moved. -/
theorem Stored.programs (k : Stored p l n u s) {old new : List Nat} {q : Table Program} (hold : old.Nodup) (hnew : new.Nodup)
    (named : n → ProgramsNamed { s with programs := q })
    (refs : n → u → tableRising q = true ∧ ∀ j, (q.countP fun e => (programClips e.2).contains j) + (if j ∈ old then 1 else 0) =
      programRefs s j + if j ∈ new then 1 else 0)
    (ready : ∀ j ∈ new, ∃ c, clipOf s j = some c ∧ c.status = .ready) :
    Stored p l n u { moveReferences s old new with programs := q } where
  clips := k.moveReferences_clips old new
  apart hp := apart_of_withoutUse (audioOnly_moveReferences s old new).2.2 (k.apart hp)
  samples hp := by
    have := k.samples hp
    rwa [SamplesOk, ← (audioOnly_moveReferences s old new).samples] at this
  named hn := by
    have := named hn
    rw [moveReferences_frame]
    exact this
  uses hn hu := by
    obtain ⟨-, h2, h3⟩ := k.uses hn hu
    obtain ⟨hrising, hcount⟩ := refs hn hu
    refine ⟨hrising, by rw [moveReferences_frame]; exact h2, h3.shift (clipOf_moveReferences hold hnew s) (fun j => ?_) (fun j => ?_)
      fun j hj => ready j ?_⟩
    · have := hcount j
      have hv : voiceRefs { moveReferences s old new with programs := q } j = voiceRefs s j := by rw [moveReferences_frame]; rfl
      rw [refsOf, hv, refsOf]
      show (q.countP _) + _ + _ = _
      split_ifs at this ⊢ <;> first | omega | simp_all
    · have := hcount j
      rw [refsOf]
      split_ifs at this ⊢ <;> first | omega | simp_all
    · by_contra h
      exact hj (if_neg fun h' => h h'.1)

/-! ### The clips an accepted SET PROGRAM names (R135) -/

theorem clipRefusal_eq_none {index j : Nat} : clipRefusal s index j = none ↔ ∃ c, clipOf s j = some c ∧ c.status = .ready := by
  unfold clipRefusal
  cases clipOf s j <;> simp

theorem ready_of_loopRefusal {index : Nat} {ks : List Nat} (h : loopRefusal s index ks = none) :
    ∀ j ∈ ks, ∃ c, clipOf s j = some c ∧ c.status = .ready := by
  induction ks generalizing index with
  | nil => nofun
  | cons k ks ih =>
    obtain ⟨hk, hks⟩ := Option.or_eq_none_iff.1 h
    exact List.forall_mem_cons.2 ⟨clipRefusal_eq_none.1 hk, ih hks⟩

theorem ready_of_bandRefusal {index below : Nat} {bs : List (Nat × Nat)} (h : bandRefusal s index below bs = none) :
    ∀ b ∈ bs, ∃ c, clipOf s b.2 = some c ∧ c.status = .ready := by
  induction bs generalizing index below with
  | nil => nofun
  | cons b bs ih =>
    obtain ⟨bound, k⟩ := b
    rw [bandRefusal] at h
    split at h
    · cases h
    · obtain ⟨hk, hbs⟩ := Option.or_eq_none_iff.1 h
      exact List.forall_mem_cons.2 ⟨clipRefusal_eq_none.1 hk, ih hbs⟩

/-- An accepted SET PROGRAM has loop clips, and every clip it names is READY. -/
theorem programContent_fine {f : ProgramFields} (hloop : f.loop.length = 8) (h : setProgramRefusal s f = none) :
    (programContent f).loop ≠ [] ∧ ∀ j ∈ programClips (programContent f), ∃ c, clipOf s j = some c ∧ c.status = .ready := by
  unfold setProgramRefusal at h
  split at h
  · cases h
  split at h
  · cases h
  simp only [Option.or_eq_none_iff] at h
  obtain ⟨hintro, hexit, hover, hnone, hcount, hloops, -, hbands⟩ := h
  have option {o : Option Nat} {index : Nat} (ho : o.bind (clipRefusal s index) = none) {j : Nat} (hj : o = some j) :
      ∃ c, clipOf s j = some c ∧ c.status = .ready := by
    rw [hj] at ho
    exact clipRefusal_eq_none.1 ho
  refine ⟨fun e => ?_, fun j hj => ?_⟩
  · have hlen := congrArg List.length e
    have hcount' : f.loopCount.toNat ≠ 0 := fun h0 => by rw [if_pos (.inl h0)] at hcount; cases hcount
    simp only [programContent, loopClips, List.length_map, List.length_take, hloop, List.length_nil] at hlen
    omega
  · rcases mem_programClips.1 hj with hj | hj | hj | hj | hj | hj
    · exact option hintro hj
    · exact option hexit hj
    · exact option hover hj
    · exact option hnone hj
    · exact ready_of_loopRefusal hloops j hj
    · obtain ⟨b, hb, rfl⟩ := List.mem_map.1 hj
      exact ready_of_bandRefusal hbands b hb

/-! ### The orders -/

theorem nodup_programClips (r : Program) : (programClips r).Nodup := List.nodup_dedup _

theorem nodup_referredBy (o : Option Program) : (referredBy o).Nodup := by
  cases o with
  | none => exact List.nodup_nil
  | some r => exact nodup_programClips r

theorem tally_contains (o : Option Program) (j : Nat) :
    tally (fun r => (programClips r).contains j) o = if j ∈ referredBy o then 1 else 0 := by
  cases o with
  | none => rfl
  | some r => exact if_congr (by simp [referredBy]) rfl rfl

theorem Stored.handleSetProgram (k : Stored p l n u s) (f : ProgramFields) : Stored p l n u (handleSetProgram f s).1 := by
  unfold Machine.handleSetProgram
  split
  · exact k
  next hlen =>
  split
  · exact k
  next hrefusal =>
  have hlen' : f.loop.length = 8 := by omega
  obtain ⟨hloop, hready⟩ := programContent_fine hlen' hrefusal
  have e : (moveReferences s (referredBy (programOf s f.program.toNat)) (programClips (programContent f))).programs = s.programs := by
    rw [moveReferences_frame]
  dsimp only
  rw [e]
  refine k.programs (nodup_referredBy _) (nodup_programClips _) (fun hn => ?_) (fun hn hu => ?_) hready
  · obtain ⟨h1, h2, h3⟩ := (programsNamed_iff s).1 (k.named hn)
    have still {y : Nat} (hy : programOf s y ≠ none) :
        tableFind (tableInsert s.programs f.program.toNat (programContent f)) y ≠ none := by
      rw [tableFind_tableInsert]
      split
      · nofun
      · exact hy
    refine (programsNamed_iff _).2 ⟨fun e he => ?_, fun y hy => still (h2 y hy), fun e he => still (h3 e he)⟩
    rcases mem_tableInsert he with rfl | he
    · exact hloop
    · exact h1 e he
  · obtain ⟨h1, -, -⟩ := k.uses hn hu
    refine ⟨tableRising_tableInsert _ _ h1, fun j => ?_⟩
    have := countP_tableInsert h1 (fun r => (programClips r).contains j) f.program.toNat (programContent f)
    rwa [tally_contains, tally_contains] at this

theorem programHolder_eq_none {x : Nat} : programHolder s x = none ↔ (∀ e ∈ s.voices, e.2.program ≠ x) ∧
    (∀ e ∈ s.queues, e.2.settings.defaultProgram ≠ some x) ∧ ∀ e ∈ s.calls, e.2.program ≠ some x := by
  simp only [programHolder, Option.or_eq_none_iff, Option.map_eq_none_iff, List.find?_eq_none, beq_iff_eq, ne_eq]

theorem Stored.handleDeleteProgram (k : Stored p l n u s) (program : BitVec 8) : Stored p l n u (handleDeleteProgram program s).1 := by
  unfold Machine.handleDeleteProgram
  dsimp only
  split
  · exact k
  split
  · exact k
  next r hr =>
  split
  · exact k
  next hheld =>
  obtain ⟨hvoices, hqueues, hcalls⟩ := programHolder_eq_none.1 hheld
  have e : (moveReferences s (programClips r) []).programs = s.programs := by rw [moveReferences_frame]
  rw [e]
  refine k.programs (nodup_programClips _) List.nodup_nil (fun hn => ?_) (fun hn hu => ?_) nofun
  · obtain ⟨h1, h2, h3⟩ := (programsNamed_iff s).1 (k.named hn)
    have still {y : Nat} (hne : y ≠ program.toNat) (hy : programOf s y ≠ none) :
        tableFind (tableErase s.programs program.toNat) y ≠ none := by
      rwa [tableFind_tableErase_of_ne _ hne]
    refine (programsNamed_iff _).2 ⟨fun e he => h1 e ((mem_tableErase_iff ..).1 he).1, fun y hy => still (fun h => ?_) (h2 y hy),
      fun e he => still (hvoices e he) (h3 e he)⟩
    subst h
    rcases hy with ⟨e, he, hy⟩ | ⟨e, he, hy⟩
    · exact hcalls e he hy
    · exact hqueues e he hy
  · obtain ⟨h1, -, -⟩ := k.uses hn hu
    refine ⟨tableRising_tableErase _ h1, fun j => ?_⟩
    have := countP_tableErase h1 (fun r => (programClips r).contains j) program.toNat
    rw [tally_contains, show tableFind s.programs program.toNat = some r from hr] at this
    rw [if_neg List.not_mem_nil, Nat.add_zero]
    exact this

end

end Sys2Proof.Machine
end

-- ==== Sys2Proof/Proofs/ClipsKept ====
section
/-! Every step keeps the clips apart and within the memory, their loads in range and their use counts right (R117 to R121, R137). -/

namespace Sys2Proof.Machine

section
variable {p l n u : Prop} {s t : State}

/-! ### The clearings and the reset pin -/

theorem quiet_freeAllCalls (s : State) : Quiet False s (freeAllCalls s) := by
  have fold (hs : List Nat) (t : State) : Quiet False t (hs.foldl (fun t h => freeCall t h) t) := by
    induction hs generalizing t with
    | nil => exact .refl _ t
    | cons h hs ih => exact (quiet_freeCall t h).trans (ih _)
  exact fold _ s

theorem quiet_clearQueues (s : State) : Quiet False s (clearQueues s) := by
  have fold (qs : List Nat) (t : State) :
      Quiet False t (qs.foldl (fun t q => setQueueRec t q (clearedQueue t.now (queueOf t q))) t) := by
    induction qs generalizing t with
    | nil => exact .refl _ t
    | cons q qs ih => exact (quiet_setQueueRec (r := clearedQueue t.now (queueOf t q)) rfl).trans (ih _)
  exact fold _ s

/-- Every voice becomes FREE, and every clip that stays keeps the uses of programs alone. -/
theorem Stored.voicesGone (k : Stored p l n u s) (programs : t.programs = s.programs) (samples : t.samples = s.samples)
    (voices : t.voices = []) (names : ∀ x, Names t x → Names s x) (clips : TableOk True (fun _ => ClipFine p l) t.clips)
    (keeps : Clip → Bool) (idle : ∀ c, keeps c = false → c.status ≠ .ready)
    (hclip : ∀ j, clipOf t j = (clipOf s j).bind fun c => if keeps c then some { c with useCount := programRefs s j } else none) :
    Stored p l n u t where
  clips := clips
  apart hp a b c d hc hd hab := by
    rw [hclip] at hc hd
    obtain ⟨x, hx, hc⟩ := Option.bind_eq_some_iff.1 hc
    obtain ⟨y, hy, hd⟩ := Option.bind_eq_some_iff.1 hd
    split at hc <;> cases hc
    split at hd <;> cases hd
    exact k.apart hp a b x y hx hy hab
  samples hp := by
    have := k.samples hp
    rwa [SamplesOk, ← samples] at this
  named hn := by
    obtain ⟨h1, h2, -⟩ := (programsNamed_iff s).1 (k.named hn)
    refine (programsNamed_iff t).2 ⟨by rw [programs]; exact h1, fun x hx => ?_, by rw [voices]; nofun⟩
    rw [programOf, programs]
    exact h2 x (names x hx)
  uses hn hu := by
    obtain ⟨h1, -, h3⟩ := k.uses hn hu
    have hrefs (j : Nat) : refsOf t j = programRefs s j := by
      rw [refsOf, programRefs, programRefs, voiceRefs, programs, voices]; rfl
    refine ⟨by rw [programs]; exact h1, by rw [voices]; rfl, fun j => ?_, fun j c hc hne => ?_⟩
    · rw [hclip, hrefs]
      have used (h : programRefs s j ≠ 0) : ∃ c, clipOf s j = some c ∧ c.status = .ready :=
        h3.of_refs (by rw [refsOf]; omega)
      by_cases h0 : programRefs s j = 0
      · rw [h0]
        cases clipOf s j with
        | none => rfl
        | some c => simp only [Option.bind_some]; split <;> rfl
      · obtain ⟨c, hc, hready⟩ := used h0
        have hk : keeps c = true := by
          by_contra h
          exact idle c (Bool.eq_false_iff.2 h) hready
        rw [hc, Option.bind_some, if_pos hk]
        rfl
    · rw [hclip] at hc
      obtain ⟨x, hx, hc⟩ := Option.bind_eq_some_iff.1 hc
      split at hc
      · cases hc
        obtain ⟨y, hy, hready⟩ := h3.of_refs (k := j) (by rw [refsOf]; change programRefs s j ≠ 0 at hne; omega)
        rw [hx] at hy
        cases hy
        exact hready
      · cases hc

theorem Stored.trafficDropped (k : Stored p l n u s) : Stored p l n u (trafficDropped s) := by
  refine k.voicesGone rfl rfl rfl (fun _ => id) (k.clips.map _ (fun _ => rfl) fun _ h => h) (fun _ => true) nofun fun j => ?_
  refine (tableFind_map s.clips (fun j c => { c with useCount := programRefs s j }) j).trans ?_
  rw [clipOf]
  cases tableFind s.clips j <;> rfl

theorem Stored.clearAll (k : Stored p l n u s) : Stored p l n u (clearAll s) := by
  rw [clearAll_eq]
  exact (k.quiet ((quiet_freeAllCalls s).trans (quiet_clearQueues _))).trafficDropped

theorem tableFind_filter {α : Type} {t : Table α} (ht : tableRising t = true) (f : α → Bool) (k : Nat) :
    tableFind (t.filter fun e => f e.2) k = (tableFind t k).filter f := by
  refine Option.ext fun v => ?_
  rw [tableFind_eq_some_iff (tableRising_filter _ ht), List.mem_filter, ← tableFind_eq_some_iff ht, Option.filter_eq_some_iff]

/-- The clips that the reset pin leaves (R132). -/
theorem clipOf_heldInReset (hs : tableRising s.clips = true) (j : Nat) : clipOf (heldInReset s) j =
    (clipOf s j).bind fun c => if isLoading c then none else some { c with useCount := programRefs s j } := by
  refine (tableFind_map (s.clips.filter fun e => !isLoading e.2) (fun i c => { c with useCount := programRefs s i }) j).trans ?_
  rw [tableFind_filter hs (fun c => !isLoading c), clipOf]
  cases tableFind s.clips j with
  | none => rfl
  | some c => cases h : isLoading c <;> simp [Option.filter, h]

theorem Stored.heldInReset (k : Stored p l n u s) : Stored p l n u (heldInReset s) := by
  refine k.voicesGone rfl rfl rfl (fun x => ?_) ((k.clips.filter _).map _ (fun _ => rfl) fun _ h => h) (fun c => !isLoading c)
    (fun c hc => ?_) fun j => ?_
  · rintro (⟨e, he, -⟩ | ⟨e, he, -⟩) <;> cases he
  · intro hready
    simp [isLoading, hready] at hc
  · rw [clipOf_heldInReset (k.clips.rising trivial)]
    congr 1
    funext c
    cases isLoading c <;> rfl

theorem stored_reset (p l n u : Prop) : Stored p l n u State.reset where
  clips := tableOk_nil
  apart _ _ _ _ _ hc := by cases hc
  samples _ := ⟨nofun, rfl⟩
  named _ := ⟨nofun, nofun, nofun, nofun⟩
  uses _ _ := ⟨rfl, rfl, fun _ => rfl, fun _ _ hc => by cases hc⟩

/-! ### The orders -/

theorem Stored.conclude {r : State × Answer} (k : Stored p l n u r.1) (kind : Nat) : Stored p l n u (conclude kind r) :=
  k.of_records (records_conclude kind r)

theorem Stored.concludeTo {r : State × Answer} (k : Stored p l n u r.1) (dest : Dest) (kind : Nat) :
    Stored p l n u (concludeTo dest kind r) := k.of_records (records_concludeTo dest kind r)

theorem Stored.serviceOnly {g : State → State × Answer} (k : Stored p l n u s) (kg : Stored p l n u (g s).1) :
    Stored p l n u (serviceOnly g s).1 := by
  unfold Machine.serviceOnly
  split
  · exact kg
  · exact k

theorem Stored.handOverOrder (k : Stored p l n u s) (i : Instr) : Stored p l n u (handOverOrder i s) := by
  have service {g : State → State × Answer} (kind : Nat) (kg : Stored p l n u (g s).1) :
      Stored p l n u (Machine.conclude kind (Machine.serviceOnly g s)) := (k.serviceOnly kg).conclude kind
  have same {r : State × Answer} (kind : Nat) (h : r.1 = s) : Stored p l n u (Machine.conclude kind r) :=
    Stored.conclude (h ▸ k) kind
  have quiet {g : State → State × Answer} (kind : Nat) (q : Quiet False s (g s).1) :
      Stored p l n u (Machine.conclude kind (Machine.serviceOnly g s)) := service kind (k.quiet q)
  cases i with
  | startService d b => exact (k.quiet (quiet_handleStartService b s)).concludeTo _ _
  | stopService d => exact (k.quiet (quiet_handleStopService s)).concludeTo _ _
  | clearService d => exact Stored.concludeTo (r := handleClearService s) k.clearAll _ _
  | readEngine => exact k.of_records rfl
  | setQueue f => exact (k.handleSetQueue f).conclude _
  | setQueueState d q st => exact (k.quiet (quiet_handleSetQueueState q st s)).concludeTo _ _
  | readQueue q => exact same _ (handleReadQueue_fst q s)
  | readQueueStatistics q b => exact (k.quiet (quiet_handleReadQueueStatistics q b s)).conclude _
  | readWaiting q f m => exact same _ (handleReadWaiting_fst q f m s)
  | enqueue t q o x j g => exact service _ (k.handleEnqueue t q o x j g)
  | remove h b => exact service _ (k.handleRemove h b)
  | answer h b => exact service _ (k.handleAnswer h b)
  | refuseOffer h b x r => exact quiet _ (quiet_handleRefuseOffer False.elim h b x r)
  | release h => exact service _ (k.handleRelease h)
  | divert h => exact service _ (k.handleDivert h)
  | cancelDivert h => exact service _ (k.handleCancelDivert h)
  | readCall h => exact same _ (handleReadCall_fst h s)
  | login b j v i r => exact quiet _ (quiet_handleLogin False.elim b j v i r)
  | logout b => exact quiet _ (quiet_handleLogout False.elim b)
  | setReady b => exact quiet _ (quiet_handleSetReady False.elim b)
  | setNotReady b r => exact quiet _ (quiet_handleSetNotReady False.elim b r)
  | setSkills b j => exact quiet _ (quiet_handleSetSkills False.elim b j)
  | wrapDone b o j r => exact quiet _ (quiet_handleWrapDone False.elim b o j r)
  | setDisposition b j => exact quiet _ (quiet_handleSetDisposition b j s)
  | extendWrap b => exact quiet _ (quiet_handleExtendWrap b s)
  | readAgent b => exact same _ (handleReadAgent_fst b s)
  | readAgentStates b m => exact same _ (handleReadAgentStates_fst b m s)
  | openClipLoad j x m => exact (k.handleOpenClipLoad j x m).conclude _
  | clipData j o d => exact (k.handleClipData j o d).conclude _
  | closeClipLoad j x => exact (k.handleCloseClipLoad j x).conclude _
  | abortClipLoad j => exact (k.handleAbortClipLoad j).conclude _
  | freeClip j => exact (k.handleFreeClip j).conclude _
  | readClip j o m => exact same _ (handleReadClip_fst j o m s)
  | readClipEntry j => exact same _ (handleReadClipEntry_fst j s)
  | setProgram f => exact (k.handleSetProgram f).conclude _
  | deleteProgram x => exact (k.handleDeleteProgram x).conclude _
  | readProgram x => exact same _ (handleReadProgram_fst x s)
  | readVoice v => exact same _ (handleReadVoice_fst v s)
  | unknownKind j b => exact same _ rfl
  | _ => exact k

/-! ### Every step -/

theorem stepKept_stored (p l n u : Prop) : StepKept (Stored p l n u) where
  same _ _ k e := k.of_records e
  order i _ k := k.handOverOrder i
  play order _ k := k.playFrame order
  offer _ _ _ _ _ hx hst k := k.quiet (quiet_expireOffer False.elim hx hst)
  wrap _ _ _ _ _ _ _ k := k.quiet (quiet_endWrap False.elim _ _)
  cool _ _ _ _ _ _ _ k := k.quiet ((quiet_setAgentRec ..).trans (quiet_matchAgent _ False.elim))
  surge q s _ k := k.quiet (quiet_evalSurge q s)
  reset := stored_reset p l n u
  held _ k := k.heldInReset

/-- The clips in order, in canonical tables. -/
theorem stored_of_canonical (hc : Canonical s) (pages : p → PagesOk s) (samples : p → SamplesOk s) (loads : l → LoadsOk s)
    (named : n → ProgramsNamed s) (uses : n → u → UsesOk s) : Stored p l n u s := by
  obtain ⟨-, -, -, -, -, hclips, hprograms, hvoices, -⟩ := hc
  exact ⟨⟨fun _ => hclips, fun e he => ⟨fun hp => (pages hp).1 e he, fun hl => loads hl e he⟩⟩,
    fun hp => ((pagesOk_iff hclips).1 (pages hp)).2, samples, named,
    fun hn hu => ⟨hprograms, hvoices, (usesOk_iff s).1 (uses hn hu)⟩⟩

/-- Settles O57: the clips in order, asked for in its three parts. -/
theorem clipsNeverShareAPage : Obligations.ClipsNeverShareAPage := by
  refine ⟨fun s t hc hpages hsamples e => ?_, fun s t hc hloads e => ?_, fun s t hc _ hnamed huses e => ?_⟩
  · have k : Stored True False False False s :=
      stored_of_canonical hc (fun _ => hpages) (fun _ => hsamples) False.elim False.elim False.elim
    have k' := (stepKept_stored ..).step k e
    exact ⟨(pagesOk_iff (k'.clips.rising trivial)).2 ⟨fun e he => (k'.clips.each e he).1 trivial, k'.apart trivial⟩,
      k'.samples trivial⟩
  · have k : Stored False True False False s := stored_of_canonical hc False.elim False.elim (fun _ => hloads) False.elim False.elim
    have k' := (stepKept_stored ..).step k e
    exact fun e he => (k'.clips.each e he).2 trivial
  · have k : Stored False False True True s :=
      stored_of_canonical hc False.elim False.elim False.elim (fun _ => hnamed) fun _ _ => huses
    have k' := (stepKept_stored ..).step k e
    exact ⟨k'.named trivial, (usesOk_iff t).2 (k'.uses trivial trivial).uses⟩

end

end Sys2Proof.Machine
end

-- ==== Sys2Proof/Proofs/PinsAndClock ====
section
/-! What the supply, the reset pin and the reference clock set and keep, and that nothing moves while the engine stands (R164, R172,
R173, R189). -/

namespace Sys2Proof.Machine

section
variable {s : State}

/-! ### The engine stands -/

theorem takeOrder_of_not_running (hr : running s = false) (c : Instr) : takeOrder c s = s := by
  rw [takeOrder, hr]; rfl

theorem inSync_of_not_running (hr : running s = false) : inSync s = false := by rw [inSync, hr]; rfl

theorem execOfferExpiry_of_not_running (hr : running s = false) (handle : BitVec 16) : execOfferExpiry handle s = .next s := by
  simp only [execOfferExpiry, inSync_of_not_running hr, Bool.false_and, Bool.false_eq_true, if_false]
  split
  · rfl
  · split <;> rfl

theorem execWrapExpiry_of_not_running (hr : running s = false) (agent : BitVec 16) : execWrapExpiry agent s = .next s := by
  simp only [execWrapExpiry, inSync_of_not_running hr, Bool.false_and, Bool.false_eq_true, if_false]
  split
  · rfl
  · split <;> rfl

theorem execCoolDownEnd_of_not_running (hr : running s = false) (agent : BitVec 16) : execCoolDownEnd agent s = .next s := by
  simp only [execCoolDownEnd, inSync_of_not_running hr, Bool.false_and, Bool.false_eq_true, if_false]
  split
  · rfl
  · split <;> rfl

theorem execSurgeWholeSecondEvaluation_of_not_running (hr : running s = false) (order : List Nat) :
    execSurgeWholeSecondEvaluation order s = .next s := by
  simp only [execSurgeWholeSecondEvaluation, inSync_of_not_running hr, Bool.false_and, Bool.false_eq_true, if_false]

/-- No command but those of the pins, the supply and the clock does anything while the engine stands. -/
theorem exec_of_not_running (hr : running s = false) {c : Instr} (hc : pinCommand c = false) : exec c s = .next s := by
  have guarded {f : State} : (Host.Outcome.next (if running s then f else s) : Host.Outcome State Fault Refusal) = .next s := by
    rw [hr]; rfl
  have order (he : exec c s = .next (takeOrder c s)) : exec c s = .next s := by rw [he, takeOrder_of_not_running hr]
  cases c
  case powerOn | resetPinAssert | resetPinRelease | refclkStop | refclkReturn => cases hc
  case highwayFrame => exact guarded
  case timeUnitBoundary => exact guarded
  case characterReceived => exact guarded
  case frameReceived => exact guarded
  case gapLimit => exact guarded
  case frameSent => exact guarded
  case syncLoss =>
    show execSyncLoss s = _
    rw [execSyncLoss, hr]
    rfl
  case offerExpiry h => exact execOfferExpiry_of_not_running hr h
  case wrapExpiry a => exact execWrapExpiry_of_not_running hr a
  case coolDownEnd a => exact execCoolDownEnd_of_not_running hr a
  case surgeWholeSecondEvaluation l => exact execSurgeWholeSecondEvaluation_of_not_running hr l
  case unknownKind kind body =>
    show execUnknownKind kind body s = _
    rw [execUnknownKind, takeOrder_of_not_running hr, ite_self]
  case broadcastDropped kind body =>
    show execBroadcastDropped kind body s = _
    rw [execBroadcastDropped, takeOrder_of_not_running hr, ite_self]
  all_goals exact order rfl

theorem running_eq_false : running s = false ↔ s.clockRunning = false ∨ s.resetHeld = true := by
  cases h : s.clockRunning <;> simp [running, h]

/-! ### The pins -/

theorem exec_resetPinAssert (hs : s.resetHeld = false) : exec .resetPinAssert s = .next (heldInReset s) := by
  show execResetPinAssert s = _
  rw [execResetPinAssert, hs]
  rfl

/-- Settles O4: the pins by their definitions, the clips after the reset pin by `clipOf_heldInReset`. -/
theorem powerResetAndClockSetTheirValues : Obligations.PowerResetAndClockSetTheirValues := by
  refine ⟨fun a r s => rfl, fun s hs hc => ?_, fun a r s hs => ⟨?_, ?_⟩, fun a r s hs => ?_, fun s => rfl, fun s => rfl,
    fun c s hs hc => exec_of_not_running (running_eq_false.2 hs) hc⟩
  · obtain ⟨-, -, -, -, -, hclips, -⟩ := hc
    exact ⟨heldInReset s, exec_resetPinAssert hs, rfl, clipOf_heldInReset hclips⟩
  · show execResetPinAssert s = _
    rw [execResetPinAssert, if_pos hs]
  · show execResetPinRelease a r s = _
    rw [execResetPinRelease, if_pos hs]
    rfl
  · show execResetPinRelease a r s = _
    rw [execResetPinRelease, hs]
    rfl

end

end Sys2Proof.Machine
end

-- ==== Sys2Proof/Proofs/ClipSessions ====
section
/-! The load sessions of a clip and the bytes of CLIP DATA (R117, R122 to R128). -/

namespace Sys2Proof.Machine

section
variable {s : State}

/-- An order taken at once is answered as its handler says. -/
theorem exec_answered_as {c : Instr} {kind : Nat} (ht : takes s = true) (he : exec c s = .next (takeOrder c s)) {r : State × Answer}
    (hr : handOverOrder c s = conclude kind r) {t : State} {a : Answer} (hg : r = (t, a)) : exec c s = .next (answered kind t a) := by
  rw [exec_answered ht he hr, hg]

theorem bne_zero (n : Nat) : (n != 0) = decide (n ≠ 0) := by cases n <;> rfl

/-! ### OPEN CLIP LOAD (R122, R123) -/

section
variable {k : BitVec 8} {page : BitVec 16} {len : BitVec 32}

theorem handleOpenClipLoad_of_page (h : 8191 < page.toNat) : handleOpenClipLoad k page len s = (s, .refuse .badField 2 0) := by
  simp only [handleOpenClipLoad, badField, if_pos h]

theorem handleOpenClipLoad_of_length (h1 : page.toNat ≤ 8191) (h2 : len = 0 ∨ 4194304 < len.toNat) :
    handleOpenClipLoad k page len s = (s, .refuse .badField 3 0) := by
  have h2' : len.toNat = 0 ∨ len.toNat > Config.sampleBytes := h2.imp_left fun h => by rw [h]; rfl
  simp only [handleOpenClipLoad, badField, if_neg h1.not_gt, if_pos h2']

/-- A page and a length of the memory's size. -/
structure RangeNamed (page : BitVec 16) (len : BitVec 32) : Prop where
  page : page.toNat ≤ 8191
  length : len ≠ 0
  bound : len.toNat ≤ 4194304

theorem RangeNamed.not (r : RangeNamed page len) : ¬(len.toNat = 0 ∨ len.toNat > Config.sampleBytes) := by
  rintro (h | h)
  · exact r.length (BitVec.eq_of_toNat_eq h)
  · exact absurd r.bound (not_le.2 h)

theorem handleOpenClipLoad_of_end (r : RangeNamed page len) (h : 4194304 < page.toNat * 512 + len.toNat) :
    handleOpenClipLoad k page len s = (s, .refuse .badField 3 (4194304 - page.toNat * 512)) := by
  have h' : page.toNat * Config.pageBytes + len.toNat > Config.sampleBytes := h
  simp only [handleOpenClipLoad, if_neg r.page.not_gt, if_neg r.not, if_pos h']
  rfl

variable (r : RangeNamed page len) (hend : page.toNat * 512 + len.toNat ≤ 4194304)
include r hend

theorem handleOpenClipLoad_of_held {c : Clip} (hc : clipOf s k.toNat = some c) (h : isLoading c = true ∨ c.useCount ≠ 0) :
    handleOpenClipLoad k page len s = (s, .refuse .inUse 1 (clipStateCode (some c) * 65536 + c.useCount)) := by
  have hend' : ¬ page.toNat * Config.pageBytes + len.toNat > Config.sampleBytes := not_lt.2 hend
  have held : (isLoading c || c.useCount != 0) = true := by simpa [bne_iff_ne] using h
  simp only [handleOpenClipLoad, if_neg r.page.not_gt, if_neg r.not, if_neg hend', hc, Option.map_some, Option.getD_some, held, if_true]

variable (hold : ∀ c, clipOf s k.toNat = some c → isLoading c = false ∧ c.useCount = 0)
include hold

theorem handleOpenClipLoad_of_free : handleOpenClipLoad k page len s = (pageHolder s k.toNat page.toNat (pagesOf len.toNat)).elim
    (setClipRec s k.toNat { status := .loading 0 0 0, startPage := page.toNat, length := len.toNat, useCount := 0 },
      .accept false [f1 k.toNat, f1 (clipStateCode (clipOf s k.toNat)), f2 page.toNat, f2 (pagesOf len.toNat)])
    fun j => (s, .refuse .inUse 2 j) := by
  have hend' : ¬ page.toNat * Config.pageBytes + len.toNat > Config.sampleBytes := not_lt.2 hend
  have free : ((clipOf s k.toNat).map fun c => isLoading c || c.useCount != 0).getD false = false := by
    cases hc : clipOf s k.toNat with
    | none => rfl
    | some c =>
      obtain ⟨h1, h2⟩ := hold c hc
      simp [h1, h2]
  simp only [handleOpenClipLoad, if_neg r.page.not_gt, if_neg r.not, if_neg hend', free, Bool.false_eq_true, if_false]
  cases pageHolder s k.toNat page.toNat (pagesOf len.toNat) <;> rfl

end

theorem pageHolder_eq (k start n : Nat) : pageHolder s k start n = (s.clips.find? fun e => e.1 != k &&
    decide (start < e.2.startPage + (e.2.length + 511) / 512) && decide (e.2.startPage < start + n)).map (·.1) := by
  simp only [pageHolder, pagesMeet, Bool.and_assoc]
  rfl

theorem pageHolder_eq_none {k start n : Nat} (h : ∀ e ∈ s.clips, e.1 ≠ k →
    e.2.startPage + (e.2.length + 511) / 512 ≤ start ∨ start + n ≤ e.2.startPage) : pageHolder s k start n = none := by
  rw [pageHolder_eq, Option.map_eq_none_iff, List.find?_eq_none]
  intro e he
  simp only [Bool.and_eq_true, bne_iff_ne, decide_eq_true_eq]
  rintro ⟨⟨hne, h1⟩, h2⟩
  rcases h e he hne with h | h <;> omega

/-! ### CLOSE CLIP LOAD, ABORT CLIP LOAD and FREE CLIP (R126 to R128) -/

theorem withLoading_of_loading {k : Nat} {c : Clip} {cursor : Nat} {x : Byte} {excess : Nat} (hc : clipOf s k = some c)
    (hst : c.status = .loading cursor x excess) (go : Clip → Nat → Byte → Nat → State → State × Answer) :
    withLoading k go s = go c cursor x excess s := by
  simp only [withLoading, hc, hst]

theorem withLoading_of_not_loading {k : Nat} (h : ∀ c, clipOf s k = some c → isLoading c = false)
    (go : Clip → Nat → Byte → Nat → State → State × Answer) :
    withLoading k go s = (s, .refuse .wrongState 1 (clipStateCode (clipOf s k))) := by
  unfold withLoading
  cases hc : clipOf s k with
  | none => rfl
  | some c =>
    have hl := h c hc
    cases hst : c.status with
    | loading a b d => simp [isLoading, hst] at hl
    | ready => simp only [hst, wrongState]
    | faulty f => simp only [hst, wrongState]

theorem clipStateCode_of_loading {c : Clip} {cursor : Nat} {x : Byte} {excess : Nat} (hst : c.status = .loading cursor x excess) :
    clipStateCode (some c) = 1 := by simp only [clipStateCode, hst]

theorem handleFreeClip_of_loading {k : BitVec 8} {c : Clip} (hc : clipOf s k.toNat = some c) (h : isLoading c = true) :
    handleFreeClip k s = (s, .refuse .wrongState 1 1) := by
  cases hst : c.status with
  | loading a b d => simp only [handleFreeClip, hc, hst, wrongState, clipStateCode_of_loading hst]
  | ready => simp [isLoading, hst] at h
  | faulty f => simp [isLoading, hst] at h

theorem handleFreeClip_of_used {k : BitVec 8} {c : Clip} (hc : clipOf s k.toNat = some c) (hst : c.status = .ready)
    (hu : c.useCount ≠ 0) : handleFreeClip k s = (s, .refuse .inUse 1 c.useCount) := by
  simp only [handleFreeClip, hc, hst, if_pos hu]

theorem handleFreeClip_of_free {k : BitVec 8} {c : Clip} (hc : clipOf s k.toNat = some c) (hl : isLoading c = false)
    (h : c.status ≠ .ready ∨ c.useCount = 0) : handleFreeClip k s =
      (dropClip s k.toNat, .accept false [f1 k.toNat, f1 (clipStateCode (some c)), f2 ((c.length + 511) / 512)]) := by
  cases hst : c.status with
  | loading a b d => simp [isLoading, hst] at hl
  | ready =>
    have hu : c.useCount = 0 := h.resolve_left fun hne => hne hst
    simp only [handleFreeClip, hc, hst, hu, ne_eq, not_true_eq_false, if_false]
    rfl
  | faulty f =>
    simp only [handleFreeClip, hc, hst]
    rfl

theorem closeStatus_of_short {c : Clip} {cursor : Nat} (h : cursor < c.length) (x e : Byte) : closeStatus c cursor x e = .faulty .short :=
  if_pos h

theorem closeStatus_of_whole {c : Clip} {cursor : Nat} (h : c.length ≤ cursor) (x e : Byte) :
    closeStatus c cursor x e = if x = e then .ready else .faulty .check := by
  rw [closeStatus, if_neg h.not_gt, ite_not]

theorem clips_dropped {k : BitVec 8} : clipOf (dropClip s k.toNat) k.toNat = none ∧
    (∀ j, j ≠ k.toNat → clipOf (dropClip s k.toNat) j = clipOf s j) ∧ { dropClip s k.toNat with clips := s.clips } = s :=
  ⟨by rw [clipOf_dropClip, if_pos rfl], fun j hj => by rw [clipOf_dropClip, if_neg hj], rfl⟩

/-- Settles O49: each order by the equations of its handler. -/
theorem clipSessionsOpenCloseAndEnd : Obligations.ClipSessionsOpenCloseAndEnd := by
  refine ⟨fun k page len s ht => ?_, fun k x s ht => ⟨fun c cursor acc excess hc hst => ?_, fun c hc hl => ?_, fun hc => ?_⟩⟩
  · have as {t : State} {a : Answer} (h : handleOpenClipLoad k page len s = (t, a)) :
        exec (.openClipLoad k page len) s = .next (answered 0x40 t a) := exec_answered_as ht rfl rfl h
    refine ⟨fun h => as (handleOpenClipLoad_of_page h), fun hp => ⟨fun h => as (handleOpenClipLoad_of_length hp h), fun h0 hlen => ?_⟩⟩
    have range : RangeNamed page len := ⟨hp, h0, hlen⟩
    refine ⟨fun h => as (handleOpenClipLoad_of_end range h), fun hend => ⟨fun c hc h => as (handleOpenClipLoad_of_held range hend hc h),
      fun hold => ⟨fun e he => as ?_, fun hfree => as ?_⟩⟩⟩
    · have holder : pageHolder s k.toNat page.toNat (pagesOf len.toNat) = some e.1 :=
        (pageHolder_eq ..).trans (congrArg (Option.map (·.1)) he)
      rw [handleOpenClipLoad_of_free range hend hold, holder, Option.elim_some]
    · have apart : pageHolder s k.toNat page.toNat (pagesOf len.toNat) = none := pageHolder_eq_none hfree
      rw [handleOpenClipLoad_of_free range hend hold, apart]
      rfl
  · have close : handleCloseClipLoad k x s = _ := withLoading_of_loading hc hst _
    have abort : handleAbortClipLoad k s = _ := withLoading_of_loading hc hst _
    refine ⟨⟨setClipRec s k.toNat { c with status := closeStatus c cursor acc x }, { c with status := closeStatus c cursor acc x },
        (exec_answered_as ht rfl rfl close).trans (by rw [bne_zero]), by rw [clipOf_setClipRec, if_pos rfl],
        fun h => ?_, fun h hx => ?_, fun h hx => ?_, fun j hj => by rw [clipOf_setClipRec, if_neg hj], rfl⟩,
      ⟨_, exec_answered_as ht rfl rfl abort, clips_dropped⟩,
      exec_answered_as ht rfl rfl (handleFreeClip_of_loading hc (by rw [isLoading, hst]))⟩
    · rw [closeStatus_of_short h]
    · rw [closeStatus_of_whole h, if_neg hx]
    · rw [closeStatus_of_whole h, if_pos hx]
  · have other : ∀ d, clipOf s k.toNat = some d → isLoading d = false := fun d hd => by rw [hc] at hd; cases hd; exact hl
    have refused (go) : withLoading k.toNat go s = (s, .refuse .wrongState 1 (clipStateCode (some c))) := by
      rw [withLoading_of_not_loading other, hc]
    exact ⟨exec_answered_as ht rfl rfl (refused _), exec_answered_as ht rfl rfl (refused _),
      fun hst hu => exec_answered_as ht rfl rfl (handleFreeClip_of_used hc hst hu),
      fun h => ⟨_, exec_answered_as ht rfl rfl (handleFreeClip_of_free hc hl h), clips_dropped⟩⟩
  · have refused (go) : withLoading k.toNat go s = (s, .refuse .wrongState 1 0) := by
      rw [withLoading_of_not_loading (fun d hd => by rw [hc] at hd; cases hd), hc]
      rfl
    exact ⟨exec_answered_as ht rfl rfl (refused _), exec_answered_as ht rfl rfl (refused _),
      exec_answered_as ht rfl rfl (by simp only [handleFreeClip, hc, wrongState])⟩

/-! ### CLIP DATA (R124, R125) -/

/-- The state after CLIP DATA that was taken at the load cursor. -/
def dataTaken (s : State) (k : Nat) (c : Clip) (cursor : Nat) (x : Byte) (excess : Nat) (data : List Byte) : State :=
  let written := data.take (c.length - cursor)
  let loaded : ClipStatus := .loading (cursor + written.length) (xorBytes x written)
    (min 4294967295 (excess + (data.length - written.length)))
  { setClipRec s k { c with status := loaded } with
    samples := writeBytes s.samples (sampleAddress c cursor) written }

theorem handleClipData_of_length {data : List Byte} (h1 : 1 ≤ data.length) (h2 : data.length ≤ 240) (k : BitVec 8)
    (offset : BitVec 32) (s : State) : handleClipData k offset data s = withLoading k.toNat (fun c cursor x excess s =>
      if offset.toNat ≠ cursor then (s, .refuse .sequence 2 cursor)
      else (dataTaken s k.toNat c cursor x excess data,
        .accept (data.length - (data.take (c.length - cursor)).length != 0) [f1 k.toNat,
          f4 (cursor + (data.take (c.length - cursor)).length), f1 (data.take (c.length - cursor)).length,
          f1 (data.length - (data.take (c.length - cursor)).length)])) s := by
  simp only [handleClipData, if_neg (show ¬(data.length < 1 ∨ data.length > 240) by omega)]
  rfl

section
variable {k : Nat} {c : Clip} {cursor n : Nat} {x : Byte} {excess : Nat} {data : List Byte}

theorem take_of_min (hn : n = min data.length (c.length - cursor)) :
    data.take (c.length - cursor) = data.take n ∧ (data.take n).length = n := by
  constructor
  · rw [List.take_eq_take_iff, hn]
    omega
  · rw [List.length_take]
    omega

theorem clipOf_dataTaken (s : State) (j : Nat) : clipOf (dataTaken s k c cursor x excess data) j = if j = k then
    some { c with
      status := .loading (cursor + (data.take (c.length - cursor)).length) (xorBytes x (data.take (c.length - cursor)))
        (min 4294967295 (excess + (data.length - (data.take (c.length - cursor)).length))) } else clipOf s j :=
  clipOf_setClipRec ..

theorem sampleAt_dataTaken (s : State) (hn : n = min data.length (c.length - cursor)) (addr : Nat) :
    sampleAt (dataTaken s k c cursor x excess data) addr =
      if c.startPage * 512 + cursor ≤ addr ∧ addr < c.startPage * 512 + cursor + n then
        (data[addr - (c.startPage * 512 + cursor)]?).getD (Config.undefinedSample s.powerOns addr) else sampleAt s addr := by
  obtain ⟨htake, hlen⟩ := take_of_min hn
  have e : sampleAt (dataTaken s k c cursor x excess data) addr =
      (tableFind (writeBytes s.samples (sampleAddress c cursor) (data.take (c.length - cursor))) addr).getD
        (Config.undefinedSample s.powerOns addr) := rfl
  rw [e, tableFind_writeBytes, htake, hlen, show sampleAddress c cursor = c.startPage * 512 + cursor from rfl]
  split
  · next h => rw [List.getElem?_take_of_lt (by omega)]
  · rfl

end

/-- Settles O50, by what the bytes read as after the write. -/
theorem clipDataWritesTheBytesInPlace : Obligations.ClipDataWritesTheBytesInPlace := by
  refine fun k offset data s ht h1 h2 => ⟨fun c hc hl => ?_, fun c cursor x excess hc hst => ⟨fun hne => ?_, fun he => ?_⟩⟩
  · refine exec_answered_as ht rfl rfl ((handleClipData_of_length h1 h2 ..).trans ?_)
    rw [withLoading_of_not_loading (fun d hd => hl d (hc.symm.trans hd)), hc]
  · refine exec_answered_as ht rfl rfl ((handleClipData_of_length h1 h2 ..).trans ?_)
    rw [withLoading_of_loading hc hst, if_pos hne]
  · obtain ⟨n, hn⟩ : ∃ n, n = min data.length (c.length - cursor) := ⟨_, rfl⟩
    obtain ⟨htake, hlen⟩ := take_of_min hn
    refine ⟨dataTaken s k.toNat c cursor x excess data, n, hn, exec_answered_as ht rfl rfl ((handleClipData_of_length h1 h2 ..).trans ?_),
      ?_, fun i b hi hb => ?_, fun addr ha => ?_, fun j hj => ?_, rfl⟩
    · rw [withLoading_of_loading hc hst, if_neg (not_not.2 he), htake, hlen, bne_zero]
      rw [show decide (data.length - n ≠ 0) = decide (n < data.length) from decide_eq_decide.2 (by omega)]
    · rw [clipOf_dataTaken, if_pos rfl, htake, hlen]
      rfl
    · rw [sampleAt_dataTaken s hn, if_pos (by omega), Nat.add_sub_cancel_left, hb]
      rfl
    · rw [sampleAt_dataTaken s hn, if_neg (by omega)]
    · rw [clipOf_dataTaken, if_neg hj]

end

end Sys2Proof.Machine
end

-- ==== Sys2Proof/Proofs/ProgramOrders ====
section
/-! SET PROGRAM and DELETE PROGRAM: the checks in their order, and what an accepted order leaves (R135 to R137). -/

namespace Sys2Proof.Machine

/-! ### The first check that fails -/

/-- The answer of the first check of a list that fails. -/
def firstFailure (l : List (Bool × Answer)) : Option Answer := (l.find? fun e => e.1).map (·.2)

theorem firstFailure_append (l m : List (Bool × Answer)) : firstFailure (l ++ m) = (firstFailure l).or (firstFailure m) := by
  rw [firstFailure, firstFailure, firstFailure, List.find?_append]
  cases l.find? fun e => e.1 <;> rfl

/-- The answer of a check when it fails. -/
def failure (e : Bool × Answer) : Option Answer := if e.1 then some e.2 else none

theorem firstFailure_nil : firstFailure [] = none := rfl

theorem firstFailure_cons (e : Bool × Answer) (l : List (Bool × Answer)) : firstFailure (e :: l) = (failure e).or (firstFailure l) := by
  obtain ⟨b, a⟩ := e
  cases b <;> rfl

theorem failure_check (p : Prop) [Decidable p] (a : Answer) : failure (decide p, a) = if p then some a else none := by
  simp only [failure, decide_eq_true_eq]

theorem ite_eq_or {α : Type} (p : Prop) [Decidable p] (a : α) (o : Option α) :
    (if p then some a else o) = (if p then some a else none).or o := by
  split <;> rfl

theorem or_congr_of_none {α : Type} {o x y : Option α} (h : o = none → x = y) : o.or x = o.or y := by
  cases o with
  | none => rw [h rfl]
  | some a => rfl

section
variable {s : State}

/-! ### The checks of SET PROGRAM (R135) -/

/-- The check that a clip is READY. -/
def clipCheck (s : State) (index : Nat) (k : BitVec 8) : Bool × Answer :=
  (decide (clipStateCode (clipOf s k.toNat) ≠ 2), .refuse .wrongState index (k.toNat * 65536 + clipStateCode (clipOf s k.toNat)))

/-- The check that a clip is READY, made where an option bit is set. -/
def optionCheck (s : State) (b : Bool) (index : Nat) (k : BitVec 8) : Bool × Answer :=
  (b && (clipCheck s index k).1, (clipCheck s index k).2)

/-- The bound of band `j`. -/
def boundAt (l : List (BitVec 16 × BitVec 8)) (j : Nat) : Nat := (l.getD j (0, 0)).1.toNat

/-- The checks of band `j` with its bound at field index `index`. -/
def bandChecks (s : State) (index : Nat) (l : List (BitVec 16 × BitVec 8)) (below j : Nat) : List (Bool × Answer) :=
  [(decide (boundAt l j = 0 ∨ boundAt l j = 65535 ∨ boundAt l j ≤ below), .refuse .badField index (boundAt l j)),
    clipCheck s (index + 1) (l.getD j (0, 0)).2]

theorem clipStateCode_eq_two (o : Option Clip) : clipStateCode o = 2 ↔ ∃ c, o = some c ∧ c.status = .ready := by
  cases o with
  | none => simp [clipStateCode]
  | some c => cases h : c.status <;> simp [clipStateCode, h]

theorem clipRefusal_eq (index : Nat) (k : BitVec 8) : clipRefusal s index k.toNat = failure (clipCheck s index k) := by
  rw [clipCheck, failure_check]
  by_cases h : clipStateCode (clipOf s k.toNat) = 2
  · rw [if_neg (not_not.2 h)]
    exact clipRefusal_eq_none.2 ((clipStateCode_eq_two _).1 h)
  · have hne : clipRefusal s index k.toNat ≠ none := fun e => h ((clipStateCode_eq_two _).2 (clipRefusal_eq_none.1 e))
    rw [if_pos h]
    unfold clipRefusal at hne ⊢
    split at hne
    · exact absurd rfl hne
    · next hready => rw [if_neg hready]

theorem optionRefusal_eq (f : ProgramFields) (i index : Nat) (k : BitVec 8) :
    (optionClip f i k).bind (clipRefusal s index) = failure (optionCheck s (f.options.getLsbD i) index k) := by
  have e : optionClip f i k = if f.options.getLsbD i then some k.toNat else none := rfl
  rw [e, optionCheck]
  cases f.options.getLsbD i with
  | false => rfl
  | true => exact clipRefusal_eq index k

theorem loopRefusal_eq {l : List (BitVec 8)} {n : Nat} (hn : n ≤ l.length) (index : Nat) :
    loopRefusal s index ((l.take n).map (·.toNat)) =
      firstFailure ((List.range n).map fun j => clipCheck s (index + j) (l.getD j 0)) := by
  induction n generalizing l index with
  | zero => rfl
  | succ n ih =>
    cases l with
    | nil => exact absurd hn (Nat.not_succ_le_zero n)
    | cons k l =>
      rw [List.take_succ_cons, List.map_cons, loopRefusal, ih (Nat.le_of_succ_le_succ hn), clipRefusal_eq, List.range_succ_eq_map,
        List.map_cons, List.map_map, firstFailure_cons]
      refine congrArg _ (congrArg _ (List.map_congr_left fun j _ => ?_))
      simp only [Function.comp_apply, List.getD_cons_succ, Nat.succ_eq_add_one]
      rw [show index + 1 + j = index + (j + 1) by omega]

theorem bandRefusal_eq {l : List (BitVec 16 × BitVec 8)} {n : Nat} (hn : n ≤ l.length) (index below : Nat) :
    bandRefusal s index below ((l.take n).map fun b => (b.1.toNat, b.2.toNat)) = firstFailure ((List.range n).flatMap fun j =>
      bandChecks s (index + 2 * j) l (if j = 0 then below else boundAt l (j - 1)) j) := by
  induction n generalizing l index below with
  | zero => rfl
  | succ n ih =>
    cases l with
    | nil => exact absurd hn (Nat.not_succ_le_zero n)
    | cons b l =>
      obtain ⟨bound, k⟩ := b
      have tail (j : Nat) : bandChecks s (index + 2 * (j + 1)) ((bound, k) :: l)
          (if j + 1 = 0 then below else boundAt ((bound, k) :: l) (j + 1 - 1)) (j + 1) =
          bandChecks s (index + 2 + 2 * j) l (if j = 0 then bound.toNat else boundAt l (j - 1)) j := by
        rw [if_neg (Nat.succ_ne_zero j), show index + 2 * (j + 1) = index + 2 + 2 * j by omega]
        cases j <;> rfl
      rw [List.take_succ_cons, List.map_cons, bandRefusal, ih (Nat.le_of_succ_le_succ hn), clipRefusal_eq, List.range_succ_eq_map,
        List.flatMap_cons, List.flatMap_map, firstFailure_append]
      simp only [Nat.succ_eq_add_one, tail]
      show _ = (firstFailure (bandChecks s index ((bound, k) :: l) below 0)).or _
      rw [bandChecks, firstFailure_cons, failure_check, firstFailure_cons, firstFailure_nil, Option.or_none, Option.or_assoc]
      exact ite_eq_or ..

/-- The checks of SET PROGRAM in field-index order. -/
def setProgramChecks (s : State) (f : ProgramFields) : List (Bool × Answer) :=
  [(decide (31 < f.program.toNat), .refuse .badField 1 0), (decide (15 < f.options.toNat), .refuse .badField 2 0),
    optionCheck s (f.options.getLsbD 0) 3 f.introClip, optionCheck s (f.options.getLsbD 1) 4 f.exitClip,
    optionCheck s (f.options.getLsbD 2) 5 f.overClip, optionCheck s (f.options.getLsbD 3) 6 f.noEstimateClip,
    (decide (f.loopCount = 0 ∨ 8 < f.loopCount.toNat), .refuse .badField 7 0)] ++
  (List.range f.loopCount.toNat).map (fun j => clipCheck s (8 + j) (f.loop.getD j 0)) ++
  [(decide (8 < f.bandCount.toNat), .refuse .badField 16 0)] ++
  (List.range f.bandCount.toNat).flatMap fun j =>
    [(decide (boundAt f.bands j = 0 ∨ boundAt f.bands j = 65535 ∨ (j ≠ 0 ∧ boundAt f.bands j ≤ boundAt f.bands (j - 1))),
      .refuse .badField (17 + 2 * j) (boundAt f.bands j)), clipCheck s (18 + 2 * j) (f.bands.getD j (0, 0)).2]

theorem setProgramRefusal_eq {f : ProgramFields} (hloop : f.loop.length = 8) (hbands : f.bands.length = 8) :
    setProgramRefusal s f = firstFailure (setProgramChecks s f) := by
  have count : (f.loopCount.toNat = 0 ∨ f.loopCount.toNat > 8) ↔ (f.loopCount = 0 ∨ 8 < f.loopCount.toNat) :=
    or_congr ⟨fun h => BitVec.eq_of_toNat_eq h, fun h => by rw [h]; rfl⟩ Iff.rfl
  have first (j : Nat) : bandChecks s (17 + 2 * j) f.bands (if j = 0 then 0 else boundAt f.bands (j - 1)) j =
      [(decide (boundAt f.bands j = 0 ∨ boundAt f.bands j = 65535 ∨ (j ≠ 0 ∧ boundAt f.bands j ≤ boundAt f.bands (j - 1))),
        .refuse .badField (17 + 2 * j) (boundAt f.bands j)), clipCheck s (18 + 2 * j) (f.bands.getD j (0, 0)).2] := by
    rw [bandChecks, show 17 + 2 * j + 1 = 18 + 2 * j by omega]
    refine congrArg (fun b => [(b, _), _]) (decide_eq_decide.2 ?_)
    split <;> omega
  unfold setProgramRefusal setProgramChecks
  rw [ite_eq_or, ite_eq_or (f.options.toNat > 15), optionRefusal_eq, optionRefusal_eq, optionRefusal_eq, optionRefusal_eq]
  simp only [firstFailure_append, firstFailure_cons, firstFailure_nil, failure_check, Option.or_none, Option.or_assoc, count, gt_iff_lt]
  iterate 6 refine congrArg _ ?_
  refine or_congr_of_none fun h1 => ?_
  have hcount : f.loopCount.toNat ≤ f.loop.length := by
    by_contra h
    rw [if_pos (.inr (by omega))] at h1
    cases h1
  rw [loopClips, loopRefusal_eq hcount]
  refine congrArg _ (or_congr_of_none fun h2 => ?_)
  have hcount : f.bandCount.toNat ≤ f.bands.length := by
    by_contra h
    rw [if_pos (by omega)] at h2
    cases h2
  rw [bandList, bandRefusal_eq hcount]
  simp only [first]

/-! ### The orders answered -/

theorem handleSetProgram_of_refusal {f : ProgramFields} (hloop : f.loop.length = 8) (hbands : f.bands.length = 8) {a : Answer}
    (h : setProgramRefusal s f = some a) : handleSetProgram f s = (s, a) := by
  simp only [handleSetProgram, if_neg (show ¬(f.loop.length ≠ 8 ∨ f.bands.length ≠ 8) by omega), h]

/-- The state an accepted SET PROGRAM leaves. -/
def programSet (s : State) (f : ProgramFields) : State :=
  { moveReferences s (referredBy (programOf s f.program.toNat)) (programClips (programContent f)) with
    programs := tableInsert s.programs f.program.toNat (programContent f) }

theorem handleSetProgram_of_accept {f : ProgramFields} (hloop : f.loop.length = 8) (hbands : f.bands.length = 8)
    (h : setProgramRefusal s f = none) : handleSetProgram f s = (programSet s f, .accept false [f1 f.program.toNat,
      f1 (if programOf s f.program.toNat = none then 0 else 1), f1 (programClips (programContent f)).length]) := by
  have e : (moveReferences s (referredBy (programOf s f.program.toNat)) (programClips (programContent f))).programs = s.programs := by
    rw [moveReferences_frame]
  have old : bit (programOf s f.program.toNat).isSome = if programOf s f.program.toNat = none then 0 else 1 := by
    cases programOf s f.program.toNat <;> rfl
  simp only [handleSetProgram, if_neg (show ¬(f.loop.length ≠ 8 ∨ f.bands.length ≠ 8) by omega), h, e, old, programSet]

theorem programOf_programSet (f : ProgramFields) (x : Nat) : programOf (programSet s f) x =
    if x = f.program.toNat then some (programContent f) else programOf s x := tableFind_tableInsert ..

theorem clipOf_programSet (f : ProgramFields) {j : Nat} {c : Clip} (hc : clipOf s j = some c) :
    clipOf (programSet s f) j = some { c with useCount := c.useCount -
      (if j ∈ referredBy (programOf s f.program.toNat) ∧ j ∉ programClips (programContent f) then 1 else 0) +
        (if j ∈ programClips (programContent f) ∧ j ∉ referredBy (programOf s f.program.toNat) then 1 else 0) } := by
  refine (clipOf_moveReferences (nodup_referredBy _) (nodup_programClips _) s j).trans ?_
  rw [hc]
  rfl

theorem programSet_frame (f : ProgramFields) : { programSet s f with programs := s.programs, clips := s.clips } = s := by
  rw [programSet, moveReferences_frame]

/-- The state an accepted DELETE PROGRAM leaves. -/
def programDeleted (s : State) (x : Nat) (r : Program) : State :=
  { moveReferences s (programClips r) [] with programs := tableErase s.programs x }

theorem programOf_programDeleted (x : Nat) (r : Program) (y : Nat) :
    programOf (programDeleted s x r) y = if y = x then none else programOf s y := tableFind_tableErase ..

theorem clipOf_programDeleted (x : Nat) (r : Program) {j : Nat} {c : Clip} (hc : clipOf s j = some c) :
    clipOf (programDeleted s x r) j = some { c with useCount := c.useCount - if j ∈ programClips r then 1 else 0 } := by
  refine (clipOf_moveReferences (nodup_programClips _) List.nodup_nil s j).trans ?_
  simp only [hc, List.not_mem_nil, not_false_eq_true, and_true, false_and, if_false, Nat.add_zero, Option.map_some]

theorem programDeleted_frame (x : Nat) (r : Program) : { programDeleted s x r with programs := s.programs, clips := s.clips } = s := by
  rw [programDeleted, moveReferences_frame]

section
variable {p : BitVec 8} (hp : p.toNat < 32)
include hp

theorem handleDeleteProgram_of_undefined (h : programOf s p.toNat = none) : handleDeleteProgram p s = (s, .refuse .noSuch 1 0) := by
  simp only [handleDeleteProgram, if_neg (show ¬ p.toNat > 31 by omega), h]

variable {r : Program} (hr : programOf s p.toNat = some r)
include hr

theorem handleDeleteProgram_of_held {d : Nat} (h : programHolder s p.toNat = some d) :
    handleDeleteProgram p s = (s, .refuse .inUse 1 d) := by
  simp only [handleDeleteProgram, if_neg (show ¬ p.toNat > 31 by omega), hr, h]

theorem handleDeleteProgram_of_free (h : programHolder s p.toNat = none) : handleDeleteProgram p s =
    (programDeleted s p.toNat r, .accept false [f1 p.toNat, f1 (programClips r).length]) := by
  have e : (moveReferences s (programClips r) []).programs = s.programs := by rw [moveReferences_frame]
  simp only [handleDeleteProgram, if_neg (show ¬ p.toNat > 31 by omega), hr, h, e, programDeleted]

end

/-! ### What holds a program (R137) -/

theorem voice_not_found {x : Nat} (h : ∀ e ∈ s.voices, e.2.program ≠ x) : s.voices.find? (fun e => e.2.program == x) = none := by
  simpa using h

theorem queue_not_found {x : Nat} (h : ∀ e ∈ s.queues, e.2.settings.defaultProgram ≠ some x) :
    s.queues.find? (fun e => e.2.settings.defaultProgram == some x) = none := by
  simpa using h

theorem programHolder_of_voice {x : Nat} {e : Nat × Voice} (he : s.voices.find? (fun e => e.2.program == x) = some e) :
    programHolder s x = some (65536 + e.1) := by
  rw [programHolder, he, Option.map_some, Option.some_or, Nat.one_mul]

theorem programHolder_of_queue {x : Nat} {e : Nat × Queue} (hv : ∀ e ∈ s.voices, e.2.program ≠ x)
    (he : s.queues.find? (fun e => e.2.settings.defaultProgram == some x) = some e) : programHolder s x = some (2 * 65536 + e.1) := by
  rw [programHolder, voice_not_found hv, he, Option.map_none, Option.none_or, Option.map_some, Option.some_or]

theorem programHolder_of_call {x : Nat} {e : Nat × Call} (hv : ∀ e ∈ s.voices, e.2.program ≠ x)
    (hq : ∀ e ∈ s.queues, e.2.settings.defaultProgram ≠ some x) (he : s.calls.find? (fun e => e.2.program == some x) = some e) :
    programHolder s x = some (3 * 65536 + handleOf s e.1) := by
  rw [programHolder, voice_not_found hv, queue_not_found hq, he, Option.map_none, Option.none_or, Option.map_none, Option.none_or,
    Option.map_some]

/-- Settles O51, by the checks in their order and by the references moved. -/
theorem programsAreWrittenAndDeleted : Obligations.ProgramsAreWrittenAndDeleted := by
  refine fun s ht => ⟨fun f hf => ?_, fun p hp => ?_, fun p hp => ⟨fun h => ?_, fun r hr => ⟨fun e he => ?_, fun hv => ⟨fun e he => ?_,
    fun hq e he => ?_⟩, fun hv hq hc => ?_⟩⟩⟩
  · intro clipState unready bound checks
    have hchecks : checks = setProgramChecks s f := rfl
    obtain ⟨hloop, hbands⟩ : f.loop.length = 8 ∧ f.bands.length = 8 := of_decide_eq_true hf
    have hrefusal : setProgramRefusal s f = (checks.find? fun e => e.1).map (·.2) := setProgramRefusal_eq hloop hbands
    refine ⟨fun e he => exec_answered_as ht rfl rfl (handleSetProgram_of_refusal hloop hbands ?_), fun hnone =>
      ⟨programSet s f, programContent f, exec_answered_as ht rfl rfl (handleSetProgram_of_accept hloop hbands ?_), ?_, rfl, rfl, rfl, rfl,
        rfl, rfl, fun x hx => ?_, fun j c => clipOf_programSet f, programSet_frame f⟩⟩
    · rw [hrefusal, he]; rfl
    · rw [hrefusal, hnone]; rfl
    · rw [programOf_programSet, if_pos rfl]
    · rw [programOf_programSet, if_neg hx]
  · exact exec_answered_as ht rfl rfl (by simp only [handleDeleteProgram, badField, if_pos hp])
  · exact exec_answered_as ht rfl rfl (handleDeleteProgram_of_undefined hp h)
  · exact exec_answered_as ht rfl rfl (handleDeleteProgram_of_held hp hr (programHolder_of_voice he))
  · exact exec_answered_as ht rfl rfl (handleDeleteProgram_of_held hp hr (programHolder_of_queue hv he))
  · exact exec_answered_as ht rfl rfl (handleDeleteProgram_of_held hp hr (programHolder_of_call hv hq he))
  · refine ⟨programDeleted s p.toNat r, exec_answered_as ht rfl rfl (handleDeleteProgram_of_free hp hr
      (programHolder_eq_none.2 ⟨hv, hq, hc⟩)), ?_, fun q hq => ?_, fun j c => clipOf_programDeleted _ r, programDeleted_frame _ r⟩
    · rw [programOf_programDeleted, if_pos rfl]
    · rw [programOf_programDeleted, if_neg hq]

end

end Sys2Proof.Machine
end

-- ==== Sys2Proof/Proofs/Attaching ====
section
/-! Attaching a call, case by case (R141, R142). -/

namespace Sys2Proof.Machine

section
variable {s : State} {h p v : Nat} {c : Call} {r : Program}

/-! ### The cases of an attachment -/

theorem attach_of_no_call (hc : callOf s h = none) : attach h s = s := by simp only [attach, hc]

/-- The record of a call that is put on a voice. -/
def onVoice (c : Call) (v : Nat) : Call := { c with voice := some v, awaitingVoice := false }

section
variable (hc : callOf s h = some c) (hp : c.program = some p) (hr : programOf s p = some r)
include hc hp hr

omit hc in
theorem programOf_bind : (c.program.bind fun x => (programOf s x).map fun y => (x, y)) = some (p, r) := by
  rw [hp, Option.bind_some, hr, Option.map_some]

theorem attach_private (hq : (queueOf s c.queue).surge = false) (hv : lowestFreeVoice s = some v) : attach h s =
    startVoice (setCallRec s h { onVoice c v with announceDue := some (firstDue s c.queue) }) v p (.private_ h) (startSegment r).1 0
      (startSegment r).2 := by
  simp only [attach, hc, programOf_bind hp hr, hq, hv, onVoice]

theorem attach_shared {x : Voice} {n : Nat} (hq : (queueOf s c.queue).surge = true ∨ lowestFreeVoice s = none)
    (hv : sharedVoiceOf s p = some v) (hx : voiceOf s v = some x) (hn : x.mode = .shared n) :
    attach h s = setVoiceRec (setCallRec s h (onVoice c v)) v { x with mode := .shared (n + 1) } := by
  rcases hq with hq | hq
  · cases hfree : lowestFreeVoice s <;> simp only [attach, hc, programOf_bind hp hr, hv, hx, hn, hq, hfree, onVoice]
  · cases hsurge : (queueOf s c.queue).surge <;>
      simp only [attach, hc, programOf_bind hp hr, hv, hx, hn, hq, hsurge, onVoice]

theorem attach_new (hq : (queueOf s c.queue).surge = true) (hw : sharedVoiceOf s p = none) (hv : lowestFreeVoice s = some v) :
    attach h s = startVoice (setCallRec s h (onVoice c v)) v p (.shared 1) .loop 0 (loopClip r 0) := by
  simp only [attach, hc, programOf_bind hp hr, hq, hw, hv, onVoice]

theorem attach_silent (hv : lowestFreeVoice s = none) (hw : sharedVoiceOf s p = none) :
    attach h s = setCallRec s h { c with voice := none, awaitingVoice := true } := by
  cases hsurge : (queueOf s c.queue).surge <;> simp only [attach, hc, programOf_bind hp hr, hw, hv, hsurge]

end

theorem startSegment_eq (r : Program) : startSegment r = (if r.introClip = none then .loop else .intro,
    r.introClip.getD (r.loop.getD 0 0)) := by
  unfold startSegment
  cases r.introClip <;> rfl

/-- Settles O52, by the cases of an attachment. -/
theorem attachingGivesAVoiceOrSilence : Obligations.AttachingGivesAVoiceOrSilence := by
  intro h p c r s hc hnone hp hr
  obtain ⟨hframe, hothers⟩ := oneCallAudio_attach h s
  refine ⟨fun v hq hv => ?_, fun v x n hq hv hx hn => ?_, fun v hq hw hv => ?_, fun hv hw => ?_, hothers, (audioOnly_attach h s).2.2,
    hframe⟩
  · rw [attach_private hc hp hr hq hv]
    refine ⟨by rw [callOf_startVoice, callOf_setCallRec_self hc]; rfl, ?_, fun w hw => ?_, fun j => ?_⟩
    · rw [voiceOf_startVoice, if_pos rfl, startSegment_eq]
    · rw [voiceOf_startVoice, if_neg hw]; rfl
    · rw [clipOf_startVoice, startSegment_eq]; rfl
  · rw [attach_shared hc hp hr hq hv hx hn]
    refine ⟨callOf_setCallRec_self hc _, ?_, fun w hw => ?_, rfl⟩
    · rw [voiceOf_setVoiceRec, if_pos rfl]
    · rw [voiceOf_setVoiceRec, if_neg hw]; rfl
  · rw [attach_new hc hp hr hq hw hv]
    refine ⟨by rw [callOf_startVoice, callOf_setCallRec_self hc]; rfl, ?_, fun w hw => ?_, fun j => ?_⟩
    · rw [voiceOf_startVoice, if_pos rfl]; rfl
    · rw [voiceOf_startVoice, if_neg hw]; rfl
    · rw [clipOf_startVoice]; rfl
  · rw [attach_silent hc hp hr hv hw]
    exact ⟨by rw [callOf_setCallRec_self hc, ← hnone], rfl, rfl⟩

end

end Sys2Proof.Machine
end

-- ==== Sys2Proof/Proofs/Hearing ====
section
/-! Voices and their listeners over what calls have of the audio side (R140, R142, R153, R154): what each move of a voice or of a call
keeps. -/

namespace Sys2Proof.Machine

/-! ### Listeners -/

/-- The calls that listen to voice `v`. -/
def listeners (ear : Nat → Option Ear) (v : Nat) : Set Nat := {h | ∃ e, ear h = some e ∧ e.voice = some v}

/-- The listeners that a mode asks for (R140): the one call, or as many as it counts. -/
def Listened (l : Set Nat) : VoiceMode → Prop
  | .private_ g => l = {g}
  | .shared n => 1 ≤ n ∧ l.ncard = n

/-- No voice is SHARED for program `p`. -/
def Unshared (voice : Nat → Option Voice) (p : Nat) : Prop := ∀ v r, voice v = some r → r.program = p → isShared r = false

/-- The voices and their listeners in order, but that voice `gap` may be FREE while calls are silent. -/
structure Hearing (gap : Option Nat) (ear : Nat → Option Ear) (voice : Nat → Option Voice) : Prop where
  finite : {h | (ear h).isSome}.Finite
  heard : ∀ h e v, ear h = some e → e.voice = some v → ∃ r, voice v = some r ∧ e.program = some r.program
  listened : ∀ v r, voice v = some r → Listened (listeners ear v) r.mode
  loops : ∀ v r, voice v = some r → isShared r = true → r.segment = .loop
  one : ∀ v w r x, voice v = some r → voice w = some x → isShared r = true → isShared x = true → r.program = x.program → v = w
  silent : ∀ h e, ear h = some e → e.silent = true → e.voice = none ∧ (∀ v < 128, gap ≠ some v → voice v ≠ none) ∧
    ∃ p, e.program = some p ∧ Unshared voice p

section
variable {gap : Option Nat} {ear ear' : Nat → Option Ear} {voice voice' : Nat → Option Voice} {h v : Nat} {e : Ear} {r : Voice}

theorem mem_listeners : h ∈ listeners ear v ↔ ∃ e, ear h = some e ∧ e.voice = some v := Iff.rfl

theorem Hearing.finite_listeners (k : Hearing gap ear voice) (v : Nat) : (listeners ear v).Finite :=
  k.finite.subset fun h ⟨e, he, _⟩ => by rw [Set.mem_ofPred_eq, he]; rfl

/-- A FREE voice has no listeners. -/
theorem Hearing.listeners_of_free (k : Hearing gap ear voice) (hv : voice v = none) : listeners ear v = ∅ := by
  refine Set.eq_empty_of_forall_notMem fun h ⟨e, he, hev⟩ => ?_
  obtain ⟨r, hr, -⟩ := k.heard h e v he hev
  rw [hv] at hr
  cases hr

theorem isShared_of_shared {n : Nat} (h : r.mode = .shared n) : isShared r = true := by rw [isShared, h]
theorem isShared_of_private {g : Nat} (h : r.mode = .private_ g) : isShared r = false := by rw [isShared, h]

/-- What the calls have after the one that `h` names is written. -/
def WrittenAt (ear ear' : Nat → Option Ear) (h : Nat) (o : Option Ear) : Prop := ∀ g, ear' g = if g = h then o else ear g

theorem WrittenAt.self {o : Option Ear} (w : WrittenAt ear ear' h o) : ear' h = o := (w h).trans (if_pos rfl)

theorem WrittenAt.other {o : Option Ear} (w : WrittenAt ear ear' h o) {g : Nat} (hg : g ≠ h) : ear' g = ear g :=
  (w g).trans (if_neg hg)

theorem WrittenAt.finite {o : Option Ear} (w : WrittenAt ear ear' h o) (hf : {g | (ear g).isSome}.Finite) :
    {g | (ear' g).isSome}.Finite := by
  refine (hf.insert h).subset fun g hg => ?_
  by_cases hgh : g = h
  · exact .inl hgh
  · rw [Set.mem_ofPred_eq, w.other hgh] at hg
    exact .inr hg

theorem WrittenAt.mem_listeners {o : Option Ear} (w : WrittenAt ear ear' h o) {g : Nat} (hg : g ≠ h) (u : Nat) :
    g ∈ listeners ear' u ↔ g ∈ listeners ear u := by
  rw [Machine.mem_listeners, Machine.mem_listeners, w.other hg]

theorem WrittenAt.mem_listeners_self {e' : Ear} (w : WrittenAt ear ear' h (some e')) (u : Nat) :
    h ∈ listeners ear' u ↔ e'.voice = some u := by
  rw [Machine.mem_listeners, w.self]
  simp

/-- A voice that the call neither leaves nor joins keeps its listeners. -/
theorem WrittenAt.listeners_eq {o : Option Ear} (w : WrittenAt ear ear' h o) {u : Nat} (hu : h ∈ listeners ear' u ↔ h ∈ listeners ear u) :
    listeners ear' u = listeners ear u := by
  ext g
  by_cases hg : g = h
  · rw [hg, hu]
  · exact w.mem_listeners hg u

/-- The voices after the record of `v` is written or dropped. -/
def VoiceAt (voice voice' : Nat → Option Voice) (v : Nat) (o : Option Voice) : Prop := ∀ w, voice' w = if w = v then o else voice w

theorem VoiceAt.self {o : Option Voice} (x : VoiceAt voice voice' v o) : voice' v = o := (x v).trans (if_pos rfl)

theorem VoiceAt.other {o : Option Voice} (x : VoiceAt voice voice' v o) {w : Nat} (hw : w ≠ v) : voice' w = voice w :=
  (x w).trans (if_neg hw)

theorem VoiceAt.unshared {o : Option Voice} (x : VoiceAt voice voice' v o) {p : Nat} (hu : Unshared voice p)
    (ho : ∀ r', o = some r' → r'.program = p → isShared r' = false) : Unshared voice' p := by
  intro w r' hr' hp
  by_cases hw : w = v
  · rw [hw, x.self] at hr'
    exact ho r' hr' hp
  · rw [x.other hw] at hr'
    exact hu w r' hr' hp

/-! ### One call and one voice moved -/

/-- The record of one call and that of one voice written together: what has to hold of the two. -/
theorem Hearing.step (k : Hearing gap ear voice) {gap' : Option Nat} {oe : Option Ear} {o : Option Voice} (w : WrittenAt ear ear' h oe)
    (x : VoiceAt voice voice' v o) (stay : ∀ u, u ≠ v → (h ∈ listeners ear' u ↔ h ∈ listeners ear u))
    (self : ∀ e' u, oe = some e' → e'.voice = some u → ∃ r, voice' u = some r ∧ e'.program = some r.program)
    (others : ∀ g, g ≠ h → g ∈ listeners ear v → o.map (·.program) = (voice v).map (·.program))
    (listened : ∀ r', o = some r' → Listened (listeners ear' v) r'.mode)
    (shared : ∀ r', o = some r' → isShared r' = true → r'.segment = .loop ∧
      ∀ u y, u ≠ v → voice u = some y → isShared y = true → y.program ≠ r'.program)
    (silent : ∀ g e, ear' g = some e → e.silent = true → e.voice = none ∧ (∀ u < 128, gap' ≠ some u → voice' u ≠ none) ∧
      ∃ p, e.program = some p ∧ Unshared voice' p) : Hearing gap' ear' voice' where
  finite := by
    refine (k.finite.insert h).subset fun g hg => ?_
    by_cases hgh : g = h
    · exact .inl hgh
    · rw [Set.mem_ofPred_eq, w.other hgh] at hg
      exact .inr hg
  heard g e' u he' hu := by
    by_cases hg : g = h
    · subst hg
      rw [w.self] at he'
      exact self e' u he' hu
    · rw [w.other hg] at he'
      obtain ⟨y, hy, hp⟩ := k.heard g e' u he' hu
      by_cases huv : u = v
      · subst huv
        have same := others g hg ⟨e', he', hu⟩
        rw [hy] at same
        obtain ⟨r', rfl, hr'⟩ := Option.map_eq_some_iff.1 same
        exact ⟨r', x.self, hr' ▸ hp⟩
      · exact ⟨y, (x.other huv).trans hy, hp⟩
  listened u r' hr' := by
    by_cases huv : u = v
    · subst huv
      rw [x.self] at hr'
      exact listened r' hr'
    · rw [x.other huv] at hr'
      rw [w.listeners_eq (stay u huv)]
      exact k.listened u r' hr'
  loops u r' hr' hs := by
    by_cases huv : u = v
    · subst huv
      rw [x.self] at hr'
      exact (shared r' hr' hs).1
    · rw [x.other huv] at hr'
      exact k.loops u r' hr' hs
  one u t y z hy hz h1 h2 hp := by
    by_cases huv : u = v <;> by_cases htv : t = v
    · exact huv.trans htv.symm
    · rw [huv, x.self] at hy
      rw [x.other htv] at hz
      exact absurd hp.symm ((shared y hy h1).2 t z htv hz h2)
    · rw [htv, x.self] at hz
      rw [x.other huv] at hy
      exact absurd hp ((shared z hz h2).2 u y huv hy h1)
    · rw [x.other huv] at hy
      rw [x.other htv] at hz
      exact k.one u t y z hy hz h1 h2 hp
  silent := silent

/-- The record of a call in use moved with its voice and program kept and at most its silence ended, or of a call with no voice. -/
theorem Hearing.recall (k : Hearing gap ear voice) {oe : Option Ear} (w : WrittenAt ear ear' h oe)
    (hvoice : oe.bind (·.voice) = (ear h).bind (·.voice))
    (hkept : ∀ e', oe = some e' → e'.voice ≠ none ∨ e'.silent = true →
      ∃ e, ear h = some e ∧ e'.program = e.program ∧ (e'.silent = true → e.silent = true)) : Hearing gap ear' voice := by
  have mem (f : Nat → Option Ear) (u : Nat) : h ∈ listeners f u ↔ (f h).bind (·.voice) = some u := by
    rw [mem_listeners, Option.bind_eq_some_iff]
  have stay (u : Nat) : h ∈ listeners ear' u ↔ h ∈ listeners ear u := by rw [mem, mem, w.self, hvoice]
  have still : VoiceAt voice voice 0 (voice 0) := fun u => by split <;> simp_all
  refine k.step w still (fun u _ => stay u) (fun e' u he' hu => ?_) (fun _ _ _ => rfl) (fun r hr => ?_) (fun r hr hs => ?_)
    fun g e' he' hs => ?_
  · obtain ⟨e, he, hp, -⟩ := hkept e' he' (.inl (by rw [hu]; nofun))
    rw [he', he] at hvoice
    obtain ⟨r, hr, hr'⟩ := k.heard h e u he (hvoice.symm.trans hu)
    exact ⟨r, hr, hp.trans hr'⟩
  · rw [w.listeners_eq (stay 0)]
    exact k.listened 0 r hr
  · exact ⟨k.loops 0 r hr hs, fun u y hu hy hsy hp => hu (k.one u 0 y r hy hr hsy hs hp)⟩
  · by_cases hg : g = h
    · subst hg
      rw [w.self] at he'
      obtain ⟨e, he, hp, hsil⟩ := hkept e' he' (.inr hs)
      rw [he', he] at hvoice
      obtain ⟨h1, h2, p, h3, h4⟩ := k.silent g e he (hsil hs)
      exact ⟨hvoice.trans h1, h2, p, hp.trans h3, h4⟩
    · rw [w.other hg] at he'
      exact k.silent g e' he' hs

/-- The record of a voice written over one of the same program and mode. -/
theorem Hearing.rewrite (k : Hearing gap ear voice) {b : Voice} (x : VoiceAt voice voice' v (some r)) (hb : voice v = some b)
    (hp : r.program = b.program) (hm : r.mode = b.mode) (hseg : isShared r = true → r.segment = .loop) : Hearing gap ear voice' := by
  have hs : isShared r = isShared b := by rw [isShared, isShared, hm]
  refine k.step (h := 0) (oe := ear 0) (fun g => by split <;> simp_all) x (fun _ _ => Iff.rfl) (fun e' u he' hu => ?_)
    (fun _ _ _ => by rw [hb, Option.map_some, Option.map_some, hp]) (fun r' hr' => ?_) (fun r' hr' hsr => ?_) fun g e he hsil => ?_
  · obtain ⟨y, hy, hpy⟩ := k.heard 0 e' u he' hu
    by_cases huv : u = v
    · subst huv
      rw [hb] at hy
      cases hy
      exact ⟨r, x.self, hp ▸ hpy⟩
    · exact ⟨y, (x.other huv).trans hy, hpy⟩
  · cases hr'
    rw [hm]
    exact k.listened v b hb
  · cases hr'
    exact ⟨hseg hsr, fun u y hu hy hsy hpy => hu (k.one u v y b hy hb hsy (hs ▸ hsr) (hpy.trans hp))⟩
  · obtain ⟨h1, h2, p, h3, h4⟩ := k.silent g e he hsil
    refine ⟨h1, fun u hu hgap => ?_, p, h3, x.unshared h4 fun r' hr' hrp => ?_⟩
    · by_cases huv : u = v
      · rw [huv, x.self]; nofun
      · rw [x.other huv]; exact h2 u hu hgap
    · cases hr'
      rw [hs]
      exact h4 v b hb (hp ▸ hrp)

/-! ### Calls that leave their voice (R145) -/

section
variable (k : Hearing none ear voice) (he : ear h = some e) (hv : e.voice = some v) (hr : voice v = some r)
  {e' : Ear} (w : WrittenAt ear ear' h (some e')) (hnone : e'.voice = none) (hsil : e'.silent = false)

include w hnone in
theorem listeners_left : listeners ear' v = listeners ear v \ {h} := by
  ext g
  by_cases hg : g = h
  · subst hg
    rw [w.mem_listeners_self, hnone]
    simp
  · rw [w.mem_listeners hg]
    simp [hg]

include he hv w hnone in
theorem left_stay (u : Nat) (hu : u ≠ v) : h ∈ listeners ear' u ↔ h ∈ listeners ear u := by
  rw [w.mem_listeners_self, hnone, mem_listeners, he]
  simp only [reduceCtorEq, Option.some.injEq, exists_eq_left', hv, false_iff]
  exact fun h' => hu h'.symm

include k w hsil in
/-- Calls that stay silent as a voice of a program that was SHARED or not stays so. -/
theorem silent_left {gap' : Option Nat} (hfree : ∀ u < 128, gap' ≠ some u → voice u ≠ none → voice' u ≠ none)
    (hun : ∀ p, Unshared voice p → Unshared voice' p) (g : Nat) (d : Ear) (hd : ear' g = some d) (hs : d.silent = true) :
    d.voice = none ∧ (∀ u < 128, gap' ≠ some u → voice' u ≠ none) ∧ ∃ p, d.program = some p ∧ Unshared voice' p := by
  by_cases hg : g = h
  · rw [hg, w.self] at hd
    cases hd
    rw [hsil] at hs
    cases hs
  · rw [w.other hg] at hd
    obtain ⟨h1, h2, p, h3, h4⟩ := k.silent g d hd hs
    exact ⟨h1, fun u hu hgap => hfree u hu hgap (h2 u hu nofun), p, h3, hun p h4⟩

include k he hv hr w hnone hsil

/-- A SHARED voice that keeps listeners loses one from their count. -/
theorem Hearing.leave {n : Nat} (hn : r.mode = .shared (n + 2)) (x : VoiceAt voice voice' v (some { r with mode := .shared (n + 1) })) :
    Hearing none ear' voice' := by
  have hs : isShared r = true := isShared_of_shared hn
  have mem : h ∈ listeners ear v := ⟨e, he, hv⟩
  obtain ⟨-, hcard⟩ : Listened (listeners ear v) (.shared (n + 2)) := hn ▸ k.listened v r hr
  refine k.step w x (left_stay he hv w hnone) (fun d u hd hu => ?_) (fun _ _ _ => by rw [hr]; rfl) (fun r' hr' => ?_)
    (fun r' hr' _ => ?_) (silent_left k w hsil (fun u _ _ hu => ?_) fun p hp => x.unshared hp fun r' hr' hrp => ?_)
  · cases hd
    rw [hnone] at hu
    cases hu
  · cases hr'
    refine ⟨Nat.succ_pos n, ?_⟩
    rw [listeners_left w hnone, Set.ncard_sdiff_singleton_of_mem mem, hcard]
    rfl
  · cases hr'
    exact ⟨k.loops v r hr hs, fun u y hu hy hsy hp => hu (k.one u v y r hy hr hsy hs hp)⟩
  · by_cases huv : u = v
    · rw [huv, x.self]; nofun
    · rwa [x.other huv]
  · cases hr'
    exact absurd (hp v r hr hrp) (by rw [hs]; nofun)

omit hr in
/-- A voice whose one listener leaves becomes FREE. -/
theorem Hearing.empty (hone : listeners ear v = {h}) (x : VoiceAt voice voice' v none) : Hearing (some v) ear' voice' := by
  refine k.step w x (left_stay he hv w hnone) (fun d u hd hu => ?_) (fun g hg hmem => ?_) nofun nofun
    (silent_left k w hsil (fun u _ hgap hu => ?_) fun p hp => x.unshared hp nofun)
  · cases hd
    rw [hnone] at hu
    cases hu
  · rw [hone] at hmem
    exact absurd hmem hg
  · rw [x.other fun huv => hgap (by rw [huv])]
    exact hu

omit hr he hv w hnone hsil in
/-- The one listener of a voice that is not SHARED by more. -/
theorem Hearing.sole (hr : voice v = some r) (he : ear h = some e) (hv : e.voice = some v)
    (hm : r.mode = .shared 1 ∨ ∃ g, r.mode = .private_ g) : listeners ear v = {h} := by
  have mem : h ∈ listeners ear v := ⟨e, he, hv⟩
  have hl := k.listened v r hr
  rcases hm with hm | ⟨g, hm⟩
  · rw [hm] at hl
    obtain ⟨a, ha⟩ := Set.ncard_eq_one.1 hl.2
    rw [ha] at mem ⊢
    rw [Set.mem_singleton_iff.1 mem]
  · rw [hm] at hl
    have hl' : listeners ear v = {g} := hl
    rw [hl'] at mem ⊢
    rw [Set.mem_singleton_iff.1 mem]

end

/-! ### Calls that take a voice (R141 to R144) -/

section
variable (k : Hearing none ear voice) (he : ear h = some e) (hnone : e.voice = none) {p : Nat} {e' : Ear}
  (w : WrittenAt ear ear' h (some e')) (hp : e'.program = some p)

include k in
/-- While a voice is FREE no call is silent. -/
theorem Hearing.not_silent (hlt : v < 128) (hv : voice v = none) {g : Nat} {d : Ear} (hd : ear g = some d) : d.silent = false := by
  by_contra h
  obtain ⟨-, h2, -⟩ := k.silent g d hd (by simpa using h)
  exact h2 v hlt nofun hv

include he hnone w in
theorem taken_stay (hvoice : e'.voice = some v) (u : Nat) (hu : u ≠ v) : h ∈ listeners ear' u ↔ h ∈ listeners ear u := by
  rw [w.mem_listeners_self, hvoice, mem_listeners, he]
  simp only [Option.some.injEq, exists_eq_left', hnone, reduceCtorEq, iff_false]
  exact fun h' => hu h'.symm

include he hnone w in
theorem listeners_taken (hvoice : e'.voice = some v) : listeners ear' v = insert h (listeners ear v) ∧ h ∉ listeners ear v := by
  have out : h ∉ listeners ear v := by
    rw [mem_listeners, he]
    simp [hnone]
  refine ⟨?_, out⟩
  ext g
  by_cases hg : g = h
  · subst hg
    rw [w.mem_listeners_self, hvoice]
    simp
  · rw [w.mem_listeners hg, Set.mem_insert_iff]
    simp [hg]

include k he hnone w hp

/-- A call takes a FREE voice, for itself or as the first of its program's listeners. -/
theorem Hearing.take (hlt : v < 128) (hv : voice v = none) (hvoice : e'.voice = some v) (hsil : e'.silent = false)
    (x : VoiceAt voice voice' v (some r)) (hrp : r.program = p)
    (hm : r.mode = .private_ h ∨ r.mode = .shared 1 ∧ r.segment = .loop ∧ Unshared voice p) : Hearing none ear' voice' := by
  have only : listeners ear' v = {h} := by
    rw [(listeners_taken he hnone w hvoice).1, k.listeners_of_free hv]
    simp
  refine k.step w x (taken_stay he hnone w hvoice) (fun d u hd hu => ?_) (fun g _ hmem => ?_) (fun r' hr' => ?_) (fun r' hr' hs => ?_)
    fun g d hd hs => ?_
  · cases hd
    rw [hvoice] at hu
    cases hu
    exact ⟨r, x.self, hrp ▸ hp⟩
  · rw [k.listeners_of_free hv] at hmem
    exact absurd hmem (Set.notMem_empty g)
  · cases hr'
    rw [only]
    rcases hm with hm | ⟨hm, -⟩ <;> rw [hm]
    · exact rfl
    · exact ⟨le_rfl, Set.ncard_singleton h⟩
  · cases hr'
    rcases hm with hm | ⟨-, hseg, hun⟩
    · rw [isShared_of_private hm] at hs
      cases hs
    · refine ⟨hseg, fun u y _ hy hsy hyp => ?_⟩
      rw [hun u y hy (hyp.trans hrp)] at hsy
      cases hsy
  · by_cases hg : g = h
    · rw [hg, w.self] at hd
      cases hd
      rw [hsil] at hs
      cases hs
    · rw [w.other hg] at hd
      rw [k.not_silent hlt hv hd] at hs
      cases hs

/-- A call joins the SHARED voice of its program. -/
theorem Hearing.join {n : Nat} (hr : voice v = some r) (hn : r.mode = .shared n) (hrp : r.program = p) (hvoice : e'.voice = some v)
    (hsil : e'.silent = false) (x : VoiceAt voice voice' v (some { r with mode := .shared (n + 1) })) : Hearing none ear' voice' := by
  have hs : isShared r = true := isShared_of_shared hn
  obtain ⟨hlist, hout⟩ := listeners_taken he hnone w hvoice
  obtain ⟨-, hcard⟩ : Listened (listeners ear v) (.shared n) := hn ▸ k.listened v r hr
  refine k.step w x (taken_stay he hnone w hvoice) (fun d u hd hu => ?_) (fun _ _ _ => by rw [hr]; rfl) (fun r' hr' => ?_)
    (fun r' hr' _ => ?_) (silent_left k w hsil (fun u _ _ hu => ?_) fun q hq => x.unshared hq fun r' hr' hrq => ?_)
  · cases hd
    rw [hvoice] at hu
    cases hu
    exact ⟨_, x.self, hrp ▸ hp⟩
  · cases hr'
    refine ⟨Nat.succ_pos n, ?_⟩
    rw [hlist, Set.ncard_insert_of_notMem hout (k.finite_listeners v), hcard]
  · cases hr'
    exact ⟨k.loops v r hr hs, fun u y hu hy hsy hyp => hu (k.one u v y r hy hr hsy hs hyp)⟩
  · by_cases huv : u = v
    · rw [huv, x.self]; nofun
    · rwa [x.other huv]
  · cases hr'
    exact absurd (hq v r hr hrq) (by rw [hs]; nofun)

/-- A call is silent when no voice is FREE and none is SHARED for its program. -/
theorem Hearing.hush (hfull : ∀ u < 128, voice u ≠ none) (hun : Unshared voice p) (hvoice : e'.voice = none) : Hearing none ear' voice := by
  have still : VoiceAt voice voice 0 (voice 0) := fun u => by split <;> simp_all
  have stay (u : Nat) : h ∈ listeners ear' u ↔ h ∈ listeners ear u := by
    rw [w.mem_listeners_self, hvoice, mem_listeners, he]
    simp [hnone]
  refine k.step w still (fun u _ => stay u) (fun d u hd hu => ?_) (fun _ _ _ => rfl) (fun r hr => ?_) (fun r hr hs => ?_) fun g d hd hs => ?_
  · cases hd
    rw [hvoice] at hu
    cases hu
  · rw [w.listeners_eq (stay 0)]
    exact k.listened 0 r hr
  · exact ⟨k.loops 0 r hr hs, fun u y hu hy hsy hyp => hu (k.one u 0 y r hy hr hsy hs hyp)⟩
  · by_cases hg : g = h
    · rw [hg, w.self] at hd
      cases hd
      exact ⟨hvoice, fun u hu _ => hfull u hu, p, hp, hun⟩
    · rw [w.other hg] at hd
      exact k.silent g d hd hs

end

/-! ### A FREE voice handed over (R143) -/

/-- The silent calls of program `p`. -/
def silentOf (ear : Nat → Option Ear) (p : Nat) : Set Nat := {h | ∃ e, ear h = some e ∧ e.silent = true ∧ e.program = some p}

/-- What a call has once voice `v` is handed to the silent calls of program `p`. -/
def handedEar (v p : Nat) (e : Ear) : Ear :=
  if e.silent = true ∧ e.program = some p then { e with voice := some v, silent := false } else e

theorem handedEar_of_silent {p : Nat} (hs : e.silent = true) (hp : e.program = some p) :
    handedEar v p e = { e with voice := some v, silent := false } := if_pos ⟨hs, hp⟩

theorem handedEar_program (v p : Nat) (e : Ear) : (handedEar v p e).program = e.program := by
  unfold handedEar; split <;> rfl

theorem handedEar_of_not {p : Nat} (hn : ¬(e.silent = true ∧ e.program = some p)) : handedEar v p e = e := if_neg hn

/-- With no call silent the voice stays FREE. -/
theorem Hearing.unhanded (k : Hearing gap ear voice) (hnone : ∀ g d, ear g = some d → d.silent = false) : Hearing none ear voice :=
  { k with silent := fun g d hd hs => by rw [hnone g d hd] at hs; cases hs }

/-- A voice that became FREE is handed to the silent calls of one program. -/
theorem Hearing.hand (k : Hearing (some v) ear voice) (hv : voice v = none) {p : Nat} (hsome : (silentOf ear p).Nonempty)
    (hear : ∀ g, ear' g = (ear g).map (handedEar v p)) (x : VoiceAt voice voice' v (some r)) (hrp : r.program = p)
    (hm : r.mode = .shared (silentOf ear p).ncard) (hseg : r.segment = .loop) : Hearing none ear' voice' := by
  have split {g : Nat} {d : Ear} (hd : ear' g = some d) : ∃ b, ear g = some b ∧ d = handedEar v p b := by
    rw [hear] at hd
    obtain ⟨b, hb, e⟩ := Option.map_eq_some_iff.1 hd
    exact ⟨b, hb, e.symm⟩
  obtain ⟨g₀, e₀, he₀, hs₀, hp₀⟩ := hsome
  have unshared : Unshared voice p := by
    obtain ⟨-, -, q, hq, hun⟩ := k.silent g₀ e₀ he₀ hs₀
    rw [hp₀] at hq
    cases hq
    exact hun
  have fin : (silentOf ear p).Finite := k.finite.subset fun g ⟨d, hd, _⟩ => by rw [Set.mem_ofPred_eq, hd]; rfl
  have lists (u : Nat) : listeners ear' u = if u = v then silentOf ear p else listeners ear u := by
    ext g
    have mem : g ∈ listeners ear' u ↔ ∃ b, ear g = some b ∧ (handedEar v p b).voice = some u := by
      rw [mem_listeners, hear]
      simp only [Option.map_eq_some_iff]
      constructor
      · rintro ⟨d, ⟨b, hb, rfl⟩, hd⟩; exact ⟨b, hb, hd⟩
      · rintro ⟨b, hb, hd⟩; exact ⟨_, ⟨b, hb, rfl⟩, hd⟩
    rw [mem]
    split
    · next huv =>
      subst huv
      constructor
      · rintro ⟨b, hb, hbu⟩
        by_cases hc : b.silent = true ∧ b.program = some p
        · exact ⟨b, hb, hc⟩
        · rw [handedEar_of_not hc] at hbu
          have := k.listeners_of_free hv
          exact absurd (show g ∈ listeners ear u from ⟨b, hb, hbu⟩) (by rw [this]; exact Set.notMem_empty g)
      · rintro ⟨b, hb, hs, hbp⟩
        exact ⟨b, hb, by rw [handedEar_of_silent hs hbp]⟩
    · next huv =>
      constructor
      · rintro ⟨b, hb, hbu⟩
        by_cases hc : b.silent = true ∧ b.program = some p
        · rw [handedEar_of_silent hc.1 hc.2] at hbu
          exact absurd (Option.some.inj hbu).symm huv
        · rw [handedEar_of_not hc] at hbu
          exact ⟨b, hb, hbu⟩
      · rintro ⟨b, hb, hbu⟩
        refine ⟨b, hb, ?_⟩
        rw [handedEar_of_not]
        · exact hbu
        · rintro ⟨hs, -⟩
          rw [(k.silent g b hb hs).1] at hbu
          cases hbu
  refine ⟨?_, fun g d u hd hu => ?_, fun u y hy => ?_, fun u y hy hsy => ?_, fun u t y z hy hz h1 h2 hyz => ?_, fun g d hd hs => ?_⟩
  · refine k.finite.subset fun g hg => ?_
    rw [Set.mem_ofPred_eq, hear, Option.isSome_map] at hg
    exact hg
  · obtain ⟨b, hb, rfl⟩ := split hd
    by_cases hc : b.silent = true ∧ b.program = some p
    · rw [handedEar_of_silent hc.1 hc.2] at hu ⊢
      cases hu
      exact ⟨r, x.self, hrp ▸ hc.2⟩
    · rw [handedEar_of_not hc] at hu ⊢
      obtain ⟨y, hy, hyp⟩ := k.heard g b u hb hu
      have huv : u ≠ v := fun huv => by rw [huv, hv] at hy; cases hy
      exact ⟨y, (x.other huv).trans hy, hyp⟩
  · rw [lists]
    split
    · next huv =>
      rw [huv, x.self] at hy
      cases hy
      rw [hm]
      exact ⟨(Set.ncard_pos fin).2 ⟨g₀, e₀, he₀, hs₀, hp₀⟩, rfl⟩
    · next huv =>
      rw [x.other huv] at hy
      exact k.listened u y hy
  · by_cases huv : u = v
    · rw [huv, x.self] at hy
      cases hy
      exact hseg
    · rw [x.other huv] at hy
      exact k.loops u y hy hsy
  · by_cases huv : u = v <;> by_cases htv : t = v
    · exact huv.trans htv.symm
    · rw [huv, x.self] at hy
      rw [x.other htv] at hz
      cases hy
      rw [unshared t z hz (hyz.symm.trans hrp)] at h2
      cases h2
    · rw [htv, x.self] at hz
      rw [x.other huv] at hy
      cases hz
      rw [unshared u y hy (hyz.trans hrp)] at h1
      cases h1
    · rw [x.other huv] at hy
      rw [x.other htv] at hz
      exact k.one u t y z hy hz h1 h2 hyz
  · obtain ⟨b, hb, rfl⟩ := split hd
    by_cases hc : b.silent = true ∧ b.program = some p
    · rw [handedEar_of_silent hc.1 hc.2] at hs
      cases hs
    · rw [handedEar_of_not hc] at hs ⊢
      obtain ⟨h1, h2, q, h3, h4⟩ := k.silent g b hb hs
      refine ⟨h1, fun u hu _ => ?_, q, h3, x.unshared h4 fun r' hr' hrq => ?_⟩
      · by_cases huv : u = v
        · rw [huv, x.self]; nofun
        · rw [x.other huv]
          exact h2 u hu fun e => huv (Option.some.inj e).symm
      · cases hr'
        exact absurd ⟨hs, by rw [h3, ← hrq, hrp]⟩ hc

end

end Sys2Proof.Machine
end

-- ==== Sys2Proof/Proofs/VoicesHeard ====
section
/-! The voices and their listeners in a state, kept by the operations of the audio side (R140 to R154). -/

namespace Sys2Proof.Machine

section
variable {s t : State}

/-! ### Calls and voices of canonical tables -/

theorem Sound.canonical {a : Prop} (k : Sound True a s) : Canonical s := ((sound_iff ..).1 k).1 trivial

theorem Sound.inRange {c a : Prop} (k : Sound c a s) : InRange s := ((sound_iff ..).1 k).2.1

theorem forall_voices_iff (hv : tableRising s.voices = true) (f : Nat → Voice → Prop) :
    (∀ e ∈ s.voices, f e.1 e.2) ↔ ∀ v r, voiceOf s v = some r → f v r :=
  ⟨fun h _ _ hr => h _ (mem_of_tableFind hr), fun h e he => h _ _ ((tableFind_eq_some_iff hv e.1 e.2).2 he)⟩

/-- The calls of a kind are those of the table, under their handles. -/
theorem handles_eq (hc : Canonical s) (hr : InRange s) (f : Call → Bool) :
    {h | ∃ c, callOf s h = some c ∧ f c = true} = (fun e => handleOf s e.1) '' ((s.calls.filter fun e => f e.2).toFinset : Set (Nat × Call)) := by
  ext h
  simp only [Set.mem_ofPred_eq, Set.mem_image, Finset.mem_coe, List.mem_toFinset, List.mem_filter]
  constructor
  · rintro ⟨c, hcall, hf⟩
    exact ⟨_, ⟨mem_calls_of_callOf hc hr hcall, hf⟩, handleOf_slotOf hcall⟩
  · rintro ⟨⟨i, c⟩, ⟨hmem, hf⟩, rfl⟩
    exact ⟨c, ((mem_calls_iff hc hr i c).1 hmem).2, hf⟩

theorem ncard_handles (hc : Canonical s) (hr : InRange s) (f : Call → Bool) :
    {h | ∃ c, callOf s h = some c ∧ f c = true}.ncard = s.calls.countP fun e => f e.2 := by
  have nodup : (s.calls.filter fun e => f e.2).Nodup :=
    (((tableRising_iff_pairwise _).1 hc.1).imp fun h => (ne_of_apply_ne Prod.fst (Nat.ne_of_lt h))).filter _
  rw [handles_eq hc hr, Set.InjOn.ncard_image, Set.ncard_coe_finset, List.toFinset_card_of_nodup nodup, List.countP_eq_length_filter]
  rintro ⟨i, c⟩ hi ⟨j, d⟩ hj hij
  obtain ⟨hi, -⟩ := List.mem_filter.1 (List.mem_toFinset.1 hi)
  obtain ⟨hj, -⟩ := List.mem_filter.1 (List.mem_toFinset.1 hj)
  obtain ⟨hi', hci⟩ := (mem_calls_iff hc hr i c).1 hi
  obtain ⟨hj', hdj⟩ := (mem_calls_iff hc hr j d).1 hj
  change handleOf s i = handleOf s j at hij
  have hslot : i = j := by rw [← slotOf_handleOf s hi', hij, slotOf_handleOf s hj']
  subst hslot
  rw [hci] at hdj
  cases hdj
  rfl

theorem earIn_eq_some {h : Nat} {e : Ear} : earIn s h = some e ↔ ∃ c, callOf s h = some c ∧ earOf c = e := Option.map_eq_some_iff

theorem finite_ears (hc : Canonical s) (hr : InRange s) : {h | (earIn s h).isSome}.Finite := by
  have e : {h | (earIn s h).isSome} = {h | ∃ c, callOf s h = some c ∧ true = true} := by
    ext h
    rw [Set.mem_ofPred_eq, earIn, Option.isSome_map, Option.isSome_iff_exists]
    simp
  rw [e, handles_eq hc hr fun _ => true]
  exact (Finset.finite_toSet _).image _

theorem listeners_earIn (v : Nat) : listeners (earIn s) v = {h | ∃ c, callOf s h = some c ∧ (c.voice == some v) = true} := by
  ext h
  rw [mem_listeners]
  simp only [earIn_eq_some, Set.mem_ofPred_eq, beq_iff_eq]
  constructor
  · rintro ⟨_, ⟨c, hc, rfl⟩, hv⟩; exact ⟨c, hc, hv⟩
  · rintro ⟨c, hc, hv⟩; exact ⟨_, ⟨c, hc, rfl⟩, hv⟩

theorem silentOf_earIn (p : Nat) : silentOf (earIn s) p = {h | ∃ c, callOf s h = some c ∧ silentFor p c = true} := by
  ext h
  simp only [silentOf, earIn_eq_some, Set.mem_ofPred_eq, silentFor, Bool.and_eq_true, beq_iff_eq]
  constructor
  · rintro ⟨_, ⟨c, hc, rfl⟩, hs, hp⟩; exact ⟨c, hc, hs, hp⟩
  · rintro ⟨c, hc, hs, hp⟩; exact ⟨_, ⟨c, hc, rfl⟩, hs, hp⟩

theorem sharedVoiceOf_eq_none (hv : tableRising s.voices = true) (p : Nat) : sharedVoiceOf s p = none ↔ Unshared (voiceOf s) p := by
  rw [sharedVoiceOf, Option.map_eq_none_iff, List.find?_eq_none, forall_voices_iff hv fun _ r => ¬(r.program == p && isShared r) = true]
  refine forall₃_congr fun v r _ => ?_
  cases isShared r <;> simp

theorem sharedVoiceOf_spec (hv : tableRising s.voices = true) {p v : Nat} (h : sharedVoiceOf s p = some v) :
    ∃ r n, voiceOf s v = some r ∧ r.program = p ∧ r.mode = .shared n := by
  obtain ⟨⟨w, r⟩, hf, rfl⟩ := Option.map_eq_some_iff.1 h
  have hprop := List.find?_some hf
  obtain ⟨hp, hs⟩ := Bool.and_eq_true_iff.1 hprop
  cases hm : r.mode with
  | private_ g => rw [isShared_of_private hm] at hs; cases hs
  | shared n => exact ⟨r, n, (tableFind_eq_some_iff hv w r).2 (List.mem_of_find?_eq_some hf), eq_of_beq hp, hm⟩

theorem voiceOf_ne_none_of_lowestFreeVoice (h : lowestFreeVoice s = none) {v : Nat} (hv : v < 128) : voiceOf s v ≠ none := by
  have := List.find?_eq_none.1 h v (List.mem_range.2 hv)
  simpa using this

/-! ### What a call's stage asks of its voice -/

/-- A PRIVATE voice plays EXIT for a DIVERTING call alone; a CONNECTED call has no voice; a DIVERTING one has one until its divert is
done; any other with a program has one or is silent (R140, R142, R153, R154). -/
structure StageFits (voice : Nat → Option Voice) (e : Ear) : Prop where
  exit : ∀ v r, e.voice = some v → voice v = some r → isShared r = false → (r.segment = .exit ↔ ∃ d, e.stage = .diverting d)
  connected : e.stage = .connected → e.voice = none ∧ e.silent = false
  diverting : ∀ d, e.stage = .diverting d → e.silent = false ∧ (d = true ↔ e.voice = none)
  served : e.stage = .open_ → e.program ≠ none → e.voice ≠ none ∨ e.silent = true

/-- The same voice still fits, whatever SHARED voices do. -/
theorem StageFits.transfer {voice voice' : Nat → Option Voice} {e : Ear} (f : StageFits voice e)
    (h : ∀ v r', e.voice = some v → voice' v = some r' → isShared r' = false →
      ∃ r, voice v = some r ∧ isShared r = false ∧ (r'.segment = .exit ↔ r.segment = .exit)) : StageFits voice' e :=
  ⟨fun v r' hv hr' hs => by
    obtain ⟨r, hr, hs', hseg⟩ := h v r' hv hr' hs
    exact hseg.trans (f.exit v r hv hr hs'), f.connected, f.diverting, f.served⟩

theorem StageFits.congr {voice voice' : Nat → Option Voice} {e : Ear} (f : StageFits voice e) (h : ∀ v, e.voice = some v → voice' v = voice v) :
    StageFits voice' e :=
  f.transfer fun v r' hv hr' hs => ⟨r', (h v hv).symm.trans hr', hs, Iff.rfl⟩

/-- The voices and their listeners in order, but for what the stage of call `loose` asks. -/
structure Heard (loose : Option Nat) (s : State) : Prop where
  hearing : Hearing none (earIn s) (voiceOf s)
  fits : ∀ h e, earIn s h = some e → loose ≠ some h → StageFits (voiceOf s) e

theorem Heard.loosen (k : Heard none s) (h : Nat) : Heard (some h) s := ⟨k.hearing, fun g e he _ => k.fits g e he nofun⟩

theorem Heard.tighten {h : Nat} {e : Ear} (k : Heard (some h) s) (he : earIn s h = some e) (hf : StageFits (voiceOf s) e) : Heard none s := by
  refine ⟨k.hearing, fun g d hd _ => ?_⟩
  by_cases hg : g = h
  · rw [hg, he] at hd
    cases hd
    exact hf
  · exact k.fits g d hd fun e => hg (Option.some.inj e).symm

theorem Heard.quiet {l : Option Nat} (k : Heard l s) (q : Quiet True s t) : Heard l t := by
  have ears : earIn t = earIn s := funext (q.ears trivial)
  have voices : voiceOf t = voiceOf s := funext fun v => by rw [voiceOf, voiceOf, q.voices]
  exact ⟨by rw [ears, voices]; exact k.hearing, by rw [ears, voices]; exact k.fits⟩

/-! ### The statement's predicate -/

theorem stageOf_eq_connected (c : Call) : stageOf c = .connected ↔ ∃ t, c.status = .connected t := by
  cases h : c.status <;> simp [stageOf, h]

theorem stageOf_eq_diverting (c : Call) (d : Bool) : stageOf c = .diverting d ↔ c.status = .diverting d := by
  cases h : c.status <;> simp [stageOf, h]

theorem stageOf_eq_open (c : Call) : stageOf c = .open_ ↔ isWaiting c = true ∨ isOffered c = true := by
  cases h : c.status <;> simp [stageOf, isWaiting, isOffered, h]

theorem exists_diverting_iff (c : Call) : (∃ d, stageOf c = .diverting d) ↔ isDiverting c = true := by
  cases h : c.status <;> simp [stageOf, isDiverting, h]

section
variable (hc : Canonical s) (hr : InRange s)
include hc hr

theorem listened_iff {v : Nat} {r : Voice} : (Listened (listeners (earIn s) v) r.mode ∧ (isShared r = true → r.segment = .loop) ∧
      ∀ c, (∃ h, callOf s h = some c) → c.voice = some v → c.program = some r.program ∧
        (isShared r = false → (r.segment = .exit ↔ isDiverting c = true))) ↔ listenersOk s v r := by
  have program := forall_calls_iff hc hr fun _ c => c.voice = some v → c.program = some r.program
  rw [listenersOk, program]
  cases hm : r.mode with
  | private_ g =>
    have hs := isShared_of_private hm
    dsimp only
    rw [forall_calls_iff hc hr fun h c => c.voice = some v → h = g, listeners_earIn]
    simp only [Listened, Set.eq_singleton_iff_unique_mem, Set.mem_ofPred_eq, beq_iff_eq, hs]
    constructor
    · rintro ⟨⟨⟨c, hcg, hv⟩, honly⟩, -, hfit⟩
      exact ⟨fun h c hc hv => (hfit c ⟨h, hc⟩ hv).1, ⟨c, hcg, hv, (hfit c ⟨g, hcg⟩ hv).2 trivial⟩,
        fun h c hc hv => honly h ⟨c, hc, hv⟩⟩
    · rintro ⟨hprog, ⟨c, hcg, hv, hexit⟩, honly⟩
      refine ⟨⟨⟨c, hcg, hv⟩, fun h ⟨c, hc, hv⟩ => honly h c hc hv⟩, nofun, fun d ⟨h, hd⟩ hdv => ⟨hprog h d hd hdv, fun _ => ?_⟩⟩
      have hg := honly h d hd hdv
      rw [hg, hcg] at hd
      cases hd
      exact hexit
  | shared n =>
    have hs := isShared_of_shared hm
    rw [listeners_earIn]
    simp only [Listened, ncard_handles hc hr, hs, forall_const, Bool.true_eq_false, false_imp_iff, and_true]
    constructor
    · rintro ⟨⟨h1, h2⟩, hseg, hfit⟩
      exact ⟨fun h c hc hv => hfit c ⟨h, hc⟩ hv, h1, h2.symm, hseg⟩
    · rintro ⟨hprog, h1, h2, hseg⟩
      exact ⟨⟨h1, h2.symm⟩, hseg, fun c ⟨h, hc⟩ hv => hprog h c hc hv⟩

theorem voicesOk_iff : VoicesOk s ↔ Heard none s := by
  have hv : tableRising s.voices = true := by
    obtain ⟨-, -, -, -, -, -, -, hv, -⟩ := hc
    exact hv
  unfold VoicesOk
  rw [forall_voices_iff hv (listenersOk s), forall_calls_iff hc hr fun _ c => ∀ v, c.voice = some v → voiceOf s v ≠ none,
    forall_voices_iff hv fun v r => ∀ f ∈ s.voices, isShared r = true → isShared f.2 = true → r.program = f.2.program → v = f.1,
    forall_calls_iff hc hr fun _ c => ∀ t, c.status = .connected t → c.voice = none ∧ c.awaitingVoice = false,
    forall_calls_iff hc hr fun _ c => ∀ d, c.status = .diverting d → c.awaitingVoice = false ∧ (d = true ↔ c.voice = none),
    forall_calls_iff hc hr fun _ c => c.awaitingVoice = true → c.voice = none ∧ (∀ v < 128, voiceOf s v ≠ none) ∧
      ∃ p, c.program = some p ∧ sharedVoiceOf s p = none,
    forall_calls_iff hc hr fun _ c => ∀ p, isWaiting c = true ∨ isOffered c = true → c.program = some p →
      c.voice ≠ none ∨ c.awaitingVoice = true]
  simp only [sharedVoiceOf_eq_none hv, ← listened_iff hc hr]
  constructor
  · rintro ⟨hlist, hnamed, hone, hconn, hdiv, hsil, hserved⟩
    refine ⟨⟨finite_ears hc hr, fun h e v he hv => ?_, fun v r h => (hlist v r h).1, fun v r h => (hlist v r h).2.1,
      fun v w r x hr hx h1 h2 h3 => hone v r hr (w, x) (mem_of_tableFind hx) h1 h2 h3, fun h e he hs => ?_⟩, fun h e he _ => ?_⟩ <;>
      obtain ⟨c, hcall, rfl⟩ := earIn_eq_some.1 he
    · obtain ⟨r, hr⟩ := Option.ne_none_iff_exists'.1 (hnamed h c hcall v hv)
      exact ⟨r, hr, ((hlist v r hr).2.2 c ⟨h, hcall⟩ hv).1⟩
    · obtain ⟨h1, h2, h3⟩ := hsil h c hcall hs
      exact ⟨h1, fun v hv _ => h2 v hv, h3⟩
    · refine ⟨fun v r hv hr hs => ?_, fun hst => ?_, fun d hst => ?_, fun hst hp => ?_⟩
      · exact (((hlist v r hr).2.2 c ⟨h, hcall⟩ hv).2 hs).trans (exists_diverting_iff c).symm
      · obtain ⟨t, ht⟩ := (stageOf_eq_connected c).1 hst
        exact hconn h c hcall t ht
      · exact hdiv h c hcall d ((stageOf_eq_diverting c d).1 hst)
      · obtain ⟨p, hp⟩ := Option.ne_none_iff_exists'.1 hp
        exact hserved h c hcall p ((stageOf_eq_open c).1 hst) hp
  · rintro ⟨k, hfits⟩
    have fits (h : Nat) (c : Call) (hcall : callOf s h = some c) : StageFits (voiceOf s) (earOf c) := hfits h _ (earIn_eq hcall) nofun
    refine ⟨fun v r hvr => ⟨k.listened v r hvr, k.loops v r hvr, fun c ⟨h, hcall⟩ hcv => ⟨?_, fun hs => ?_⟩⟩, fun h c hcall v hcv => ?_,
      fun v r hvr x hx h1 h2 h3 => k.one v x.1 r x.2 hvr ((tableFind_eq_some_iff hv x.1 x.2).2 hx) h1 h2 h3,
      fun h c hcall t ht => ?_, fun h c hcall d hd => ?_, fun h c hcall hs => ?_, fun h c hcall p hst hp => ?_⟩
    · obtain ⟨x, hx, hp⟩ := k.heard h _ v (earIn_eq hcall) hcv
      rw [hvr] at hx
      cases hx
      exact hp
    · exact ((fits h c hcall).exit v r hcv hvr hs).trans (exists_diverting_iff c)
    · obtain ⟨x, hx, -⟩ := k.heard h _ v (earIn_eq hcall) hcv
      rw [hx]
      nofun
    · exact (fits h c hcall).connected ((stageOf_eq_connected c).2 ⟨t, ht⟩)
    · exact (fits h c hcall).diverting d ((stageOf_eq_diverting c d).2 hd)
    · obtain ⟨h1, h2, h3⟩ := k.silent h _ (earIn_eq hcall) hs
      exact ⟨h1, fun v hv => h2 v hv nofun, h3⟩
    · exact (fits h c hcall).served ((stageOf_eq_open c).2 hst) (by rw [show (earOf c).program = some p from hp]; nofun)

end

end

end Sys2Proof.Machine
end

-- ==== Sys2Proof/Proofs/VoicesMoved ====
section
/-! Voices freed and handed over, calls attached and detached, and a frame played: the voices and their listeners stay in order
(R140 to R154). -/

namespace Sys2Proof.Machine

section
variable {l : Option Nat} {s t : State} {h v : Nat} {c : Call} {r : Voice}

/-! ### A call or a voice written -/

theorem writtenAt_setCallRec {b : Call} (hb : callOf s h = some b) (c : Call) :
    WrittenAt (earIn s) (earIn (setCallRec s h c)) h (some (earOf c)) := earIn_setCallRec hb c

theorem writtenAt_of_ears {b : Call} (hb : callOf s h = some b) (c : Call) (ht : ∀ g, callOf t g = callOf (setCallRec s h c) g) :
    WrittenAt (earIn s) (earIn t) h (some (earOf c)) := fun g => by
  rw [earIn, ht]
  exact earIn_setCallRec hb c g

/-- A call record moved with its voice and program kept, and not made silent. -/
theorem Heard.setCallRec {b : Call} (k : Heard l s) (hb : callOf s h = some b) (hv : c.voice = b.voice) (hp : c.program = b.program)
    (hs : c.awaitingVoice = true → b.awaitingVoice = true) (hl : l = none ∨ l = some h) : Heard (some h) (setCallRec s h c) := by
  refine ⟨k.hearing.recall (writtenAt_setCallRec hb c) ?_ fun e he _ => ⟨earOf b, earIn_eq hb, ?_, ?_⟩, fun g e he hg => ?_⟩
  · rw [earIn_eq hb]; exact hv
  · cases he; exact hp
  · cases he; exact hs
  · have hgh : g ≠ h := fun e => hg (by rw [e])
    rw [earIn_setCallRec hb, if_neg hgh] at he
    refine k.fits g e he ?_
    rcases hl with hl | hl <;> rw [hl]
    · nofun
    · exact hg

/-- A call without a voice is freed. -/
theorem Heard.freeCall (k : Heard l s) (hc : callOf s h = some c) (hv : c.voice = none) (hl : l = none ∨ l = some h) :
    Heard none (freeCall s h) := by
  have ears (g : Nat) : earIn (Machine.freeCall s h) g = if g = h then none else earIn s g := by
    rw [earIn, callOf_freeCall hc]
    split <;> rfl
  refine ⟨k.hearing.recall ears ?_ nofun, fun g e he _ => ?_⟩
  · rw [earIn_eq hc]; exact hv.symm
  · rw [ears] at he
    split at he
    · cases he
    · next hg =>
      refine k.fits g e he ?_
      rcases hl with hl | hl <;> rw [hl]
      · nofun
      · exact fun e => hg (Option.some.inj e).symm

/-- The record of a voice written over one of the same program and mode. -/
theorem Heard.voice {r' : Voice} (k : Heard l s) (hr : voiceOf s v = some r) (ears : ∀ g, earIn t g = earIn s g)
    (x : VoiceAt (voiceOf s) (voiceOf t) v (some r')) (hp : r'.program = r.program) (hm : r'.mode = r.mode)
    (hseg : isShared r = true → r'.segment = .loop)
    (hexit : ∀ g, r.mode = .private_ g → l = some g ∨ (r'.segment = .exit ↔ r.segment = .exit)) : Heard l t := by
  have hs : isShared r' = isShared r := by rw [isShared, isShared, hm]
  have ears' : earIn t = earIn s := funext ears
  refine ⟨?_, fun g e he hl => ?_⟩
  · rw [ears']
    exact k.hearing.rewrite x hr hp hm fun h => hseg (hs ▸ h)
  · rw [ears] at he
    refine (k.fits g e he hl).transfer fun u y hu hy hsy => ?_
    by_cases huv : u = v
    · subst huv
      rw [x.self] at hy
      cases hy
      refine ⟨r, hr, hs ▸ hsy, ?_⟩
      cases hmode : r.mode with
      | shared n => rw [hs, isShared_of_shared hmode] at hsy; cases hsy
      | private_ a =>
        have only : listeners (earIn s) u = {a} := by
          have := k.hearing.listened u r hr
          rwa [hmode] at this
        have mem : g ∈ listeners (earIn s) u := ⟨e, he, hu⟩
        rw [only] at mem
        exact (hexit a hmode).resolve_left fun hla => hl (by rw [hla, Set.mem_singleton_iff.1 mem])
    · exact ⟨y, (x.other huv).symm.trans hy, hsy, Iff.rfl⟩

theorem Heard.setVoiceRec {r' : Voice} (k : Heard l s) (hr : voiceOf s v = some r) (hp : r'.program = r.program) (hm : r'.mode = r.mode)
    (hseg : r'.segment = r.segment) : Heard l (setVoiceRec s v r') :=
  k.voice hr (fun _ => rfl) (fun w => voiceOf_setVoiceRec ..) hp hm (fun hs => hseg.trans (k.hearing.loops v r hr hs))
    fun _ _ => .inr (by rw [hseg])

theorem Heard.nextClip (k : Heard l s) (hr : voiceOf s v = some r) {segment : Segment} (hseg : isShared r = true → segment = .loop)
    (hexit : ∀ g, r.mode = .private_ g → l = some g ∨ (segment = .exit ↔ r.segment = .exit)) (i j : Nat) :
    Heard l (nextClip v r segment i j s) :=
  k.voice hr (fun g => by rw [earIn, callOf_nextClip]; rfl) (fun w => voiceOf_nextClip ..) rfl rfl hseg hexit

/-! ### A freed voice handed over (R143) -/

theorem oldestSilent_eq_none {x : Table Call} : oldestSilent x = none ↔ ∀ e ∈ x, e.2.awaitingVoice = false := by
  induction x with
  | nil => exact ⟨fun _ => nofun, fun _ => rfl⟩
  | cons e x ih =>
    obtain ⟨i, b⟩ := e
    rw [oldestSilent, List.forall_mem_cons, ← ih]
    cases oldestSilent x with
    | none => cases b.awaitingVoice <;> simp
    | some d =>
      simp only [reduceCtorEq, and_false, iff_false]
      split <;> nofun

/-- The calls in `s` with voice `v` handed to those of program `p` that are silent. -/
def voiceHanded (v p : Nat) (s : State) : State := { s with calls := s.calls.map (handed v p) }

theorem callOf_voiceHanded (v p : Nat) (s : State) (g : Nat) : callOf (voiceHanded v p s) g = (callOf s g).map fun c =>
    if silentFor p c then { c with voice := some v, awaitingVoice := false } else c := by
  have hmap : s.calls.map (handed v p) = s.calls.map fun e =>
      (e.1, if silentFor p e.2 then { e.2 with voice := some v, awaitingVoice := false } else e.2) :=
    List.map_congr_left fun e _ => by unfold handed; split <;> rfl
  have hfind := tableFind_map s.calls
    (fun _ c => if silentFor p c then { c with voice := some v, awaitingVoice := false } else c) (slotOf g)
  have e : callOf (voiceHanded v p s) g = if generationOf s (slotOf g) = g / Config.callSlots then
      tableFind (s.calls.map (handed v p)) (slotOf g) else none := rfl
  rw [e, hmap, hfind, callOf]
  split <;> rfl

theorem earIn_voiceHanded (v p : Nat) (s : State) (g : Nat) : earIn (voiceHanded v p s) g = (earIn s g).map (handedEar v p) := by
  rw [earIn, earIn, callOf_voiceHanded, Option.map_map, Option.map_map]
  congr 1
  funext c
  have hiff : silentFor p c = true ↔ (earOf c).silent = true ∧ (earOf c).program = some p := by
    rw [silentFor, Bool.and_eq_true, beq_iff_eq]
    rfl
  by_cases hs : silentFor p c = true
  · obtain ⟨h1, h2⟩ := hiff.1 hs
    simp only [Function.comp_apply, if_pos hs, handedEar_of_silent h1 h2]
    rfl
  · simp only [Function.comp_apply, if_neg hs, handedEar_of_not fun h => hs (hiff.2 h)]

theorem handVoice_of_none (hs : ∀ e ∈ s.calls, e.2.awaitingVoice = false) (v : Nat) : handVoice v s = s := by
  rw [handVoice_eq, oldestSilent_eq_none.2 hs]
  rfl

theorem handVoice_of_oldest {d : Call} {p : Nat} (hd : oldestSilent s.calls = some d) (hp : d.program = some p) (v : Nat) :
    handVoice v s = notify 0x86 [f1 v, f1 p, f2 (s.calls.countP fun e => silentFor p e.2)] (startVoice (voiceHanded v p s) v p
      (.shared (s.calls.countP fun e => silentFor p e.2)) .loop 0 (((programOf s p).map fun x => loopClip x 0).getD 0)) := by
  rw [handVoice_eq, hd, Option.bind_some, hp]
  rfl

/-- A voice that became FREE is handed to the silent calls, or stays FREE with none silent. -/
theorem heard_handVoice (hs : Sound True False s) (hv : voiceOf s v = none) (k : Hearing (some v) (earIn s) (voiceOf s))
    (hf : ∀ g e, earIn s g = some e → l ≠ some g → StageFits (voiceOf s) e) : Heard l (handVoice v s) := by
  have hcan := hs.canonical
  have hr := hs.inRange
  cases ho : oldestSilent s.calls with
  | none =>
    have quiet := oldestSilent_eq_none.1 ho
    rw [handVoice_of_none quiet]
    refine ⟨k.unhanded fun g e he => ?_, hf⟩
    obtain ⟨c, hc, rfl⟩ := earIn_eq_some.1 he
    exact quiet _ (mem_calls_of_callOf hcan hr hc)
  | some d =>
    obtain ⟨hsil, i, hi⟩ := oldestSilent_mem ho
    obtain ⟨-, hd⟩ := (mem_calls_iff hcan hr i d).1 hi
    obtain ⟨-, -, p, hp, -⟩ := k.silent _ _ (earIn_eq hd) hsil
    rw [handVoice_of_oldest ho hp]
    obtain ⟨n, hn⟩ : ∃ n, n = s.calls.countP fun e => silentFor p e.2 := ⟨_, rfl⟩
    rw [← hn]
    refine Heard.quiet (s := startVoice (voiceHanded v p s) v p (.shared n) .loop 0 _) ?_ (quiet_notify ..)
    have ears (g : Nat) : earIn (startVoice (voiceHanded v p s) v p (.shared n) .loop 0
        (((programOf s p).map fun x => loopClip x 0).getD 0)) g = (earIn s g).map (handedEar v p) := by
      rw [earIn, callOf_startVoice, ← earIn, earIn_voiceHanded]
    have voices := voiceOf_startVoice (voiceHanded v p s) v p (.shared n) .loop 0 (((programOf s p).map fun x => loopClip x 0).getD 0)
    refine ⟨k.hand hv ⟨_, _, earIn_eq hd, hsil, hp⟩ ears voices rfl ?_ rfl, fun g e he hl => ?_⟩
    · rw [silentOf_earIn, ncard_handles hcan hr, hn]
    · rw [ears] at he
      obtain ⟨b, hb, rfl⟩ := Option.map_eq_some_iff.1 he
      have fit := hf g b hb hl
      by_cases hc : b.silent = true ∧ b.program = some p
      · rw [handedEar_of_silent hc.1 hc.2]
        refine ⟨fun u y hu hy hsy => ?_, fun hst => ?_, fun d hst => ?_, fun _ _ => .inl nofun⟩
        · cases hu
          rw [voices, if_pos rfl] at hy
          cases hy
          cases hsy
        · have := (fit.connected hst).2
          rw [hc.1] at this
          cases this
        · have := (fit.diverting d hst).1
          rw [hc.1] at this
          cases this
      · rw [handedEar_of_not hc]
        refine fit.congr fun u hu => ?_
        obtain ⟨y, hy, -⟩ := k.heard g b u hb hu
        rw [voices, if_neg fun huv => by rw [huv, hv] at hy; cases hy]
        rfl

/-! ### Calls detached (R145) -/

theorem freeVoice_of_voice (hr : voiceOf s v = some r) : freeVoice v s = handVoice v (giveUse (dropVoice s v) r.clip) := by
  simp only [freeVoice, hr]

/-- The state in which a call is off its voice and the voice does not know it yet. -/
def callOff (s : State) (h : Nat) (c : Call) : State := setCallRec s h { c with voice := none, announceDue := none }

theorem detach_of_shared {n : Nat} (hc : callOf s h = some c) (hv : c.voice = some v) (hr : voiceOf s v = some r)
    (hn : r.mode = .shared n) (h1 : 1 < n) : detach h s = setVoiceRec (callOff s h c) v { r with mode := .shared (n - 1) } := by
  obtain ⟨m, rfl⟩ : ∃ m, n = m + 2 := ⟨n - 2, by omega⟩
  rw [detach_of_voice hc hv hr, hn]
  rfl

theorem detach_of_sole (hc : callOf s h = some c) (hv : c.voice = some v) (hr : voiceOf s v = some r)
    (hm : r.mode = .shared 1 ∨ ∃ g, r.mode = .private_ g) : detach h s = freeVoice v (callOff s h c) := by
  rw [detach_of_voice hc hv hr]
  rcases hm with hm | ⟨g, hm⟩ <;> rw [hm] <;> rfl

theorem callOf_detach {c : Call} (k : Heard l s) (hc : callOf s h = some c) : callOf (detach h s) h = some (offVoice c) := by
  cases hs : c.awaitingVoice with
  | false => exact callOf_detach_self hc hs
  | true =>
    obtain ⟨hv, -⟩ := k.hearing.silent h _ (earIn_eq hc) hs
    rw [detach_of_no_voice hc hv, hc, offVoice_of_no_voice hv]

theorem Heard.detach (k : Heard (some h) s) (hs : Sound True False s) (hc : callOf s h = some c) : Heard (some h) (detach h s) := by
  cases hv : c.voice with
  | none => rw [detach_of_no_voice hc hv]; exact k
  | some v =>
    obtain ⟨r, hr, -⟩ := k.hearing.heard h _ v (earIn_eq hc) hv
    have hsil : c.awaitingVoice = false := by
      by_contra hsil
      obtain ⟨hnone, -⟩ := k.hearing.silent h _ (earIn_eq hc) (show c.awaitingVoice = true by simpa using hsil)
      rw [show (earOf c).voice = some v from hv] at hnone
      cases hnone
    have off (f : Nat → Option Ear) (hf : f = earIn (callOff s h c)) :
        WrittenAt (earIn s) f h (some { earOf c with voice := none }) := hf ▸ writtenAt_setCallRec hc _
    have others (g : Nat) (e : Ear) (he : earIn (callOff s h c) g = some e) (hg : some h ≠ some g) : earIn s g = some e := by
      rw [callOff, earIn_setCallRec hc, if_neg fun e => hg (by rw [e])] at he
      exact he
    have sole (hm : r.mode = .shared 1 ∨ ∃ g, r.mode = .private_ g) : Heard (some h) (Machine.detach h s) := by
      have hone := k.hearing.sole hr (earIn_eq hc) hv hm
      have given (w : Nat) : voiceOf (giveUse (dropVoice (callOff s h c) v) r.clip) w = if w = v then none else voiceOf s w := by
        rw [voiceOf_giveUse]
        exact tableFind_tableErase ..
      have ears : earIn (giveUse (dropVoice (callOff s h c) v) r.clip) = earIn (callOff s h c) := funext fun g => by
        rw [earIn, giveUse, callOf_congr (changeUse_calls (dropVoice (callOff s h c) v) ..) (audioOnly_changeUse ..).generations]
        rfl
      rw [detach_of_sole hc hv hr hm, freeVoice_of_voice (show voiceOf (callOff s h c) v = some r from hr)]
      have sound : Sound True False (giveUse (dropVoice (callOff s h c) v) r.clip) :=
        ((hs.setCallRec h (x := { c with voice := none, announceDue := none }) (hs.call hc :)).dropVoice v).changeUse ..
      refine heard_handVoice sound ((given v).trans (if_pos rfl)) ?_ fun g e he hg => ?_
      · exact k.hearing.empty (earIn_eq hc) hv (off _ ears) rfl hsil hone given
      · rw [ears] at he
        have he' := others g e he hg
        refine (k.fits g e he' hg).congr fun u hu => ?_
        rw [given, if_neg]
        rintro rfl
        have mem : g ∈ listeners (earIn s) u := ⟨e, he', hu⟩
        rw [hone] at mem
        exact hg (by rw [Set.mem_singleton_iff.1 mem])
    cases hm : r.mode with
    | private_ g => exact sole (.inr ⟨g, hm⟩)
    | shared n =>
      obtain ⟨hpos, -⟩ : Listened _ (.shared n) := hm ▸ k.hearing.listened v r hr
      by_cases h1 : n = 1
      · exact sole (.inl (h1 ▸ hm))
      obtain ⟨m, rfl⟩ : ∃ m, n = m + 2 := ⟨n - 2, by omega⟩
      rw [detach_of_shared hc hv hr hm (by omega), show m + 2 - 1 = m + 1 from rfl]
      have written : VoiceAt (voiceOf s) (voiceOf (Machine.setVoiceRec (callOff s h c) v { r with mode := .shared (m + 1) })) v
          (some { r with mode := .shared (m + 1) }) := fun w => voiceOf_setVoiceRec ..
      refine ⟨k.hearing.leave (earIn_eq hc) hv hr (off _ rfl) rfl hsil hm written, fun g e he hg => ?_⟩
      refine (k.fits g e (others g e he hg) hg).transfer fun u y hu hy hsy => ?_
      by_cases huv : u = v
      · rw [huv, written.self] at hy
        cases hy
        cases hsy
      · exact ⟨y, (written.other huv).symm.trans hy, hsy, Iff.rfl⟩

/-! ### Calls attached (R141, R142) -/

/-- A call without a voice takes a FREE one. -/
theorem Heard.take {p : Nat} {c' : Call} (k : Heard (some h) s) (hc : callOf s h = some c) (hnone : c.voice = none)
    (hv : lowestFreeVoice s = some v) (hvoice : c'.voice = some v) (hsil : c'.awaitingVoice = false) (hp : c'.program = some p)
    (ht : ∀ g, callOf t g = callOf (Machine.setCallRec s h c') g) (x : VoiceAt (voiceOf s) (voiceOf t) v (some r)) (hrp : r.program = p)
    (hm : r.mode = .private_ h ∨ r.mode = .shared 1 ∧ r.segment = .loop ∧ Unshared (voiceOf s) p)
    (hfit : StageFits (voiceOf t) (earOf c')) : Heard none t := by
  have w := writtenAt_of_ears hc c' ht
  have hfree := voiceOf_of_lowestFreeVoice hv
  refine Heard.tighten ⟨k.hearing.take (earIn_eq hc) hnone w hp (lowestFreeVoice_lt hv) hfree hvoice hsil x hrp hm, fun g e he hg => ?_⟩
    w.self hfit
  rw [w.other fun e => hg (by rw [e])] at he
  refine (k.fits g e he hg).congr fun u hu => ?_
  obtain ⟨y, hy, -⟩ := k.hearing.heard g e u he hu
  rw [x.other]
  rintro rfl
  rw [hfree] at hy
  cases hy

theorem stageFits_open_voice {voice : Nat → Option Voice} {e : Ear} (hst : e.stage = .open_) (hv : e.voice = some v)
    (hx : ∀ y, voice v = some y → isShared y = false → y.segment ≠ .exit) : StageFits voice e := by
  refine ⟨fun u y hu hy hs => ?_, fun h => ?_, fun d h => ?_, fun _ _ => .inl (by rw [hv]; nofun)⟩
  · rw [hv] at hu
    cases hu
    refine iff_of_false (hx y hy hs) ?_
    rintro ⟨d, hd⟩
    rw [hst] at hd
    cases hd
  · rw [hst] at h; cases h
  · rw [hst] at h; cases h

theorem stageFits_open_none {voice : Nat → Option Voice} {e : Ear} (hst : e.stage = .open_) (hv : e.voice = none)
    (hs : e.program ≠ none → e.silent = true) : StageFits voice e := by
  refine ⟨fun u y hu => ?_, fun h => ?_, fun d h => ?_, fun _ hp => .inr (hs hp)⟩
  · rw [hv] at hu; cases hu
  · rw [hst] at h; cases h
  · rw [hst] at h; cases h

theorem startSegment_ne_exit (x : Program) : (startSegment x).1 ≠ .exit := by
  unfold startSegment; split <;> nofun

/-- A WAITING call without a voice, and not silent yet, is attached. -/
theorem Heard.attach (k : Heard (some h) s) (hs : Sound True False s) (hc : callOf s h = some c) (hnone : c.voice = none)
    (hst : stageOf c = .open_) (hnamed : ∀ p, c.program = some p → programOf s p ≠ none) : Heard none (attach h s) := by
  have hvoices : tableRising s.voices = true := by
    obtain ⟨-, -, -, -, -, -, -, hv, -⟩ := hs.canonical
    exact hv
  cases hp : c.program with
  | none =>
    rw [attach_of_no_program hc hp]
    exact k.tighten (earIn_eq hc) (stageFits_open_none hst hnone fun h => absurd hp h)
  | some p =>
    obtain ⟨x, hx⟩ := Option.ne_none_iff_exists'.1 (hnamed p hp)
    by_cases hcalm : (queueOf s c.queue).surge = false ∧ lowestFreeVoice s ≠ none
    · obtain ⟨hq, hfree⟩ := hcalm
      obtain ⟨v, hv⟩ := Option.ne_none_iff_exists'.1 hfree
      rw [attach_private hc hp hx hq hv]
      refine k.take (c' := { onVoice c v with announceDue := some (firstDue s c.queue) }) hc hnone hv rfl rfl hp
        (fun g => callOf_startVoice ..) (fun w => voiceOf_startVoice ..) rfl (.inl rfl)
        (stageFits_open_voice hst rfl fun y hy _ => ?_)
      rw [voiceOf_startVoice, if_pos rfl] at hy
      cases hy
      exact startSegment_ne_exit x
    · have hbusy : (queueOf s c.queue).surge = true ∨ lowestFreeVoice s = none := by
        by_contra hn
        exact hcalm ⟨by simpa using fun h => hn (.inl h), fun h => hn (.inr h)⟩
      cases hw : sharedVoiceOf s p with
      | some v =>
        obtain ⟨y, n, hy, hyp, hyn⟩ := sharedVoiceOf_spec hvoices hw
        rw [attach_shared hc hp hx hbusy hw hy hyn]
        have w := writtenAt_of_ears (t := Machine.setVoiceRec (Machine.setCallRec s h (onVoice c v)) v { y with mode := .shared (n + 1) })
          hc (onVoice c v) fun _ => rfl
        have written : VoiceAt (voiceOf s)
            (voiceOf (Machine.setVoiceRec (Machine.setCallRec s h (onVoice c v)) v { y with mode := .shared (n + 1) })) v
            (some { y with mode := .shared (n + 1) }) := fun w => voiceOf_setVoiceRec ..
        refine Heard.tighten ⟨k.hearing.join (earIn_eq hc) hnone w hp hy hyn hyp rfl rfl written, fun g e he hg => ?_⟩ w.self
          (stageFits_open_voice hst rfl fun z hz hsz => ?_)
        · rw [w.other fun e => hg (by rw [e])] at he
          refine (k.fits g e he hg).transfer fun u z hu hz hsz => ?_
          by_cases huv : u = v
          · rw [huv, written.self] at hz
            cases hz
            cases hsz
          · exact ⟨z, (written.other huv).symm.trans hz, hsz, Iff.rfl⟩
        · rw [written.self] at hz
          cases hz
          cases hsz
      | none =>
        have hun := (sharedVoiceOf_eq_none hvoices p).1 hw
        cases hv : lowestFreeVoice s with
        | some v =>
          have hq : (queueOf s c.queue).surge = true := hbusy.resolve_right (by rw [hv]; nofun)
          rw [attach_new hc hp hx hq hw hv]
          refine k.take (c' := onVoice c v) hc hnone hv rfl rfl hp (fun g => callOf_startVoice ..) (fun w => voiceOf_startVoice ..) rfl
            (.inr ⟨rfl, rfl, hun⟩) (stageFits_open_voice hst rfl fun y hy hsy => ?_)
          rw [voiceOf_startVoice, if_pos rfl] at hy
          cases hy
          cases hsy
        | none =>
          rw [attach_silent hc hp hx hv hw]
          have w := writtenAt_setCallRec hc { c with voice := none, awaitingVoice := true }
          refine Heard.tighten ⟨k.hearing.hush (earIn_eq hc) hnone w hp (fun u hu => voiceOf_ne_none_of_lowestFreeVoice hv hu) hun rfl,
            fun g e he hg => ?_⟩ w.self (stageFits_open_none hst rfl fun _ => rfl)
          rw [w.other fun e => hg (by rw [e])] at he
          exact k.fits g e he hg

/-! ### Diverts (R153 to R155) -/

theorem stage_of_isDiverting (hd : isDiverting c = true) : ∃ d, stageOf c = .diverting d := (exists_diverting_iff c).2 hd

/-- The divert of a DIVERTING call is done. -/
theorem Heard.divertDone (k : Heard (some h) s) (hs : Sound True False s) (hc : callOf s h = some c) (hd : isDiverting c = true)
    (hsil : c.awaitingVoice = false) (played : Bool) : Heard none (divertDone h played s) := by
  have hn : callOf (divertNotified s h c played) h = some c := (callOf_notify ..).trans hc
  have notified : Heard (some h) (divertNotified s h c played) := k.quiet (quiet_notify ..)
  have off := notified.detach (hs.notify ..) hn
  have hoff := callOf_detach_self hn hsil
  rw [divertDone_eq hc hd hsil]
  refine (off.setCallRec (c := { offVoice c with status := .diverting true }) hoff rfl rfl id (.inr rfl)).tighten
    (earIn_eq (callOf_setCallRec_self hoff _)) ?_
  refine ⟨nofun, nofun, fun d hst => ?_, nofun⟩
  cases hst
  exact ⟨hsil, iff_of_true rfl rfl⟩

/-! ### A frame (R146 to R150) -/

theorem quiet_renewDue (h : Nat) (s : State) : Quiet True s (renewDue h s) := by
  unfold renewDue
  split
  · exact .refl _ s
  · next c hc => exact quiet_setCallRec hc rfl fun _ => rfl

section
variable {x : Program}

theorem Heard.nextLoop (k : Heard l s) (hr : voiceOf s v = some r) (hseg : r.segment ≠ .exit) : Heard l (nextLoop v r x s) :=
  k.nextClip hr (fun _ => rfl) (fun _ _ => .inr (iff_of_false nofun hseg)) _ _

theorem Heard.privateLoopEnd (k : Heard l s) (hr : voiceOf s v = some r) (hseg : r.segment ≠ .exit) (hm : r.mode = .private_ h) :
    Heard l (privateLoopEnd v r x h s) := by
  unfold Machine.privateLoopEnd
  split
  · exact k.nextLoop hr hseg
  split
  · split
    · refine k.nextClip (segment := .announce _) hr (fun hs => ?_) (fun _ _ => .inr (iff_of_false nofun hseg)) _ _
      rw [isShared_of_private hm] at hs
      cases hs
    · exact (k.quiet (quiet_renewDue h s)).nextLoop ((voiceOf_renewDue ..).trans hr) hseg
  · exact k.nextLoop hr hseg

end

theorem Heard.clipEnd (k : Heard none s) (hs : Sound True False s) (hr : voiceOf s v = some r) : Heard none (clipEnd v r s) := by
  unfold Machine.clipEnd
  split
  · exact k
  split
  · next hseg => exact k.nextClip hr (fun _ => rfl) (fun _ _ => .inr (iff_of_false nofun (by rw [hseg]; nofun))) _ _
  · next hseg =>
    have hne : r.segment ≠ .exit := by rw [hseg]; nofun
    split
    · next hm => exact k.privateLoopEnd hr hne hm
    · exact k.nextLoop hr hne
  · next hseg =>
    have hne : ∀ g, r.mode = .private_ g → none = some g ∨ (Segment.loop = .exit ↔ r.segment = .exit) :=
      fun _ _ => .inr (iff_of_false nofun (by rw [hseg]; nofun))
    dsimp only
    split
    · exact (k.quiet (quiet_renewDue ..)).nextClip ((voiceOf_renewDue ..).trans hr) (fun _ => rfl) hne _ _
    · exact k.nextClip hr (fun _ => rfl) hne _ _
  · next hseg =>
    split
    · next g hm =>
      have only : listeners (earIn s) v = {g} := by
        have := k.hearing.listened v r hr
        rwa [hm] at this
      obtain ⟨e, he, hv⟩ : g ∈ listeners (earIn s) v := by rw [only]; exact rfl
      obtain ⟨c, hc, rfl⟩ := earIn_eq_some.1 he
      have fit := k.fits g _ he nofun
      obtain ⟨d, hst⟩ := (fit.exit v r hv hr (isShared_of_private hm)).1 hseg
      exact (k.loosen g).divertDone hs hc ((exists_diverting_iff c).1 ⟨d, hst⟩) (fit.diverting d hst).1 true
    · exact k

theorem Heard.playVoice (k : Heard none s) (hs : Sound True False s) (v : Nat) : Heard none (playVoice s v) := by
  unfold Machine.playVoice
  split
  · exact k
  next r hr =>
  split
  · exact k.setVoiceRec hr rfl rfl rfl
  · exact k.clipEnd hs hr

theorem Heard.playFrame (k : Heard none s) (hs : Sound True False s) (order : List Nat) : Heard none (playFrame order s) := by
  have all (vs : List Nat) {t : State} (kt : Heard none t) (ht : Sound True False t) : Heard none (vs.foldl Machine.playVoice t) := by
    induction vs generalizing t with
    | nil => exact kt
    | cons v vs ih => exact ih (kt.playVoice ht v) (ht.playVoice v)
  exact all _ (k.quiet (quiet_of_records rfl)) (hs.of_records rfl)

end

end Sys2Proof.Machine
end

-- ==== Sys2Proof/Proofs/VoicesServed ====
section
/-! The orders of the calls keep the voices and their listeners (R21, R24, R65, R79, R142, R153, R155). -/

namespace Sys2Proof.Machine

section
variable {l : Option Nat} {s t : State} {h v p : Nat} {c : Call} {r : Voice}

/-! ### States of the same calls and voices -/

/-- The calls and the voices stand. -/
theorem Heard.of_tables (k : Heard l s) (calls : t.calls = s.calls) (generations : t.generations = s.generations)
    (voices : t.voices = s.voices) : Heard l t := by
  have hears : earIn t = earIn s := funext fun g => by rw [earIn, callOf_congr calls generations, earIn]
  have hvoices : voiceOf t = voiceOf s := funext fun v => by rw [voiceOf, voices, voiceOf]
  exact ⟨by rw [hears, hvoices]; exact k.hearing, by rw [hears, hvoices]; exact k.fits⟩

/-- With no call in use and every voice FREE nothing is asked. -/
theorem heard_of_empty (calls : s.calls = []) (voices : s.voices = []) : Heard l s := by
  have ears (g : Nat) : earIn s g = none := by
    rw [earIn, callOf, calls]
    split <;> rfl
  have free (v : Nat) : voiceOf s v = none := by rw [voiceOf, voices]; rfl
  have no_ear {g : Nat} {e : Ear} (he : earIn s g = some e) : False := by rw [ears] at he; cases he
  have no_voice {v : Nat} {r : Voice} (hr : voiceOf s v = some r) : False := by rw [free] at hr; cases hr
  refine ⟨⟨?_, fun g e v he => (no_ear he).elim, fun v r hr => (no_voice hr).elim, fun v r hr => (no_voice hr).elim,
    fun v w r x hr => (no_voice hr).elim, fun g e he => (no_ear he).elim⟩, fun g e he => (no_ear he).elim⟩
  have e : {g | (earIn s g).isSome} = (∅ : Set Nat) := by
    ext g
    rw [Set.mem_ofPred_eq, ears]
    simp
  rw [e]
  exact Set.finite_empty

/-! ### Diverts (R153, R155) -/

/-- The voice of a call that plays its exit. -/
theorem stageFits_exit {voice : Nat → Option Voice} {e : Ear} (hst : e.stage = .diverting false) (hsil : e.silent = false)
    (hv : e.voice = some v) (hx : ∀ y, voice v = some y → y.segment = .exit) : StageFits voice e := by
  refine ⟨fun u y hu hy _ => ?_, fun h => ?_, fun d h => ?_, fun h => ?_⟩
  · rw [hv] at hu
    cases hu
    exact iff_of_true (hx y hy) ⟨_, hst⟩
  · rw [hst] at h; cases h
  · rw [hst] at h
    cases h
    exact ⟨hsil, iff_of_false nofun (by rw [hv]; nofun)⟩
  · rw [hst] at h; cases h

/-- The one listener of a PRIVATE voice is its call. -/
theorem Heard.private_call {g : Nat} (k : Heard l s) (hc : callOf s h = some c) (hv : c.voice = some v) (hr : voiceOf s v = some r)
    (hm : r.mode = .private_ g) : g = h := by
  have hl := k.hearing.listened v r hr
  rw [hm] at hl
  have mem : h ∈ listeners (earIn s) v := ⟨_, earIn_eq hc, hv⟩
  rw [show listeners (earIn s) v = {g} from hl] at mem
  exact (Set.mem_singleton_iff.1 mem).symm

theorem Heard.divertFromShared (k : Heard (some h) s) (hs : Sound True False s) (hc : callOf s h = some c)
    (hst : c.status = .diverting false) (hsil : c.awaitingVoice = false) (hp : c.program = some p) (j : Nat) :
    Heard none (divertFromShared h p j s) := by
  have off := k.detach hs hc
  have hoff := callOf_detach_self hc hsil
  cases hx : lowestFreeVoice (Machine.detach h s) with
  | none =>
    rw [divertFromShared_of_none hx]
    exact off.divertDone (hs.detach h) hoff ((exists_diverting_iff _).1 ⟨_, (stageOf_eq_diverting ..).2 hst⟩) hsil false
  | some x =>
    rw [divertFromShared_of_free hoff hx]
    refine off.take (c' := { offVoice c with voice := some x, announceDue := some (firstDue (Machine.detach h s) (offVoice c).queue) })
      hoff rfl hx rfl hsil hp (fun g => callOf_startVoice ..) (fun w => voiceOf_startVoice ..) rfl (.inl rfl)
      (stageFits_exit ((stageOf_eq_diverting ..).2 hst) hsil rfl fun y hy => ?_)
    rw [exitStarted, voiceOf_startVoice, if_pos rfl] at hy
    cases hy
    rfl

theorem Heard.divertExit (k : Heard none s) (hs : Sound True False s) (hc : callOf s h = some c) :
    Heard none (divertExit h (diverting c) (divertStart s h c)) := by
  have started : Heard (some h) (divertStart s h c) := k.setCallRec (c := diverting c) hc rfl rfl nofun (.inl rfl)
  have sound : Sound True False (divertStart s h c) := hs.setCallRec h (x := diverting c) (hs.call hc :)
  have hstart := callOf_divertStart hc
  have atOnce (hno : exitOf s c = none ∨ c.voice = none) : Heard none (Machine.divertExit h (diverting c) (divertStart s h c)) := by
    rw [divertExit_atOnce hno]
    exact started.divertDone sound hstart rfl rfl false
  cases he : exitOf s c with
  | none => exact atOnce (.inl he)
  | some e =>
    obtain ⟨p, j⟩ := e
    cases hv : c.voice with
    | none => exact atOnce (.inr hv)
    | some v =>
      obtain ⟨r, hr, -⟩ := k.hearing.heard h _ v (earIn_eq hc) hv
      cases hm : r.mode with
      | private_ g =>
        rw [divertExit_private he hv hr hm]
        have jumped : Heard (some h) (Machine.nextClip v r .exit r.loopIndex j (divertStart s h c)) := by
          refine started.nextClip (segment := .exit) hr (fun hsh => ?_) (fun g' hg' => .inl ?_) _ _
          · rw [isShared_of_private hm] at hsh
            cases hsh
          · rw [k.private_call hc hv hr hg']
        refine jumped.tighten (earIn_eq ((callOf_nextClip ..).trans hstart)) (stageFits_exit rfl rfl hv fun y hy => ?_)
        rw [voiceOf_nextClip, if_pos rfl] at hy
        cases hy
        rfl
      | shared n =>
        rw [divertExit_shared he hv hr hm]
        exact started.divertFromShared sound hstart rfl rfl ((exitOf_eq_some ..).1 he).1 j

/-- The voice of a call whose divert is cancelled goes on in its loop, or the call is attached again. -/
theorem Heard.cancelVoice (k : Heard (some h) s) (hs : Sound True False s) (named : ProgramsNamed s) (hc : callOf s h = some c)
    (hst : stageOf c = .open_) : Heard none (cancelVoice h c s) := by
  obtain ⟨-, hnames, hvoices⟩ := (programsNamed_iff s).1 named
  cases hv : c.voice with
  | none =>
    rw [cancelVoice_of_no_voice hv]
    exact k.attach hs hc hv hst fun p hp => hnames p (names_of_callOf hc hp)
  | some v =>
    obtain ⟨r, hr, -⟩ := k.hearing.heard h _ v (earIn_eq hc) hv
    obtain ⟨x, hx⟩ := Option.ne_none_iff_exists'.1 (hvoices _ (mem_of_tableFind hr))
    rw [cancelVoice_of_voice hv hr hx]
    refine Heard.tighten (k.nextClip (segment := .loop) hr (fun _ => rfl) (fun g hg => .inl ?_) 0 (loopClip x 0))
      (earIn_eq ((callOf_nextClip ..).trans hc)) (stageFits_open_voice hst hv fun y hy _ => ?_)
    · rw [k.private_call hc hv hr hg]
    · rw [voiceOf_nextClip, if_pos rfl] at hy
      cases hy
      nofun

theorem Heard.handleDivert (k : Heard none s) (hs : Sound True False s) (handle : BitVec 16) : Heard none (handleDivert handle s).1 := by
  unfold Machine.handleDivert
  refine withCall_fst k fun c hc => ?_
  dsimp only
  split
  · exact k
  · exact k
  · exact k
  · exact k.divertExit hs hc

theorem Heard.handleCancelDivert (k : Heard none s) (hs : Sound True False s) (ks : Stored False False True False s)
    (handle : BitVec 16) : Heard none (handleCancelDivert handle s).1 := by
  unfold Machine.handleCancelDivert
  refine withCall_fst k fun c hc => ?_
  dsimp only
  split
  · exact k
  · exact k
  · exact k
  · have waits : Heard (some handle.toNat) (Machine.setCallRec s handle.toNat { c with status := .waiting }) :=
      k.setCallRec (c := { c with status := .waiting }) hc rfl rfl id (.inl rfl)
    have stored := ks.setCallRec (c := { c with status := .waiting }) hc rfl
    exact (waits.cancelVoice (hs.setCallRec _ (x := { c with status := .waiting }) (hs.call hc :)) (stored.named trivial)
      (callOf_setCallRec_self hc _) rfl).quiet (quiet_matchCall ..)

/-! ### Calls that leave (R24, R65, R79) -/

/-- A call taken off its place keeps what it has of the audio side. -/
theorem quiet_placeLeft (hc : callOf s h = some c) : Quiet True s (leavePlace h c s) := by
  unfold leavePlace
  split
  · next hst =>
    have waits : Quiet True s (setCallRec s h { c with status := .waiting }) := by
      refine quiet_setCallRec hc rfl fun _ => ?_
      rw [earOf, earOf, stageOf_of_waiting rfl, stageOf_of_offered hst]
    refine (waits.trans ?_).trans (quiet_notify ..)
    split
    · exact quiet_returnToPlace ..
    · exact .refl _ _
  · exact quiet_leaveList ..
  · exact quiet_leaveList ..
  · exact .refl _ _

theorem Heard.removeCall (k : Heard none s) (hs : Sound True False s) (hc : callOf s h = some c) (cause : BitVec 8) :
    Heard none (removeCall h cause c s) := by
  have hq := hs.call hc
  have place := quiet_placeLeft hc
  have sound := hs.leavePlace hc
  obtain ⟨t, ht⟩ : ∃ t, t = leavePlace h c s := ⟨_, rfl⟩
  rw [← ht] at place sound
  have left : Heard (some h) t := (k.quiet place).loosen h
  obtain ⟨d, hd, -⟩ := earIn_eq_some.1 ((place.ears trivial h).trans (earIn_eq hc))
  have gone : Heard none (removed h c.queue (countRemoved cause) t) := by
    have off : Heard (some h) (count (Machine.detach h t) c.queue (countRemoved cause)) := (left.detach sound hd).quiet (quiet_count ..)
    exact (off.freeCall (callOf_detach left hd) rfl (.inr rfl)).quiet (quiet_evalSurge ..)
  unfold Machine.removeCall
  dsimp only
  rw [← ht]
  split
  · exact gone.quiet (quiet_matchAgent _ fun _ => sound.removed h hq _)
  all_goals exact gone

theorem Heard.handleRemove (k : Heard none s) (hs : Sound True False s) (handle : BitVec 16) (cause : BitVec 8) :
    Heard none (handleRemove handle cause s).1 := by
  unfold Machine.handleRemove
  refine withCall_fst k fun c hc => ?_
  split
  · exact k
  · split
    · exact k
    all_goals exact k.removeCall hs hc cause

/-- A call that became CONNECTED leaves its voice and is silent no more. -/
theorem Heard.connected (k : Heard (some h) s) (hs : Sound True False s) (hc : callOf s h = some c) (hst : stageOf c = .connected) :
    Heard none (Machine.detach h (clearAwaiting h s)) := by
  have e : clearAwaiting h s = Machine.setCallRec s h { c with awaitingVoice := false } := by simp only [clearAwaiting, hc]
  have hcall : callOf (clearAwaiting h s) h = some { c with awaitingVoice := false } := by rw [e]; exact callOf_setCallRec_self hc _
  have clear : Heard (some h) (clearAwaiting h s) := by
    rw [e]
    exact k.setCallRec (c := { c with awaitingVoice := false }) hc rfl rfl nofun (.inr rfl)
  refine (clear.detach (hs.clearAwaiting h) hcall).tighten (earIn_eq (callOf_detach_self hcall rfl)) ⟨nofun, fun _ => ⟨rfl, rfl⟩, ?_, ?_⟩
  · intro d hd
    cases hst.symm.trans hd
  · intro ho
    cases hst.symm.trans ho

theorem Heard.connectCall (k : Heard none s) (hs : Sound True False s) (hc : callOf s h = some c) (a : Nat) :
    Heard none (connectCall h a c s) := by
  have hq := hs.call hc
  have written : Heard (some h) (Machine.setCallRec s h { c with status := .connected s.now }) :=
    k.setCallRec (c := { c with status := .connected s.now }) hc rfl rfl id (.inl rfl)
  have sound := hs.setCallRec h (x := { c with status := .connected s.now }) hq
  have hcall := callOf_setCallRec_self hc { c with status := .connected s.now }
  unfold Machine.connectCall
  dsimp only
  split
  · next v hv =>
    exact Heard.connected ((written.quiet (quiet_setAgentRec ..)).quiet (quiet_count ..))
      ((sound.setAgentRec (v := talkTo h v) (sound.agent hv).1 (wrapFine_of_none rfl)).count hq _) hcall rfl
  · exact Heard.connected (written.quiet (quiet_count ..)) (sound.count hq _) hcall rfl

theorem Heard.handleAnswer (k : Heard none s) (hs : Sound True False s) (handle agent : BitVec 16) :
    Heard none (handleAnswer handle agent s).1 := by
  unfold Machine.handleAnswer
  refine withCall_fst k fun c hc => ?_
  split
  · exact k
  · exact withOffer_fst k fun _ _ => k.connectCall hs hc _

theorem Heard.releaseCall (k : Heard none s) (hs : Sound True False s) (hc : callOf s h = some c) {u : Time}
    (hst : c.status = .connected u) {a : Nat} (ha : a < 512) (x : Agent) (talk : Time) : Heard none (releaseCall h a x c talk s) := by
  have hq := hs.call hc
  obtain ⟨hnone, -⟩ := (k.fits h _ (earIn_eq hc) nofun).connected ((stageOf_eq_connected c).2 ⟨u, hst⟩)
  have written (w : WrapRecord) : Heard none (releaseWritten s h a x c w) :=
    Heard.quiet (Heard.freeCall (k.quiet (quiet_count ..)) ((callOf_count ..).trans hc) hnone (.inl rfl)) (quiet_setAgentRec ..)
  rw [releaseCall_eq]
  split
  · exact (written _).quiet (quiet_endWrap (fun _ => ⟨hs.releaseWritten hc ha hq, ha, hq⟩) _ _)
  · exact written _

theorem Heard.handleRelease (k : Heard none s) (hs : Sound True False s) (handle : BitVec 16) :
    Heard none (handleRelease handle s).1 := by
  unfold Machine.handleRelease
  refine withCall_fst k fun c hc => ?_
  dsimp only
  split
  · exact k
  · exact k
  · exact k
  · next hst =>
    split
    · next a x ha =>
      obtain ⟨a', -, e⟩ := Option.bind_eq_some_iff.1 ha
      obtain ⟨x', hx', e'⟩ := Option.map_eq_some_iff.1 e
      cases e'
      exact k.releaseCall hs hc hst (hs.agent hx').1 ..
    · exact k

/-! ### Calls that arrive (R21) -/

theorem Heard.admitCall (k : Heard none s) {slot : Nat} (hs : slot < 2048) (hfree : tableFind s.calls slot = none) (hv : c.voice = none)
    (hsil : c.awaitingVoice = false) : Heard (some (handleOf s slot)) (admitCall slot c s) := by
  have ears (g : Nat) : earIn (Machine.admitCall slot c s) g = if g = handleOf s slot then some (earOf c) else earIn s g := by
    rw [earIn, callOf_admitCall hs]
    split <;> rfl
  have hnone : earIn s (handleOf s slot) = none := by rw [earIn, callOf_handleOf s hs, hfree]; rfl
  have voices : voiceOf (Machine.admitCall slot c s) = voiceOf s := by rw [admitCall_frame]; rfl
  refine ⟨?_, fun g e he hg => ?_⟩
  · rw [voices]
    refine k.hearing.recall ears ?_ fun e he hor => ?_
    · rw [hnone]; exact hv
    · cases he
      rcases hor with hor | hor
      · exact absurd hv hor
      · cases hsil.symm.trans hor
  · rw [ears, if_neg fun e => hg (by rw [e])] at he
    rw [voices]
    exact k.fits g e he nofun

theorem Heard.handleEnqueue (k : Heard none s) (hs : Sound True False s) (ks : Stored False False True False s) (tag : BitVec 32)
    (queue options priority : BitVec 8) (skills : BitVec 32) (program : BitVec 8) :
    Heard none (handleEnqueue tag queue options priority skills program s).1 := by
  unfold Machine.handleEnqueue
  dsimp only
  split
  · exact k
  next hq =>
  split
  · exact k
  next hhigh =>
  split
  · exact k
  next hlow =>
  split
  · exact k
  next slot hslot =>
  split
  · exact k
  next chosen overflowed hdec =>
  have hq' : queue.toNat < 64 := by omega
  have hchosen := hs.overflowDecision_lt hq' hdec
  obtain ⟨hslot', hfree⟩ := lowestFreeSlot_spec hslot
  obtain ⟨c, hcdef⟩ : ∃ c, c = newCall s tag queue.toNat chosen overflowed (enqueuePriority s queue.toNat options priority)
    (if optionBit options 1 then some skills else none) (enqueueProgram s queue.toNat options program) := ⟨_, rfl⟩
  have hqueue : c.queue = chosen := by rw [hcdef]; rfl
  have hvoice : c.voice = none := by rw [hcdef]; rfl
  have hsilent : c.awaitingVoice = false := by rw [hcdef]; rfl
  have hopen : stageOf c = .open_ := by rw [hcdef]; rfl
  have horigin (q : Nat) (hoq : c.originQueue = some q) : q < 64 := by
    rw [hcdef, newCall] at hoq
    cases overflowed with
    | true => cases hoq; exact hq'
    | false => cases hoq
  have hnamed (x : Nat) (hx : c.program = some x) : Names s x ∨ programOf s x ≠ none := by
    rw [hcdef] at hx
    exact enqueueProgram_named hhigh hlow hx
  rw [← hcdef]
  have admitted : Heard (some (handleOf s slot)) (evalSurge chosen (Machine.admitCall slot c s)) :=
    (k.admitCall hslot' hfree hvoice hsilent).quiet (quiet_evalSurge ..)
  have sound : Sound True False (evalSurge chosen (Machine.admitCall slot c s)) :=
    (hs.admitCall hslot' (hqueue ▸ hchosen) horigin).evalSurge hchosen
  have stored : Stored False False True False (evalSurge chosen (Machine.admitCall slot c s)) :=
    (ks.admitCall fun _ => hnamed).quiet (quiet_evalSurge ..)
  have hcall : callOf (evalSurge chosen (Machine.admitCall slot c s)) (handleOf s slot) = some c := by
    rw [callOf_evalSurge, callOf_admitCall_self hslot']
  obtain ⟨-, hnames, -⟩ := (programsNamed_iff _).1 (stored.named trivial)
  exact (admitted.attach sound hcall hvoice hopen fun p hp => hnames p (names_of_callOf hcall hp)).quiet (quiet_matchCall ..)

end

end Sys2Proof.Machine
end

-- ==== Sys2Proof/Proofs/VoicesKept ====
section
/-! Every step keeps the voices and their listeners (R140 to R154), and what becomes of a voice that becomes FREE (R143 to R145). -/

namespace Sys2Proof.Machine

section
variable {l : Option Nat} {s t : State}

/-! ### The orders of the queues, the clips and the programs -/

theorem Heard.handleSetQueue (k : Heard l s) (f : QueueFields) : Heard l (handleSetQueue f s).1 := by
  cases h : setQueueRefusal s f with
  | some r => rw [handleSetQueue_of_refusal h]; exact k
  | none => rw [handleSetQueue_of_accept h]; exact k.of_tables rfl rfl rfl

theorem Heard.handleOpenClipLoad (k : Heard l s) (clip : BitVec 8) (startPage : BitVec 16) (length : BitVec 32) :
    Heard l (handleOpenClipLoad clip startPage length s).1 := by
  unfold Machine.handleOpenClipLoad
  dsimp only
  split
  · exact k
  split
  · exact k
  split
  · exact k
  split
  · exact k
  split
  · exact k
  · exact k.of_tables rfl rfl rfl

theorem Heard.handleClipData (k : Heard l s) (clip : BitVec 8) (offset : BitVec 32) (data : List (BitVec 8)) :
    Heard l (handleClipData clip offset data s).1 := by
  unfold Machine.handleClipData
  dsimp only
  split
  · exact k
  refine withLoading_keeps k fun c cursor xor excess _ _ => ?_
  split
  · exact k
  · exact k.of_tables rfl rfl rfl

theorem Heard.handleCloseClipLoad (k : Heard l s) (clip expectedXor : BitVec 8) : Heard l (handleCloseClipLoad clip expectedXor s).1 :=
  withLoading_keeps k fun _ _ _ _ _ _ => k.of_tables rfl rfl rfl

theorem Heard.handleAbortClipLoad (k : Heard l s) (clip : BitVec 8) : Heard l (handleAbortClipLoad clip s).1 :=
  withLoading_keeps k fun _ _ _ _ _ _ => k.of_tables rfl rfl rfl

theorem Heard.handleFreeClip (k : Heard l s) (clip : BitVec 8) : Heard l (handleFreeClip clip s).1 := by
  unfold Machine.handleFreeClip
  dsimp only
  split
  · exact k
  split
  · exact k
  · split
    · exact k
    · exact k.of_tables rfl rfl rfl
  · exact k.of_tables rfl rfl rfl

/-- The programs written and their clips' use counts moved. -/
theorem Heard.programs (k : Heard l s) (old new : List Nat) (q : Table Program) :
    Heard l { moveReferences s old new with programs := q } := by
  rw [moveReferences_frame]
  exact k.of_tables rfl rfl rfl

theorem Heard.handleSetProgram (k : Heard l s) (f : ProgramFields) : Heard l (handleSetProgram f s).1 := by
  unfold Machine.handleSetProgram
  split
  · exact k
  split
  · exact k
  · exact k.programs ..

theorem Heard.handleDeleteProgram (k : Heard l s) (program : BitVec 8) : Heard l (handleDeleteProgram program s).1 := by
  unfold Machine.handleDeleteProgram
  dsimp only
  split
  · exact k
  split
  · exact k
  split
  · exact k
  · exact k.programs ..

/-! ### Every step -/

/-- What the voices and their listeners rest on, and they. -/
structure Served (s : State) : Prop where
  kept : Kept True False False s
  stored : Stored False False True False s
  heard : Heard none s

theorem Heard.serviceOnly {g : State → State × Answer} (k : Heard none s) (kg : Heard none (g s).1) :
    Heard none (serviceOnly g s).1 := by
  unfold Machine.serviceOnly
  split
  · exact kg
  · exact k

theorem Served.handOverOrder (k : Served s) (i : Instr) : Heard none (handOverOrder i s) := by
  obtain ⟨kept, stored, heard⟩ := k
  have hs := kept.sound
  have conclude {r : State × Answer} (kind : Nat) (kr : Heard none r.1) : Heard none (Machine.conclude kind r) :=
    kr.quiet (quiet_of_records (records_conclude kind r))
  have concludeTo {r : State × Answer} (dest : Dest) (kind : Nat) (kr : Heard none r.1) : Heard none (Machine.concludeTo dest kind r) :=
    kr.quiet (quiet_of_records (records_concludeTo dest kind r))
  have service {g : State → State × Answer} (kind : Nat) (kg : Heard none (g s).1) :
      Heard none (Machine.conclude kind (Machine.serviceOnly g s)) := conclude kind (heard.serviceOnly kg)
  have same {r : State × Answer} (kind : Nat) (h : r.1 = s) : Heard none (Machine.conclude kind r) := conclude kind (h ▸ heard)
  have quiet {g : State → State × Answer} (kind : Nat) (q : Quiet True s (g s).1) :
      Heard none (Machine.conclude kind (Machine.serviceOnly g s)) := service kind (heard.quiet q)
  cases i with
  | startService d b => exact concludeTo _ _ (heard.quiet (quiet_handleStartService b s))
  | stopService d => exact concludeTo _ _ (heard.quiet (quiet_handleStopService s))
  | clearService d => exact concludeTo (r := handleClearService s) _ _ (heard_of_empty (clearAll_calls kept) rfl)
  | readEngine => exact heard.quiet (quiet_of_records rfl)
  | setQueue f => exact conclude _ (heard.handleSetQueue f)
  | setQueueState d q st => exact concludeTo _ _ (heard.quiet (quiet_handleSetQueueState q st s))
  | readQueue q => exact same _ (handleReadQueue_fst q s)
  | readQueueStatistics q b => exact conclude _ (heard.quiet (quiet_handleReadQueueStatistics q b s))
  | readWaiting q f m => exact same _ (handleReadWaiting_fst q f m s)
  | enqueue t q o x j g => exact service _ (heard.handleEnqueue hs stored t q o x j g)
  | remove h b => exact service _ (heard.handleRemove hs h b)
  | answer h b => exact service _ (heard.handleAnswer hs h b)
  | refuseOffer h b x r => exact quiet _ (quiet_handleRefuseOffer (fun _ => kept) h b x r)
  | release h => exact service _ (heard.handleRelease hs h)
  | divert h => exact service _ (heard.handleDivert hs h)
  | cancelDivert h => exact service _ (heard.handleCancelDivert hs stored h)
  | readCall h => exact same _ (handleReadCall_fst h s)
  | login b j v i r => exact quiet _ (quiet_handleLogin (fun _ => kept) b j v i r)
  | logout b => exact quiet _ (quiet_handleLogout (fun _ => kept) b)
  | setReady b => exact quiet _ (quiet_handleSetReady (fun _ => kept) b)
  | setNotReady b r => exact quiet _ (quiet_handleSetNotReady (fun _ => kept) b r)
  | setSkills b j => exact quiet _ (quiet_handleSetSkills (fun _ => kept) b j)
  | wrapDone b o j r => exact quiet _ (quiet_handleWrapDone (fun _ => kept) b o j r)
  | setDisposition b j => exact quiet _ (quiet_handleSetDisposition b j s)
  | extendWrap b => exact quiet _ (quiet_handleExtendWrap b s)
  | readAgent b => exact same _ (handleReadAgent_fst b s)
  | readAgentStates b m => exact same _ (handleReadAgentStates_fst b m s)
  | openClipLoad j x m => exact conclude _ (heard.handleOpenClipLoad j x m)
  | clipData j o d => exact conclude _ (heard.handleClipData j o d)
  | closeClipLoad j x => exact conclude _ (heard.handleCloseClipLoad j x)
  | abortClipLoad j => exact conclude _ (heard.handleAbortClipLoad j)
  | freeClip j => exact conclude _ (heard.handleFreeClip j)
  | readClip j o m => exact same _ (handleReadClip_fst j o m s)
  | readClipEntry j => exact same _ (handleReadClipEntry_fst j s)
  | setProgram f => exact conclude _ (heard.handleSetProgram f)
  | deleteProgram x => exact conclude _ (heard.handleDeleteProgram x)
  | readProgram x => exact same _ (handleReadProgram_fst x s)
  | readVoice v => exact same _ (handleReadVoice_fst v s)
  | unknownKind j b => exact same _ rfl
  | _ => exact heard

theorem stepKept_served : StepKept Served := by
  have kept := stepKept_kept True False False
  have stored := stepKept_stored False False True False
  exact {
    same := fun s t k e => ⟨kept.same s t k.kept e, stored.same s t k.stored e, k.heard.quiet (quiet_of_records e)⟩
    order := fun i s k => ⟨kept.order i s k.kept, stored.order i s k.stored, k.handOverOrder i⟩
    play := fun order s k => ⟨kept.play order s k.kept, stored.play order s k.stored, k.heard.playFrame k.kept.sound order⟩
    offer := fun h a d c s hc hst k => ⟨kept.offer h a d c s hc hst k.kept, stored.offer h a d c s hc hst k.stored,
      k.heard.quiet (quiet_expireOffer (fun _ => k.kept.sound) hc hst)⟩
    wrap := fun a v w p s hv hst k => ⟨kept.wrap a v w p s hv hst k.kept, stored.wrap a v w p s hv hst k.stored, by
      obtain ⟨ha, hf⟩ := k.kept.sound.agent hv
      exact k.heard.quiet (quiet_endWrap (fun _ => ⟨k.kept.sound, ha, hf.queue hst⟩) _ _)⟩
    cool := fun a v n d s hv hst k => ⟨kept.cool a v n d s hv hst k.kept, stored.cool a v n d s hv hst k.stored,
      k.heard.quiet ((quiet_setAgentRec ..).trans (quiet_matchAgent _ fun _ =>
        k.kept.sound.setAgentRec (v := { v with status := .ready n none }) (k.kept.sound.agent hv).1 (wrapFine_of_none rfl)))⟩
    surge := fun q s hq k => ⟨kept.surge q s hq k.kept, stored.surge q s hq k.stored, k.heard.quiet (quiet_evalSurge q s)⟩
    reset := ⟨kept.reset, stored.reset, heard_of_empty rfl rfl⟩
    held := fun s k => ⟨kept.held s k.kept, stored.held s k.stored, heard_of_empty rfl rfl⟩ }

theorem voicesOk_step (hc : Canonical s) (hr : InRange s) (hp : Paired s) (hn : ProgramsNamed s) (hv : VoicesOk s)
    (e : step s = .next t) : VoicesOk t := by
  have kept : Kept True False False s :=
    ⟨(sound_iff ..).2 ⟨fun _ => hc, hr, False.elim⟩, fun _ => (paired_iff hc hr).1 hp, fun _ => False.elim⟩
  have stored : Stored False False True False s :=
    stored_of_canonical hc False.elim False.elim False.elim (fun _ => hn) fun _ => False.elim
  obtain ⟨kept', -, heard'⟩ := stepKept_served.step ⟨kept, stored, (voicesOk_iff hc hr).1 hv⟩ e
  exact (voicesOk_iff (kept'.canonical trivial) kept'.inRange).2 heard'

/-! ### A voice that becomes FREE (R143, R144) -/

theorem oldestSilent_le {x : Table Call} {d : Call} (h : oldestSilent x = some d) :
    ∀ e ∈ x, e.2.awaitingVoice = true → d.arrivalSeq ≤ e.2.arrivalSeq := by
  induction x generalizing d with
  | nil => cases h
  | cons e x ih =>
    obtain ⟨i, b⟩ := e
    rw [oldestSilent] at h
    rw [List.forall_mem_cons]
    cases hx : oldestSilent x with
    | none =>
      rw [hx] at h
      have quiet := oldestSilent_eq_none.1 hx
      dsimp only at h
      split at h
      · cases h
        exact ⟨fun _ => le_rfl, fun f hf hs => by rw [quiet f hf] at hs; cases hs⟩
      · cases h
    | some y =>
      rw [hx] at h
      have rest := ih hx
      dsimp only at h
      split at h
      · next hb =>
        obtain ⟨-, hlt⟩ := Bool.and_eq_true_iff.1 hb
        have hlt := of_decide_eq_true hlt
        cases h
        exact ⟨fun _ => le_rfl, fun f hf hs => hlt.le.trans (rest f hf hs)⟩
      · next hb =>
        cases h
        refine ⟨fun hs => ?_, rest⟩
        by_contra hle
        exact hb (Bool.and_eq_true_iff.2 ⟨hs, decide_eq_true (Nat.lt_of_not_le hle)⟩)

/-- The silent call that came before every other is the oldest. -/
theorem oldestSilent_of_least {x : Table Call} {e : Nat × Call} (he : e ∈ x) (hs : e.2.awaitingVoice = true)
    (hleast : ∀ f ∈ x, f.2.awaitingVoice = true → f ≠ e → e.2.arrivalSeq < f.2.arrivalSeq) : oldestSilent x = some e.2 := by
  cases h : oldestSilent x with
  | none =>
    rw [oldestSilent_eq_none.1 h e he] at hs
    cases hs
  | some d =>
    obtain ⟨hd, i, hi⟩ := oldestSilent_mem h
    by_cases hne : (i, d) = e
    · rw [← hne]
    · have := hleast _ hi hd hne
      have := oldestSilent_le h e he hs
      dsimp only at *
      omega

section
variable {v : Nat} {r : Voice}

/-- The state in which a voice has given up its clip and is handed to no call yet. -/
def voiceGivenUp (s : State) (v : Nat) (r : Voice) : State := giveUse (dropVoice s v) r.clip

theorem freeVoice_eq (hr : voiceOf s v = some r) : freeVoice v s = handVoice v (voiceGivenUp s v r) := freeVoice_of_voice hr

theorem voiceGivenUp_calls (s : State) (v : Nat) (r : Voice) : (voiceGivenUp s v r).calls = s.calls := changeUse_calls ..

theorem voiceGivenUp_notices (s : State) (v : Nat) (r : Voice) : (voiceGivenUp s v r).notices = s.notices := changeUse_notices ..

theorem voiceOf_voiceGivenUp (s : State) (v : Nat) (r : Voice) : voiceOf (voiceGivenUp s v r) v = none := by
  rw [voiceGivenUp, voiceOf_giveUse]
  exact tableFind_tableErase_self ..

theorem clipOf_voiceGivenUp (s : State) (v : Nat) (r : Voice) (j : Nat) :
    clipOf (voiceGivenUp s v r) j = (clipOf s j).map (movedUse (some r.clip) none j) := clipOf_giveUse ..

theorem callOf_voiceGivenUp (s : State) (v : Nat) (r : Voice) (h : Nat) : callOf (voiceGivenUp s v r) h = callOf s h :=
  callOf_congr (voiceGivenUp_calls s v r) (audioOnly_giveUse (dropVoice s v) r.clip).generations h

theorem programOf_voiceGivenUp (s : State) (v : Nat) (r : Voice) (x : Nat) : programOf (voiceGivenUp s v r) x = programOf s x := by
  rw [programOf, voiceGivenUp, giveUse, changeUse_programs]
  rfl

/-- A use given up and a use taken are a use moved. -/
theorem movedUse_given_taken (old new j : Nat) (c : Clip) :
    movedUse none (some new) j (movedUse (some old) none j c) = movedUse (some old) (some new) j c := by
  simp only [movedUse, reduceCtorEq, if_false, Nat.sub_zero, Nat.add_zero]

/-- With no call silent a voice that becomes FREE stays FREE. -/
theorem freeVoice_of_no_silent (hr : voiceOf s v = some r) (hs : ∀ e ∈ s.calls, e.2.awaitingVoice = false) :
    freeVoice v s = voiceGivenUp s v r := by
  rw [freeVoice_eq hr, handVoice_of_none]
  rwa [voiceGivenUp_calls]

/-- The voice as it starts for the silent calls of program `p`, before its notice. -/
def silentServed (s : State) (v : Nat) (r : Voice) (p clip : Nat) : State :=
  startVoice (voiceHanded v p (voiceGivenUp s v r)) v p (.shared (s.calls.countP fun f => silentFor p f.2)) .loop 0 clip

theorem freeVoice_of_oldest (hr : voiceOf s v = some r) {c : Call} {p : Nat} {x : Program} (hc : oldestSilent s.calls = some c)
    (hp : c.program = some p) (hx : programOf s p = some x) : freeVoice v s =
      notify 0x86 [f1 v, f1 p, f2 (s.calls.countP fun f => silentFor p f.2)] (silentServed s v r p (x.loop.getD 0 0)) := by
  rw [freeVoice_eq hr, handVoice_of_oldest (by rw [voiceGivenUp_calls]; exact hc) hp, programOf_voiceGivenUp, hx, voiceGivenUp_calls]
  rfl

theorem clipOf_silentServed (s : State) (v : Nat) (r : Voice) (p clip j : Nat) :
    clipOf (silentServed s v r p clip) j = (clipOf s j).map (movedUse (some r.clip) (some clip) j) := by
  have given : clipOf (voiceHanded v p (voiceGivenUp s v r)) j = (clipOf s j).map (movedUse (some r.clip) none j) :=
    clipOf_voiceGivenUp s v r j
  rw [silentServed, clipOf_startVoice, given, Option.map_map]
  exact congrArg (Option.map · (clipOf s j)) (funext (movedUse_given_taken r.clip clip j))

theorem callOf_silentServed (s : State) (v : Nat) (r : Voice) (p clip h : Nat) : callOf (silentServed s v r p clip) h =
    (callOf s h).map fun c => if silentFor p c then { c with voice := some v, awaitingVoice := false } else c := by
  rw [silentServed, callOf_startVoice, callOf_voiceHanded, callOf_voiceGivenUp]

theorem silentServed_notices (s : State) (v : Nat) (r : Voice) (p clip : Nat) : (silentServed s v r p clip).notices = s.notices :=
  (startVoice_notices ..).trans (voiceGivenUp_notices ..)

theorem silentServed_now (s : State) (v : Nat) (r : Voice) (p clip : Nat) : (silentServed s v r p clip).now = s.now :=
  ((audioOnly_startVoice ..).now).trans (audioOnly_giveUse (dropVoice s v) r.clip).now

end

/-- Settles O53: the voice that becomes FREE by `handVoice`, the detached call by the mode of its voice, and every step by `Served`. -/
theorem freedVoiceGoesToTheSilentCalls : Obligations.FreedVoiceGoesToTheSilentCalls := by
  refine ⟨fun v r s hr _ => ⟨fun hs => ?_, fun e p x he hs hp hx hleast => ?_, fun w hw => voiceOf_freeVoice_of_ne s hw,
    (audioOnly_freeVoice v s).1⟩, fun h v c r s hc hv hr => ⟨fun n hn h1 => detach_of_shared hc hv hr hn h1, detach_of_sole hc hv hr⟩,
    fun s t hc hr hp hn hv e => voicesOk_step hc hr hp hn hv e⟩
  · rw [freeVoice_of_no_silent hr hs]
    exact ⟨voiceOf_voiceGivenUp s v r, voiceGivenUp_calls s v r, voiceGivenUp_notices s v r, clipOf_voiceGivenUp s v r⟩
  · rw [freeVoice_of_oldest hr (oldestSilent_of_least he hs hleast) hp hx]
    refine ⟨?_, fun h c hc => ?_, fun j => ?_, fun hn => ?_⟩
    · rw [voiceOf_notify, silentServed, voiceOf_startVoice, if_pos rfl]
      rfl
    · rw [callOf_notify, callOf_silentServed, hc, Option.map_some]
      congr 1
      exact if_congr (by rw [silentFor, Bool.and_eq_true, beq_iff_eq]) rfl rfl
    · rw [clipOf_notify]
      exact clipOf_silentServed ..
    · rw [notify_of_lt (by rw [silentServed_notices]; exact hn), silentServed_notices, silentServed_now]
      rfl

end

end Sys2Proof.Machine
end

-- ==== Sys2Proof/Proofs/HighwayFrames ====
section
/-! A whole highway frame: the sync it restores, the timeslots it drives, the voices it plays and the count of its pulse (R146, R157,
R161, R166). -/

namespace Sys2Proof.Machine

/-! ### The link at the end of a frame (R180, R188) -/

/-- A state read through anything but the reply queue, the notice queue and the frame being sent is the same after the
transmitter's turn. -/
theorem transmit_read {β : Type} (g : State → β)
    (hg : ∀ (s : State) x r n, g { s with sending := x, replies := r, notices := n } = g s) (s : State) : g (transmit s) = g s := by
  rw [← hg (transmit s) s.sending s.replies s.notices, transmit_frame]

@[simp] theorem transmit_syncPresent (s : State) : (transmit s).syncPresent = s.syncPresent := transmit_read _ (fun _ _ _ _ => rfl) s
@[simp] theorem transmit_now (s : State) : (transmit s).now = s.now := transmit_read _ (fun _ _ _ _ => rfl) s
@[simp] theorem transmit_pulse (s : State) : (transmit s).pulse = s.pulse := transmit_read _ (fun _ _ _ _ => rfl) s
@[simp] theorem transmit_framePhase (s : State) : (transmit s).framePhase = s.framePhase := transmit_read _ (fun _ _ _ _ => rfl) s
@[simp] theorem transmit_highway (s : State) : (transmit s).highway = s.highway := transmit_read _ (fun _ _ _ _ => rfl) s
@[simp] theorem callOf_transmit (s : State) (h : Nat) : callOf (transmit s) h = callOf s h :=
  transmit_read (fun t => callOf t h) (fun _ _ _ _ => rfl) s
@[simp] theorem clipOf_transmit (s : State) (k : Nat) : clipOf (transmit s) k = clipOf s k :=
  transmit_read (fun t => clipOf t k) (fun _ _ _ _ => rfl) s

/-- A frame that is held waits for a place in the reply queue, so the transmitter's turn is all that is left to do. -/
theorem settle_eq_transmit {s : State} (h : s.held = [] ∨ (s.sending.isSome = true ∧ 4 ≤ s.replies.length)) :
    settle s = transmit s := by
  rcases h with held | ⟨busy, full⟩
  · exact settle_of_held_nil held
  · rw [settle_eq_self ((settled_iff s).2 ⟨.inl busy, .inr full⟩), transmit_eq_self (.inl busy)]

/-- In a settled state no frame is held, or the transmitter is busy and the reply queue is full. -/
theorem held_nil_or_full_of_settled {s : State} (h : settled s = true) :
    s.held = [] ∨ (s.sending.isSome = true ∧ 4 ≤ s.replies.length) := by
  obtain ⟨busyOrEmpty, heldOrFull⟩ := (settled_iff s).1 h
  refine heldOrFull.imp_right fun full => ⟨busyOrEmpty.resolve_right fun empty => ?_, full⟩
  rw [empty.1] at full
  exact absurd full (by decide)

/-! ### What moves the audio side alone leaves of the link and of the frame -/

section
variable {s t : State}

theorem AudioOnly.held (a : AudioOnly s t) : t.held = s.held := (congrArg State.held a.1 :)
theorem AudioOnly.replies (a : AudioOnly s t) : t.replies = s.replies := (congrArg State.replies a.1 :)
theorem AudioOnly.syncPresent (a : AudioOnly s t) : t.syncPresent = s.syncPresent := (congrArg State.syncPresent a.1 :)
theorem AudioOnly.pulse (a : AudioOnly s t) : t.pulse = s.pulse := (congrArg State.pulse a.1 :)
theorem AudioOnly.framePhase (a : AudioOnly s t) : t.framePhase = s.framePhase := (congrArg State.framePhase a.1 :)
theorem AudioOnly.highway (a : AudioOnly s t) : t.highway = s.highway := (congrArg State.highway a.1 :)

theorem AudioOnly.sending_isSome (a : AudioOnly s t) : t.sending.isSome = s.sending.isSome := by
  have blanked : sendingBlanked t = sendingBlanked s := (congrArg State.sending a.1 :)
  simpa [sendingBlanked] using congrArg Option.isSome blanked

end

/-! ### The sync restored (R166) -/

theorem restoreSync_eq (s : State) :
    restoreSync s = if s.syncPresent then s else notify 0x88 [f1 1, f2 s.framePhase] { s with syncPresent := true } := rfl

/-- Apart from the sync and its notice the state stands. -/
theorem restoreSync_read {β : Type} (g : State → β)
    (hg : ∀ (s : State) p n b x e, g { s with syncPresent := p, notices := n, noticesLost := b, sending := x, frameEnds := e } = g s)
    (s : State) : g (restoreSync s) = g s := by
  rw [restoreSync_eq]
  split
  · rfl
  · rw [notify_read g fun t n b x e => hg t t.syncPresent n b x e]
    exact hg s true s.notices s.noticesLost s.sending s.frameEnds

@[simp] theorem restoreSync_voices (s : State) : (restoreSync s).voices = s.voices := restoreSync_read _ (fun _ _ _ _ _ _ => rfl) s

theorem audioOnly_restoreSync (s : State) : AudioOnly { s with syncPresent := true } (restoreSync s) := by
  rw [restoreSync_eq]
  split
  · next present =>
    rw [← present]
    exact .refl s
  · exact audioOnly_notify ..

theorem restoreSync_notices {s : State} (lost : s.syncPresent = false) (room : s.notices.length < 256) :
    (restoreSync s).notices =
      s.notices ++ [{ frameClass := 4, kind := 0x88, body := [f4 s.now.toNat, f1 1, f2 s.framePhase] }] := by
  rw [restoreSync_eq, lost, if_neg Bool.false_ne_true]
  exact congrArg State.notices (notify_of_lt (s := { s with syncPresent := true }) room ..)

/-! ### The timeslots (R157) -/

/-- The bytes of a frame's timeslots, voice by voice. -/
def frameSlots (s : State) : List Byte := (List.range Config.voices).map (slotByte s)

theorem frameSlots_length (s : State) : (frameSlots s).length = 128 := by
  rw [frameSlots, List.length_map, List.length_range]
  rfl

theorem frameSlots_getElem? (s : State) {v : Nat} (hv : v < 128) : (frameSlots s)[v]? = some (slotByte s v) := by
  rw [frameSlots, List.getElem?_map, List.getElem?_range (show v < Config.voices from hv)]
  rfl

theorem slotByte_of_free {s : State} {v : Nat} (hv : voiceOf s v = none) : slotByte s v = s.silence := by
  simp only [slotByte, hv, Option.bind_none]

theorem slotByte_of_voice {s : State} {v : Nat} {r : Voice} {k : Clip} (hr : voiceOf s v = some r) (hk : clipOf s r.clip = some k) :
    slotByte s v = sampleAt s (k.startPage * 512 + r.offset) := by
  simp only [slotByte, hr, hk, Option.bind_some, Option.map_some]
  rfl

theorem frameSlots_restoreSync (s : State) : frameSlots (restoreSync s) = frameSlots s :=
  restoreSync_read frameSlots (fun _ _ _ _ _ _ => rfl) s

theorem length_flatMap_slotBits (slots : List Byte) : (slots.flatMap slotBits).length = 8 * slots.length := by
  induction slots with
  | nil => rfl
  | cons b slots ih =>
    rw [List.flatMap_cons, List.length_append, slotBits_length, ih, List.length_cons]
    omega

/-- Bit `i` of timeslot `v` stands `8 v + i` bits into the frame. -/
theorem flatMap_slotBits_getElem? {slots : List Byte} {v i : Nat} {b : Byte} (hb : slots[v]? = some b) (hi : i < 8) :
    (slots.flatMap slotBits)[8 * v + i]? = some (b.getLsbD (7 - i)) := by
  induction slots generalizing v with
  | nil => cases hb
  | cons a slots ih =>
    rw [List.flatMap_cons]
    cases v with
    | zero =>
      cases hb
      rw [List.getElem?_append_left (by rw [slotBits_length]; omega), Nat.mul_zero, Nat.zero_add, slotBits_getElem? _ hi]
    | succ v =>
      rw [List.getElem?_append_right (by rw [slotBits_length]; omega), slotBits_length, ← ih hb]
      congr 1
      omega

/-! ### The voices of a frame and their order (R146) -/

theorem mem_indices_iff {α : Type} (t : Table α) (k : Nat) : k ∈ t.map (·.1) ↔ tableFind t k ≠ none := by
  induction t with
  | nil => simp
  | cons e t ih =>
    by_cases he : e.1 = k
    · simp [tableFind, he]
    · simp only [List.map_cons, List.mem_cons, tableFind, if_neg he, ← ih, Ne.symm he, false_or]

theorem nodup_indices {α : Type} {t : Table α} (h : tableRising t = true) : (t.map (·.1)).Nodup :=
  List.pairwise_map.2 (((tableRising_iff_pairwise t).1 h).imp Nat.ne_of_lt)

/-- An order that names each of `all` once, and nothing else, is the order taken. -/
theorem inOrder_of_names_all {all order : List Nat} (hn : order.Nodup) (h : ∀ v, v ∈ order ↔ v ∈ all) :
    inOrder all order = order := by
  have named : order.filter all.contains = order := List.filter_eq_self.2 fun v hv => List.contains_iff_mem.2 ((h v).1 hv)
  have others : (all.filter fun v => !order.contains v) = [] :=
    List.filter_eq_nil_iff.2 fun v hv => by simpa using (h v).2 hv
  rw [inOrder, named, others, hn.dedup, List.append_nil]

/-- The voices that a frame plays, in the order in which it does. -/
def voicesPlayed (order : List Nat) (s : State) : List Nat := inOrder (s.voices.map (·.1)) order

theorem playFrame_eq (order : List Nat) (s : State) :
    playFrame order s = (voicesPlayed order s).foldl playVoice { s with highway := .driven (frameSlots s) } := rfl

theorem mem_voicesPlayed (order : List Nat) (s : State) (v : Nat) : v ∈ voicesPlayed order s ↔ voiceOf s v ≠ none :=
  mem_inOrder.trans (mem_indices_iff s.voices v)

theorem nodup_voicesPlayed {s : State} (h : Canonical s) (order : List Nat) : (voicesPlayed order s).Nodup := by
  obtain ⟨-, -, -, -, -, -, -, voices, -⟩ := h
  exact nodup_inOrder (nodup_indices voices) order

theorem voicesPlayed_of_names_all {order : List Nat} {s : State} (hn : order.Nodup) (h : ∀ v, v ∈ order ↔ voiceOf s v ≠ none) :
    voicesPlayed order s = order :=
  inOrder_of_names_all hn fun v => (h v).trans (mem_indices_iff s.voices v).symm

theorem voicesPlayed_restoreSync (order : List Nat) (s : State) : voicesPlayed order (restoreSync s) = voicesPlayed order s := by
  rw [voicesPlayed, voicesPlayed, restoreSync_voices]

/-- The frame event of a pulse: sync is PRESENT, the timeslots are those of the state before it, and but for them the audio side alone
has moved. -/
theorem audioOnly_frameEvent (order : List Nat) (s : State) :
    AudioOnly { s with syncPresent := true, highway := .driven (frameSlots s) } (playFrame order (restoreSync s)) := by
  obtain ⟨outside, calls, clips⟩ := audioOnly_restoreSync s
  have driven : AudioOnly { s with syncPresent := true, highway := .driven (frameSlots s) }
      { restoreSync s with highway := .driven (frameSlots s) } :=
    ⟨congrArg (fun t => { t with highway := .driven (frameSlots s) }) outside, calls, clips⟩
  refine driven.trans ?_
  rw [← frameSlots_restoreSync s]
  exact audioOnly_playFrame order (restoreSync s)

/-! ### The count of the pulse (R161) -/

/-- The count writes the phase and the mark of the pulse alone. -/
theorem countPulse_read {β : Type} (g : State → β) (hg : ∀ (s : State) p m, g { s with framePhase := p, pulse := m } = g s)
    (s : State) : g (countPulse s) = g s := by
  unfold countPulse
  split
  · exact hg s s.framePhase .whole
  all_goals
    split
    · exact hg s (s.framePhase + 1) s.pulse
    · exact hg s s.framePhase .played

@[simp] theorem countPulse_held (s : State) : (countPulse s).held = s.held := countPulse_read _ (fun _ _ _ => rfl) s
@[simp] theorem countPulse_replies (s : State) : (countPulse s).replies = s.replies := countPulse_read _ (fun _ _ _ => rfl) s
@[simp] theorem countPulse_sending (s : State) : (countPulse s).sending = s.sending := countPulse_read _ (fun _ _ _ => rfl) s
@[simp] theorem countPulse_syncPresent (s : State) : (countPulse s).syncPresent = s.syncPresent :=
  countPulse_read _ (fun _ _ _ => rfl) s
@[simp] theorem countPulse_now (s : State) : (countPulse s).now = s.now := countPulse_read _ (fun _ _ _ => rfl) s
@[simp] theorem countPulse_highway (s : State) : (countPulse s).highway = s.highway := countPulse_read _ (fun _ _ _ => rfl) s
@[simp] theorem callOf_countPulse (s : State) (h : Nat) : callOf (countPulse s) h = callOf s h :=
  countPulse_read (fun t => callOf t h) (fun _ _ _ => rfl) s
@[simp] theorem clipOf_countPulse (s : State) (k : Nat) : clipOf (countPulse s) k = clipOf s k :=
  countPulse_read (fun t => clipOf t k) (fun _ _ _ => rfl) s

theorem countPulse_of_counted {s : State} (h : s.pulse = .counted) : countPulse s = { s with pulse := .whole } := by
  simp only [countPulse, h]

theorem countPulse_of_lt {s : State} (h : s.pulse = .whole) (hp : s.framePhase < 799) :
    countPulse s = { s with framePhase := s.framePhase + 1 } := by
  simp only [countPulse, h]
  exact if_pos (Nat.succ_lt_succ hp)

theorem countPulse_of_ge {s : State} (h : s.pulse = .whole) (hp : 799 ≤ s.framePhase) : countPulse s = { s with pulse := .played } := by
  simp only [countPulse, h]
  exact if_neg (Nat.not_lt.2 (Nat.succ_le_succ hp))

/-! ### The whole frame -/

section
variable {s : State}

/-- The state a whole highway frame leaves. -/
def frameTaken (order : List Nat) (s : State) : State := transmit (countPulse (playFrame order (restoreSync s)))

/-- A pulse taken whole owes no count, and what it does to the link is no more than the transmitter's turn. -/
theorem exec_highwayFrame (hr : running s = true) (hs : settled s = true) (hp : s.pulse ≠ .played) (order : List Nat) :
    exec (.highwayFrame order) s = .next (frameTaken order s) := by
  have event := audioOnly_frameEvent order s
  have link : settle (countPulse (playFrame order (restoreSync s))) = frameTaken order s := by
    refine settle_eq_transmit ?_
    rw [countPulse_held, countPulse_sending, countPulse_replies, event.held, event.sending_isSome, event.replies]
    exact held_nil_or_full_of_settled hs
  show execHighwayFrame order s = _
  rw [execHighwayFrame, if_pos hr, oweCount, if_neg hp, link]

theorem frameTaken_syncPresent (order : List Nat) (s : State) : (frameTaken order s).syncPresent = true := by
  rw [frameTaken, transmit_syncPresent, countPulse_syncPresent]
  exact (audioOnly_frameEvent order s).syncPresent

theorem frameTaken_now (order : List Nat) (s : State) : (frameTaken order s).now = s.now := by
  rw [frameTaken, transmit_now, countPulse_now]
  exact (audioOnly_frameEvent order s).now

theorem frameTaken_highway (order : List Nat) (s : State) : (frameTaken order s).highway = .driven (frameSlots s) := by
  rw [frameTaken, transmit_highway, countPulse_highway]
  exact (audioOnly_frameEvent order s).highway

theorem frameTaken_of_counted (order : List Nat) (h : s.pulse = .counted) :
    (frameTaken order s).pulse = .whole ∧ (frameTaken order s).framePhase = s.framePhase := by
  have event := audioOnly_frameEvent order s
  rw [frameTaken, transmit_pulse, transmit_framePhase, countPulse_of_counted (event.pulse.trans h)]
  exact ⟨rfl, event.framePhase⟩

theorem frameTaken_of_lt (order : List Nat) (h : s.pulse = .whole) (hp : s.framePhase < 799) :
    (frameTaken order s).pulse = .whole ∧ (frameTaken order s).framePhase = s.framePhase + 1 := by
  have event := audioOnly_frameEvent order s
  rw [frameTaken, transmit_pulse, transmit_framePhase, countPulse_of_lt (event.pulse.trans h) (event.framePhase.trans_lt hp)]
  exact ⟨event.pulse.trans h, congrArg (· + 1) event.framePhase⟩

theorem frameTaken_of_ge (order : List Nat) (h : s.pulse = .whole) (hp : 799 ≤ s.framePhase) :
    (frameTaken order s).pulse = .played ∧ (frameTaken order s).framePhase = s.framePhase := by
  have event := audioOnly_frameEvent order s
  rw [frameTaken, transmit_pulse, transmit_framePhase, countPulse_of_ge (event.pulse.trans h) (hp.trans event.framePhase.ge)]
  exact ⟨rfl, event.framePhase⟩

theorem callOf_frameTaken (order : List Nat) (s : State) (h : Nat) :
    (callOf (frameTaken order s) h).map withoutAudio = (callOf s h).map withoutAudio := by
  rw [frameTaken, callOf_transmit, callOf_countPulse]
  exact (audioOnly_frameEvent order s).callOf h

theorem clipOf_frameTaken (order : List Nat) (s : State) (k : Nat) :
    (clipOf (frameTaken order s) k).map withoutUse = (clipOf s k).map withoutUse := by
  rw [frameTaken, clipOf_transmit, clipOf_countPulse]
  obtain ⟨-, -, clips⟩ := audioOnly_frameEvent order s
  exact clips k

/-- What a whole highway frame may write beside the audio side, put back as it is in `s`. -/
def frameUndone (s t : State) : State :=
  { t with
    syncPresent := s.syncPresent, framePhase := s.framePhase, pulse := s.pulse, highway := s.highway, sending := s.sending,
    replies := s.replies }

/-- Beside the audio side a frame writes the sync state, the phase, the pulse, the slots, and what the transmitter takes. -/
theorem outsideAudio_frameTaken (order : List Nat) (s : State) :
    outsideAudio (frameUndone s (frameTaken order s)) = outsideAudio s := by
  obtain ⟨outside, -, -⟩ := audioOnly_frameEvent order s
  have link := transmit_read (fun t => outsideAudio (frameUndone s t)) (fun _ _ _ _ => rfl)
    (countPulse (playFrame order (restoreSync s)))
  have count := countPulse_read (fun t => outsideAudio (frameUndone s t)) (fun _ _ _ => rfl) (playFrame order (restoreSync s))
  have event := congrArg (fun t => { frameUndone s t with sending := sendingBlanked s }) outside
  exact link.trans (count.trans event)

theorem hwdoBits_frameTaken (order : List Nat) (s : State) :
    hwdoBits (frameTaken order s) = some ((frameSlots s).flatMap slotBits) := by
  rw [hwdoBits, frameTaken_highway]

end

/-- Settles O5: the slots and the voices of the pulse are those of the state before it, by `audioOnly_frameEvent`. -/
theorem highwayFramePlaysAndCounts : Obligations.HighwayFramePlaysAndCounts := by
  intro order s hr hs hp
  refine ⟨frameTaken order s, restoreSync s, exec_highwayFrame hr hs hp order, rfl, restoreSync_eq s, restoreSync_notices,
    frameTaken_syncPresent order s, frameTaken_now order s, frameTaken_of_counted order, frameTaken_of_lt order,
    frameTaken_of_ge order, ⟨frameSlots s, frameTaken_highway order s, frameSlots_length s, ?bits, fun v hv => ⟨?free, ?voice⟩⟩,
    ⟨frameSlots s, voicesPlayed order s, frameTaken_highway order s, ?played, mem_voicesPlayed order s,
      fun canonical => nodup_voicesPlayed canonical order, voicesPlayed_of_names_all⟩,
    callOf_frameTaken order s, clipOf_frameTaken order s, outsideAudio_frameTaken order s⟩
  case bits =>
    refine ⟨_, hwdoBits_frameTaken order s, ?_, fun v b i => flatMap_slotBits_getElem?⟩
    rw [length_flatMap_slotBits, frameSlots_length]
  case free =>
    intro hv'
    rw [frameSlots_getElem? s hv, slotByte_of_free hv']
  case voice =>
    intro r k hvoice hclip
    rw [frameSlots_getElem? s hv, slotByte_of_voice hvoice hclip]
  case played => rw [playFrame_eq, voicesPlayed_restoreSync, frameSlots_restoreSync]

end Sys2Proof.Machine
end

-- ==== Sys2Proof/Proofs/TimeBase ====
section
/-! The loss of sync, and what stands while it is LOST: the work of a boundary waits, and no order and no event of the Control Link moves
the time base (R164, R165, R166). -/

namespace Sys2Proof.Machine

/-! ### What the Control Link leaves of the time base -/

/-- What the frame pulses, the boundaries and the supervision of sync write: engine time, the phase, the sync state, the mark of the
pulse, and HWDO (R161, R164, R166). -/
def timeBase (s : State) : Time × Nat × Bool × PulseMark × Highway := (s.now, s.framePhase, s.syncPresent, s.pulse, s.highway)

section
variable {s t : State}

theorem HandedOver.timeBase (h : HandedOver s t) : timeBase t = timeBase s := (congrArg Machine.timeBase h.1 :)

theorem timeBase_transmit (s : State) : timeBase (transmit s) = timeBase s := transmit_read timeBase (fun _ _ _ _ => rfl) s

theorem timeBase_drain (fuel : Nat) (s : State) : timeBase (drain fuel s) = timeBase s := by
  induction fuel generalizing s with
  | zero => exact timeBase_transmit s
  | succ fuel ih =>
    simp only [drain]
    split
    · exact timeBase_transmit s
    · next f rest _ =>
      split
      · rw [ih, (handedOver_handOver f { transmit s with held := rest }).timeBase]
        exact timeBase_transmit s
      · exact timeBase_transmit s

theorem timeBase_settle (s : State) : timeBase (settle s) = timeBase s := timeBase_drain s.held.length s

theorem timeBase_arrive (f : HeldFrame) (s : State) : timeBase (arrive f s) = timeBase s := by
  unfold arrive
  split
  · exact timeBase_settle _
  · rfl

theorem timeBase_takeOrder (c : Instr) (s : State) : timeBase (takeOrder c s) = timeBase s := by
  unfold takeOrder
  split
  · exact timeBase_arrive _ s
  · rfl

theorem timeBase_judgeFrame (address frameClass kind : Byte) (body : List Byte) (crc : BitVec 16) (s : State) :
    timeBase (judgeFrame address frameClass kind body crc s) = timeBase s := by
  unfold judgeFrame
  split_ifs
  · rfl
  · rfl
  · rfl
  · exact timeBase_arrive _ s
  · exact timeBase_arrive _ s

theorem timeBase_receiveCharacter (data : Byte) (stopHigh : Bool) (s : State) :
    timeBase (receiveCharacter data stopHigh s) = timeBase s := by
  unfold receiveCharacter
  split
  · split <;> rfl
  · dsimp only
    split_ifs
    · rfl
    · rfl
    · exact timeBase_judgeFrame ..
    · rfl

theorem timeBase_receiveAll (bs : List Byte) (s : State) : timeBase (receiveAll bs s) = timeBase s := by
  unfold receiveAll
  induction bs generalizing s with
  | nil => rfl
  | cons b bs ih => exact (ih _).trans (timeBase_receiveCharacter b true s)

/-! ### The work of a boundary waits for sync (R165) -/

theorem inSync_of_lost (lost : s.syncPresent = false) : inSync s = false := by rw [inSync, lost, Bool.and_false]

theorem exec_syncLoss_of_lost (lost : s.syncPresent = false) : exec .syncLoss s = .next s := by
  show execSyncLoss s = _
  rw [execSyncLoss, lost, Bool.and_false]
  rfl

theorem exec_offerExpiry_of_lost (lost : s.syncPresent = false) (handle : BitVec 16) : exec (.offerExpiry handle) s = .next s := by
  show execOfferExpiry handle s = _
  simp only [execOfferExpiry, inSync_of_lost lost, Bool.false_and, Bool.false_eq_true, if_false]
  split
  · rfl
  · split <;> rfl

theorem exec_wrapExpiry_of_lost (lost : s.syncPresent = false) (agent : BitVec 16) : exec (.wrapExpiry agent) s = .next s := by
  show execWrapExpiry agent s = _
  simp only [execWrapExpiry, inSync_of_lost lost, Bool.false_and, Bool.false_eq_true, if_false]
  split
  · rfl
  · split <;> rfl

theorem exec_coolDownEnd_of_lost (lost : s.syncPresent = false) (agent : BitVec 16) : exec (.coolDownEnd agent) s = .next s := by
  show execCoolDownEnd agent s = _
  simp only [execCoolDownEnd, inSync_of_lost lost, Bool.false_and, Bool.false_eq_true, if_false]
  split
  · rfl
  · split <;> rfl

theorem exec_surgeWholeSecondEvaluation_of_lost (lost : s.syncPresent = false) (order : List Nat) :
    exec (.surgeWholeSecondEvaluation order) s = .next s := by
  show execSurgeWholeSecondEvaluation order s = _
  simp only [execSurgeWholeSecondEvaluation, inSync_of_lost lost, Bool.false_and, Bool.false_eq_true, if_false]

/-! ### The time base while sync is LOST (R164, R165) -/

/-- The commands that count a pulse or bring the time base back to its reset values. -/
def countsOrResets : Instr → Bool
  | .highwayFrame _ | .timeUnitBoundary | .powerOn _ _ | .resetPinAssert => true
  | _ => false

/-- While sync is LOST a command that neither counts nor resets leaves the time base as it stands, but that HWDO is left undriven when
the reference clock stops. -/
theorem timeBase_of_lost (lost : s.syncPresent = false) {c : Instr} (hc : countsOrResets c = false) (e : exec c s = .next t) :
    timeBase t = timeBase s ∨ timeBase t = timeBase { s with highway := .undriven } := by
  have stands (h : exec c s = .next s) : timeBase t = timeBase s := by cases h.symm.trans e; rfl
  have order (h : exec c s = .next (takeOrder c s)) : timeBase t = timeBase s := by
    cases h.symm.trans e
    exact timeBase_takeOrder c s
  cases c
  case highwayFrame | timeUnitBoundary | powerOn | resetPinAssert => cases hc
  case refclkStop => cases e; exact .inr rfl
  all_goals left
  case refclkReturn => cases e; rfl
  case resetPinRelease a r =>
    change execResetPinRelease a r s = _ at e
    unfold execResetPinRelease at e
    cases e
    split <;> rfl
  case syncLoss => exact stands (exec_syncLoss_of_lost lost)
  case offerExpiry h => exact stands (exec_offerExpiry_of_lost lost h)
  case wrapExpiry a => exact stands (exec_wrapExpiry_of_lost lost a)
  case coolDownEnd a => exact stands (exec_coolDownEnd_of_lost lost a)
  case surgeWholeSecondEvaluation l => exact stands (exec_surgeWholeSecondEvaluation_of_lost lost l)
  case characterReceived data stopHigh =>
    change execCharacterReceived data stopHigh s = _ at e
    unfold execCharacterReceived at e
    cases e
    split
    · exact timeBase_receiveCharacter data stopHigh s
    · rfl
  case frameReceived address frameClass kind body crc =>
    change execFrameReceived address frameClass kind body crc s = _ at e
    unfold execFrameReceived at e
    cases e
    split
    · split
      · exact timeBase_judgeFrame ..
      · exact timeBase_receiveAll ..
    · rfl
  case gapLimit =>
    change execGapLimit s = _ at e
    unfold execGapLimit at e
    cases e
    split
    · split <;> rfl
    · rfl
  case frameSent =>
    change execFrameSent s = _ at e
    unfold execFrameSent at e
    cases e
    split
    · split
      · rfl
      · exact timeBase_settle _
    · rfl
  case unknownKind kind body =>
    change execUnknownKind kind body s = _ at e
    unfold execUnknownKind at e
    cases e
    split
    · exact timeBase_takeOrder _ s
    · rfl
  case broadcastDropped kind body =>
    change execBroadcastDropped kind body s = _ at e
    unfold execBroadcastDropped at e
    cases e
    split
    · rfl
    · exact timeBase_takeOrder _ s
  all_goals exact order rfl

/-! ### The loss of sync (R164, R166) -/

theorem notify_held (kind : Nat) (body : List LinkField) (s : State) : (notify kind body s).held = s.held :=
  notify_read State.held (fun _ _ _ _ _ => rfl) kind body s

theorem notify_replies (kind : Nat) (body : List LinkField) (s : State) : (notify kind body s).replies = s.replies :=
  notify_read State.replies (fun _ _ _ _ _ => rfl) kind body s

theorem notify_sending_isSome (kind : Nat) (body : List LinkField) (s : State) :
    (notify kind body s).sending.isSome = s.sending.isSome := by
  simpa [sendingBlanked] using congrArg Option.isSome (notify_sendingBlanked kind body s)

/-- In a settled state a notice is followed by no more than the transmitter's turn. -/
theorem settle_notify (hs : settled s = true) (kind : Nat) (body : List LinkField) :
    settle (notify kind body s) = transmit (notify kind body s) := by
  refine settle_eq_transmit ?_
  rw [notify_held, notify_replies, notify_sending_isSome]
  exact held_nil_or_full_of_settled hs

/-- A loss between two pulses: the notice carries the phase at which counting stopped. -/
theorem exec_syncLoss (hr : running s = true) (hs : settled s = true) (present : s.syncPresent = true) (whole : s.pulse = .whole) :
    exec .syncLoss s = .next (transmit (notify 0x88 [f1 0, f2 s.framePhase] { s with syncPresent := false, highway := .undriven })) := by
  have noneOwed : oweFrame (oweCount s) = s := by simp only [oweCount, oweFrame, whole, reduceCtorEq, if_false]
  show execSyncLoss s = _
  rw [execSyncLoss, hr, present, noneOwed]
  exact congrArg Host.Outcome.next (settle_notify (s := { s with syncPresent := false, highway := .undriven }) hs _ _)

end

/-- Settles O9: the step part is `timeBase_of_lost`, read field by field. -/
theorem timeStandsWhileSyncIsLost : Obligations.TimeStandsWhileSyncIsLost := by
  refine ⟨fun s => exec_syncLoss, fun s lost => ⟨exec_syncLoss_of_lost lost, exec_offerExpiry_of_lost lost, exec_wrapExpiry_of_lost lost,
    exec_coolDownEnd_of_lost lost, exec_surgeWholeSecondEvaluation_of_lost lost⟩, fun c s t lost e frame boundary power reset => ?_⟩
  have hc : countsOrResets c = false := by
    cases c
    case highwayFrame o => exact absurd rfl (frame o)
    case timeUnitBoundary => exact absurd rfl boundary
    case powerOn a r => exact absurd rfl (power a r)
    case resetPinAssert => exact absurd rfl reset
    all_goals rfl
  rcases timeBase_of_lost lost hc e with h | h
  all_goals
    simp only [timeBase, Prod.mk.injEq] at h
    obtain ⟨now, phase, sync, pulse, highway⟩ := h
    refine ⟨now, phase, sync.trans lost, pulse, fun undriven => ?_⟩
  · exact highway.trans undriven
  · exact highway

end Sys2Proof.Machine
end

-- ==== Sys2Proof/Proofs/TimeUnits ====
section
/-! The count of engine time: deadlines across its wrap, the boundary with what it signals, and the 800 frames of a time unit (R161,
R162, R163). -/

namespace Sys2Proof.Machine

/-! ### Deadlines (R163) -/

/-- Of a deadline at `now + T`, the time `now + j` has passed `j - T`, wherever engine time wraps. -/
theorem reached_timeAfter (now : Time) (j T : Nat) :
    reached (now + BitVec.ofNat 32 j) (timeAfter now T) = !(BitVec.ofNat 32 j - BitVec.ofNat 32 T).msb := by
  have difference : now + BitVec.ofNat 32 j - timeAfter now T = BitVec.ofNat 32 j - BitVec.ofNat 32 T := by
    rw [timeAfter]
    bv_omega
  rw [reached, difference]

/-- Settles O10: the difference modulo 2^32 is below 2^31 from the deadline on, and at least 2^31 before it. -/
theorem deadlineIsReachedAtItsTime : Obligations.DeadlineIsReachedAtItsTime := by
  intro now T j hT
  rw [reached_timeAfter, BitVec.msb_eq_decide, BitVec.toNat_sub, BitVec.toNat_ofNat, BitVec.toNat_ofNat]
  refine ⟨fun before => ?_, fun fromThen untilWrap => ?_⟩
  · rw [Bool.not_eq_false', decide_eq_true_eq]
    omega
  · rw [Bool.not_eq_true', decide_eq_false_iff_not]
    omega

section
variable {s : State}

/-! ### What a boundary signals (R162) -/

theorem offerDue_eq_true (now : Time) (c : Call) :
    offerDue now c = true ↔ ∃ a d, c.status = .offered a (some d) ∧ reached now d = true := by
  unfold offerDue
  split
  · next a d h => simp [h]
  all_goals next h => simp [h]

theorem wrapDue_eq_true (now : Time) (v : Agent) :
    wrapDue now v = true ↔ ∃ w p, v.status = .wrap w p ∧ reached now w.deadline = true := by
  unfold wrapDue wrapOf
  split
  · next w p h => simp [h]
  all_goals next h => simp [h]

theorem coolDownDue_eq_true (now : Time) (v : Agent) :
    coolDownDue now v = true ↔ ∃ n d, v.status = .ready n (some d) ∧ reached now d = true := by
  unfold coolDownDue coolDownOf
  split
  · next n d h => cases d <;> simp [h]
  all_goals next h => simp [h]

/-- The agents of a canonical table that a boundary picks out. -/
theorem mem_agents_filter (hcan : Canonical s) (p : Agent → Bool) (a : Nat) :
    a ∈ (s.agents.filter fun e => p e.2).map (·.1) ↔ ∃ v, agentOf s a = some v ∧ p v = true := by
  simp only [List.mem_map, List.mem_filter, Prod.exists, exists_and_right, exists_eq_right, mem_agents_iff hcan]

/-- The calls of a canonical table that a boundary picks out, by their handles. -/
theorem mem_calls_filter (hcan : Canonical s) (hr : InRange s) (p : Call → Bool) (h : Nat) :
    h ∈ (s.calls.filter fun e => p e.2).map (fun e => handleOf s e.1) ↔ ∃ c, callOf s h = some c ∧ p c = true := by
  simp only [List.mem_map, List.mem_filter]
  constructor
  · rintro ⟨⟨slot, c⟩, ⟨listed, hp⟩, rfl⟩
    exact ⟨c, ((mem_calls_iff hcan hr slot c).1 listed).2, hp⟩
  · rintro ⟨c, hc, hp⟩
    exact ⟨(slotOf h, c), ⟨mem_calls_of_callOf hcan hr hc, hp⟩, handleOf_slotOf hc⟩

theorem mem_signalledOffers (hcan : Canonical s) (hr : InRange s) (h : Nat) : h ∈ (countBoundary s).due.offers ↔
    ∃ c a d, callOf s h = some c ∧ c.status = .offered a (some d) ∧ reached (s.now + 1) d = true := by
  refine (mem_calls_filter hcan hr (offerDue (s.now + 1)) h).trans ?_
  simp only [offerDue_eq_true, exists_and_left]

theorem mem_signalledWraps (hcan : Canonical s) (a : Nat) : a ∈ (countBoundary s).due.wraps ↔
    ∃ v w p, agentOf s a = some v ∧ v.status = .wrap w p ∧ reached (s.now + 1) w.deadline = true := by
  refine (mem_agents_filter hcan (wrapDue (s.now + 1)) a).trans ?_
  simp only [wrapDue_eq_true, exists_and_left]

theorem mem_signalledCoolDowns (hcan : Canonical s) (a : Nat) : a ∈ (countBoundary s).due.coolDowns ↔
    ∃ v n d, agentOf s a = some v ∧ v.status = .ready n (some d) ∧ reached (s.now + 1) d = true := by
  refine (mem_agents_filter hcan (coolDownDue (s.now + 1)) a).trans ?_
  simp only [coolDownDue_eq_true, exists_and_left]

theorem signalledSurge (s : State) :
    (countBoundary s).due.surge = true ↔ (s.now + 1).toNat % 10 = 0 ∨ s.due.surge = true := by
  show (wholeSecond (s.now + 1) || s.due.surge) = true ↔ _
  rw [Bool.or_eq_true, wholeSecond, beq_iff_eq]

/-- Due work that holds the offers, wraps and cool-downs that the engine time after `s` has reached, no others, and at a multiple of 10
the whole-second evaluation, or one still owed. -/
def WorkSignalled (s : State) (d : DueWork) : Prop :=
  (∀ h, h ∈ d.offers ↔ ∃ c a t, callOf s h = some c ∧ c.status = .offered a (some t) ∧ reached (s.now + 1) t = true) ∧
    (∀ a, a ∈ d.wraps ↔ ∃ v w p, agentOf s a = some v ∧ v.status = .wrap w p ∧ reached (s.now + 1) w.deadline = true) ∧
    (∀ a, a ∈ d.coolDowns ↔ ∃ v n t, agentOf s a = some v ∧ v.status = .ready n (some t) ∧ reached (s.now + 1) t = true) ∧
    (d.surge = true ↔ (s.now + 1).toNat % 10 = 0 ∨ s.due.surge = true)

theorem workSignalled_countBoundary (hcan : Canonical s) (hr : InRange s) : WorkSignalled s (countBoundary s).due :=
  ⟨mem_signalledOffers hcan hr, mem_signalledWraps hcan, mem_signalledCoolDowns hcan, signalledSurge s⟩

/-! ### The boundary (R161) -/

/-- The boundary of a pulse whose frame event has been taken. -/
def boundaryAfterFrame (s : State) : State := countBoundary { s with pulse := .whole }

/-- The boundary of a pulse whose frame event is still to come. -/
def boundaryBeforeFrame (s : State) : State := transmit { countBoundary (restoreSync s) with pulse := .counted }

theorem exec_timeUnitBoundary_of_played (hr : running s = true) (played : s.pulse = .played) :
    exec .timeUnitBoundary s = .next (boundaryAfterFrame s) := by
  show execTimeUnitBoundary s = _
  rw [execTimeUnitBoundary, if_pos hr, played]
  rfl

theorem exec_timeUnitBoundary_of_whole (hr : running s = true) (hs : settled s = true) (whole : s.pulse = .whole)
    (phase : 799 ≤ s.framePhase) : exec .timeUnitBoundary s = .next (boundaryBeforeFrame s) := by
  have link : settle { countBoundary (restoreSync s) with pulse := .counted } = boundaryBeforeFrame s := by
    refine settle_eq_transmit ?_
    have restored := audioOnly_restoreSync s
    show (restoreSync s).held = [] ∨ ((restoreSync s).sending.isSome = true ∧ 4 ≤ (restoreSync s).replies.length)
    rw [restored.held, restored.sending_isSome, restored.replies]
    exact held_nil_or_full_of_settled hs
  show execTimeUnitBoundary s = _
  rw [execTimeUnitBoundary, if_pos hr, whole]
  dsimp only
  rw [if_neg (show ¬s.framePhase + 1 < Config.framesPerTu from Nat.not_lt.2 (Nat.succ_le_succ phase)), link]

/-- Before phase 799, and a second time for one pulse, the command does nothing. -/
theorem exec_timeUnitBoundary_of_none (hr : running s = true)
    (nothing : s.pulse = .counted ∨ (s.pulse = .whole ∧ s.framePhase < 799)) : exec .timeUnitBoundary s = .next s := by
  show execTimeUnitBoundary s = _
  rw [execTimeUnitBoundary, if_pos hr]
  rcases nothing with counted | ⟨whole, early⟩
  · rw [counted]
  · rw [whole]
    dsimp only
    rw [if_pos (show s.framePhase + 1 < Config.framesPerTu from Nat.succ_lt_succ early)]

theorem boundaryBeforeFrame_due (s : State) : (boundaryBeforeFrame s).due = (countBoundary s).due := by
  refine (transmit_read State.due (fun _ _ _ _ => rfl) _).trans ?_
  exact restoreSync_read (fun r => (countBoundary r).due) (fun _ _ _ _ _ _ => rfl) s

theorem boundaryBeforeFrame_now (s : State) : (boundaryBeforeFrame s).now = s.now + 1 := by
  rw [boundaryBeforeFrame, transmit_now]
  exact congrArg (· + 1) (audioOnly_restoreSync s).now

theorem boundaryBeforeFrame_syncPresent (s : State) : (boundaryBeforeFrame s).syncPresent = true := by
  rw [boundaryBeforeFrame, transmit_syncPresent]
  exact (audioOnly_restoreSync s).syncPresent

/-- What a boundary may write, put back as it is in `s`. -/
def boundaryUndone (s t : State) : State :=
  { t with
    framePhase := s.framePhase, now := s.now, due := s.due, pulse := s.pulse, syncPresent := s.syncPresent, notices := s.notices,
    noticesLost := s.noticesLost, frameEnds := s.frameEnds, replies := s.replies, sending := s.sending }

theorem boundaryUndone_boundaryBeforeFrame (s : State) : boundaryUndone s (boundaryBeforeFrame s) = s := by
  refine (transmit_read (boundaryUndone s) (fun _ _ _ _ => rfl) _).trans ?_
  exact restoreSync_read (fun r => boundaryUndone s { countBoundary r with pulse := .counted }) (fun _ _ _ _ _ _ => rfl) s

/-- Settles O7: with either order of the pulse's two parts the work signalled is that of `countBoundary`. -/
theorem boundaryRaisesEngineTimeAndSignals : Obligations.BoundaryRaisesEngineTimeAndSignals := by
  refine ⟨fun s hr hs hcan hran pulse => ?_, fun s hr => exec_timeUnitBoundary_of_none hr⟩
  have signalled := workSignalled_countBoundary hcan hran
  rcases pulse with played | ⟨whole, phase⟩
  · have notWhole : s.pulse ≠ .whole := by rw [played]; decide
    obtain ⟨offers, wraps, coolDowns, surge⟩ := signalled
    exact ⟨boundaryAfterFrame s, exec_timeUnitBoundary_of_played hr played, rfl, rfl, fun _ => rfl,
      fun h => absurd h notWhole, fun h => absurd h notWhole, offers, wraps, coolDowns, surge, rfl⟩
  · have notPlayed : s.pulse ≠ .played := by rw [whole]; decide
    rw [← boundaryBeforeFrame_due] at signalled
    obtain ⟨offers, wraps, coolDowns, surge⟩ := signalled
    exact ⟨boundaryBeforeFrame s, exec_timeUnitBoundary_of_whole hr hs whole phase, transmit_framePhase _,
      boundaryBeforeFrame_now s, fun h => absurd h notPlayed,
      fun _ => ⟨transmit_pulse _, boundaryBeforeFrame_syncPresent s⟩, fun _ => rfl, offers, wraps, coolDowns, surge,
      boundaryUndone_boundaryBeforeFrame s⟩

/-! ### The frames of a time unit (R161) -/

theorem run_succ_of_step (M : Host.Core) {s t : M.State} (h : M.step s = .next t) (k : Nat) : M.run (k + 1) s = M.run k t := by
  rw [Host.Core.run, h]

theorem settled_frameTaken (hr : running s = true) (hs : settled s = true) (hp : s.pulse ≠ .played) (order : List Nat) :
    settled (frameTaken order s) = true := by
  have taken : execHighwayFrame order s = .next (frameTaken order s) := exec_highwayFrame hr hs hp order
  rw [execHighwayFrame, if_pos hr] at taken
  injection taken with taken
  exact taken ▸ settled_settle _

theorem running_frameTaken (order : List Nat) (s : State) : running (frameTaken order s) = running s :=
  (congrArg running (outsideAudio_frameTaken order s) :)

theorem frameTaken_pending (order : List Nat) (s : State) : (frameTaken order s).pending = s.pending :=
  (congrArg State.pending (outsideAudio_frameTaken order s) :)

/-- The state with these commands in the block's queue. -/
def withPending (s : State) (l : List Instr) : State := { s with pending := l }

/-- The next command is the frame of a pulse, with nothing owed of the pulse before it. -/
theorem step_highwayFrame (hr : running s = true) (hs : settled s = true) (hp : s.pulse ≠ .played) {order : List Nat}
    {rest : List Instr} (pending : s.pending = .highwayFrame order :: rest) :
    step s = .next (frameTaken order (withPending s rest)) := by
  rw [step, pending]
  exact exec_highwayFrame (s := withPending s rest) hr hs hp order

/-- The frame of a pulse before the boundary's raises the phase by one, and engine time stands. -/
theorem step_frameBeforeBoundary (hr : running s = true) (hs : settled s = true) (whole : s.pulse = .whole)
    (phase : s.framePhase < 799) {order : List Nat} {rest : List Instr} (pending : s.pending = .highwayFrame order :: rest) :
    ∃ u, step s = .next u ∧ running u = true ∧ settled u = true ∧ u.pulse = .whole ∧ u.framePhase = s.framePhase + 1 ∧
      u.now = s.now ∧ u.pending = rest := by
  have notPlayed : s.pulse ≠ .played := by rw [whole]; decide
  obtain ⟨pulse, raised⟩ := frameTaken_of_lt (s := withPending s rest) order whole phase
  exact ⟨_, step_highwayFrame hr hs notPlayed pending, (running_frameTaken order (withPending s rest)).trans hr,
    settled_frameTaken (s := withPending s rest) hr hs notPlayed order, pulse, raised, frameTaken_now order (withPending s rest),
    frameTaken_pending order (withPending s rest)⟩

/-- A run of whole frames that ends before the boundary's pulse. -/
theorem run_frames (orders : List (List Nat)) (rest : List Instr) (k : Nat) (hr : running s = true) (hs : settled s = true)
    (whole : s.pulse = .whole) (phase : s.framePhase + orders.length ≤ 799)
    (pending : s.pending = orders.map .highwayFrame ++ rest) :
    ∃ u : State, Host.Core.run Sys2Proof.core (orders.length + k) s = Host.Core.run Sys2Proof.core k u ∧ running u = true ∧
      settled u = true ∧ u.pulse = .whole ∧ u.framePhase = s.framePhase + orders.length ∧ u.now = s.now ∧ u.pending = rest := by
  induction orders generalizing s with
  | nil => exact ⟨s, by rw [List.length_nil, Nat.zero_add], hr, hs, whole, rfl, rfl, pending⟩
  | cons order orders ih =>
    rw [List.length_cons] at phase
    obtain ⟨v, taken, vrunning, vsettled, vwhole, vphase, vnow, vpending⟩ :=
      step_frameBeforeBoundary hr hs whole (by omega) (pending.trans (List.cons_append ..))
    obtain ⟨u, run, running, settled, pulse, phased, now, left⟩ := ih vrunning vsettled vwhole (by omega) vpending
    refine ⟨u, ?_, running, settled, pulse, ?_, now.trans vnow, left⟩
    · rw [List.length_cons, Nat.succ_add]
      exact (run_succ_of_step Sys2Proof.core taken _).trans run
    · rw [phased, vphase, List.length_cons]
      omega

/-- The state after the boundary's pulse whole: its frame, then its count. -/
def pulseCounted (order : List Nat) (s : State) : State :=
  boundaryAfterFrame (withPending (frameTaken order (withPending s [.timeUnitBoundary])) [])

theorem run_boundaryPulse (order : List Nat) (hr : running s = true) (hs : settled s = true) (whole : s.pulse = .whole)
    (phase : 799 ≤ s.framePhase) (pending : s.pending = [.highwayFrame order, .timeUnitBoundary]) :
    Host.Core.run Sys2Proof.core 2 s = .next (pulseCounted order s) := by
  have notPlayed : s.pulse ≠ .played := by rw [whole]; decide
  have frame := step_highwayFrame hr hs notPlayed pending
  obtain ⟨played, -⟩ := frameTaken_of_ge (s := withPending s [.timeUnitBoundary]) order whole phase
  have boundary : step (frameTaken order (withPending s [.timeUnitBoundary])) = .next (pulseCounted order s) := by
    rw [step, frameTaken_pending]
    exact exec_timeUnitBoundary_of_played ((running_frameTaken ..).trans hr) played
  exact (run_succ_of_step Sys2Proof.core frame 1).trans (run_succ_of_step Sys2Proof.core boundary 0)

end

/-- Settles O8: 799 frames by `run_frames`, and the boundary's pulse. -/
theorem eightHundredPulsesAreOneTimeUnit : Obligations.EightHundredPulsesAreOneTimeUnit := by
  intro orders s length hr hs phase whole
  obtain rfl | ⟨orders, last, rfl⟩ := List.eq_nil_or_concat orders
  · cases length
  have frames : orders.length = 799 := by simpa using length
  obtain ⟨u, run, running, settled, pulse, phased, now, left⟩ :=
    run_frames (s := withPending s ((orders.concat last).map .highwayFrame ++ [.timeUnitBoundary])) orders
      [.highwayFrame last, .timeUnitBoundary] 2 hr hs whole (by show s.framePhase + _ ≤ 799; omega) (by simp [withPending])
  rw [frames] at run
  have full : u.framePhase = 799 := phased.trans (by show s.framePhase + _ = 799; omega)
  refine ⟨pulseCounted last u, run.trans (run_boundaryPulse last running settled pulse full.ge left), rfl, ?_,
    frameTaken_syncPresent .., rfl, rfl⟩
  exact congrArg (· + 1) ((frameTaken_now ..).trans now)

end Sys2Proof.Machine
end

-- ==== Sys2Proof/Proofs/Replies ====
section
/-! The reply of every order, the orders that only SERVICE takes, and the two orders that change the engine state (R167 to R169, R171,
R183 to R185). -/

namespace Sys2Proof.Machine

/-! ### Service states (R167, R168, R169) -/

/-- Settles O23: the check of the engine state comes before the handler. -/
theorem configRefusesCallAndAgentOrders : Obligations.ConfigRefusesCallAndAgentOrders := by
  intro c kind s hk ht config
  have refused (he : exec c s = .next (takeOrder c s)) {g : State → State × Answer}
      (hr : handOverOrder c s = conclude kind (serviceOnly g s)) : exec c s = .next (answered kind s (.refuse .wrongState 0 0)) := by
    rw [exec_answered ht he hr, serviceOnly, config]
    rfl
  cases c <;> simp only [serviceKind, Option.some.injEq, reduceCtorEq] at hk
  all_goals
    subst hk
    exact refused rfl rfl

/-- Settles O24: each of the handlers' two checks decides one case. -/
theorem startAndStopServiceChangeTheState : Obligations.StartAndStopServiceChangeTheState := by
  intro dest b s ht
  have start := exec_ended ht (c := .startService dest b) rfl rfl
  have stop := exec_ended ht (c := .stopService dest) rfl rfl
  refine ⟨fun config => ⟨?_, ?_⟩, fun service => ⟨?_, fun calls agents => ?_, fun used => ?_⟩⟩
  · rw [start, handleStartService, config]
    rfl
  · rw [stop, handleStopService, config]
    rfl
  · rw [start, handleStartService, service]
    rfl
  · rw [stop, handleStopService, service, calls, agents]
    rfl
  · have inUse : s.calls.length + s.agents.length ≠ 0 := by
      simpa only [ne_eq, Nat.add_eq_zero_iff, List.length_eq_zero_iff, not_and_or] using used
    rw [stop, handleStopService, service, if_neg (by decide), if_pos inUse]

/-! ### The status byte (R184) -/

theorem bit_eq_toNat (b : Bool) : bit b = b.toNat := by cases b <;> rfl

/-- The status byte as its five bits. -/
theorem statusByte_eq (s : State) (adjusted : Bool) : statusByte s adjusted =
    s.inService.toNat + 2 * s.syncPresent.toNat + 4 * s.noticesLost.toNat + 8 * (anySurge s).toNat + 16 * adjusted.toNat := by
  simp only [statusByte, bit_eq_toNat]

theorem testBit_fiveBits (a b c d e : Bool) :
    let n := a.toNat + 2 * b.toNat + 4 * c.toNat + 8 * d.toNat + 16 * e.toNat
    n < 2 ^ 5 ∧ n.testBit 0 = a ∧ n.testBit 1 = b ∧ n.testBit 2 = c ∧ n.testBit 3 = d ∧ n.testBit 4 = e := by
  revert a b c d e
  decide

/-- The status byte bit by bit (R184). -/
theorem statusByte_bits (s : State) (adjusted : Bool) :
    statusByte s adjusted < 2 ^ 5 ∧ (statusByte s adjusted).testBit 0 = s.inService ∧
      (statusByte s adjusted).testBit 1 = s.syncPresent ∧ (statusByte s adjusted).testBit 2 = s.noticesLost ∧
      (statusByte s adjusted).testBit 3 = anySurge s ∧ (statusByte s adjusted).testBit 4 = adjusted := by
  rw [statusByte_eq]
  exact testBit_fiveBits ..

theorem anySurge_eq_true {s : State} (h : Canonical s) : anySurge s = true ↔ ∃ q, (queueOf s q).surge = true := by
  obtain ⟨-, -, rising, -⟩ := h
  rw [anySurge, List.any_eq_true]
  constructor
  · rintro ⟨⟨q, r⟩, listed, surge⟩
    have found : queueOf s q = r := by rw [queueOf, (tableFind_eq_some_iff rising q r).2 listed, Option.getD_some]
    exact ⟨q, by rw [found, surge]⟩
  · rintro ⟨q, surge⟩
    cases found : tableFind s.queues q with
    | none =>
      rw [queueOf, found, Option.getD_none] at surge
      cases surge
    | some r =>
      rw [queueOf, found, Option.getD_some] at surge
      exact ⟨(q, r), mem_of_tableFind found, surge⟩

/-! ### The refusal's number (R183) -/

/-- The refusal codes and their numbers, as R183 lists them. -/
def refusalNumbers : List (RefusalCode × Nat) :=
  [(.unknownKind, 1), (.badLength, 2), (.badField, 3), (.noSuch, 4), (.wrongState, 5), (.noRoom, 6), (.inUse, 7), (.limit, 8),
    (.tooLate, 9), (.codeMissing, 10), (.sequence, 11), (.surge, 12), (.closed, 13)]

theorem refusalNumber_of_mem {code : RefusalCode} {number : Nat} (h : (code, number) ∈ refusalNumbers) :
    refusalNumber code = number := by
  have listed : ∀ e ∈ refusalNumbers, refusalNumber e.1 = e.2 := by decide
  exact listed (code, number) h

/-! ### What an owner may answer (R183, R185)

A refusal goes with the state as it stood, and only eight orders may set the adjusted mark. -/

/-- The kinds of the orders that may set the adjusted mark (R185). -/
def adjustedKinds : List Nat := [0x10, 0x14, 0x20, 0x37, 0x39, 0x41, 0x42, 0x45]

/-- What the owner of an order of this kind may give back in state `s`. -/
def Answers (kind : Nat) (s : State) (r : State × Answer) : Prop :=
  (∀ code index detail, r.2 = .refuse code index detail → r.1 = s) ∧ ∀ fields, r.2 = .accept true fields → kind ∈ adjustedKinds

namespace Answers
variable {kind : Nat} {s t : State} {r r' : State × Answer}

theorem refuse {code : RefusalCode} {index detail : Nat} : Answers kind s (s, .refuse code index detail) :=
  ⟨fun _ _ _ _ => rfl, nofun⟩

theorem accept {fields : List LinkField} : Answers kind s (t, .accept false fields) := ⟨nofun, nofun⟩

theorem adjusted {mark : Bool} {fields : List LinkField} (h : kind ∈ adjustedKinds) : Answers kind s (t, .accept mark fields) :=
  ⟨nofun, fun _ _ => h⟩

/-- Whatever the answer, the state is as it stood. -/
theorem same {a : Answer} (h : kind ∈ adjustedKinds) : Answers kind s (s, a) := ⟨fun _ _ _ _ => rfl, fun _ _ => h⟩

/-- A check, and what follows where it passes. -/
theorem ite {p : Prop} [Decidable p] (h : Answers kind s r) (h' : Answers kind s r') : Answers kind s (if p then r else r') := by
  split
  · exact h
  · exact h'

theorem serviceOnly {g : State → State × Answer} (h : Answers kind s (g s)) : Answers kind s (serviceOnly g s) := ite h refuse

theorem withCall {k : Call → State → State × Answer} (hk : ∀ c, Answers kind s (k c s)) {h : BitVec 16} :
    Answers kind s (withCall h k s) := by
  unfold Machine.withCall
  split
  · exact hk _
  · exact refuse

theorem withOffer {k : State → State × Answer} (hk : Answers kind s (k s)) {h a : Nat} {c : Call} :
    Answers kind s (withOffer h a c k s) := by
  simp only [Machine.withOffer]
  split
  · exact ite hk refuse
  all_goals exact refuse

theorem withWrap {k : Agent → WrapRecord → Option Nat → State → State × Answer} (hk : ∀ v w p, Answers kind s (k v w p s)) {a : Nat} :
    Answers kind s (withWrap a k s) := by
  unfold Machine.withWrap
  split
  · exact refuse
  · split
    · exact hk ..
    all_goals exact refuse

theorem withLoading {k : Clip → Nat → Byte → Nat → State → State × Answer} (hk : ∀ c n x m, Answers kind s (k c n x m s)) {j : Nat} :
    Answers kind s (withLoading j k s) := by
  unfold Machine.withLoading
  split
  · exact refuse
  · split
    · exact hk ..
    all_goals exact refuse

end Answers

/-! ### The answer of each order -/

section
variable (s : State)

theorem answers_handleStartService (b : BitVec 8) : Answers 0x01 s (handleStartService b s) := .ite .refuse .accept

theorem answers_handleStopService : Answers 0x02 s (handleStopService s) := .ite .refuse (.ite .refuse .accept)

theorem answers_handleSetQueue (f : QueueFields) : Answers 0x10 s (handleSetQueue f s) := by
  unfold handleSetQueue
  split
  · exact .same (by decide)
  · exact .adjusted (by decide)

theorem answers_handleSetQueueState (q st : BitVec 8) : Answers 0x11 s (handleSetQueueState q st s) :=
  .ite .refuse (.ite .refuse .accept)

theorem answers_handleReadQueue (q : BitVec 8) : Answers 0x12 s (handleReadQueue q s) := .ite .refuse .accept

theorem answers_handleReadQueueStatistics (q clear : BitVec 8) : Answers 0x13 s (handleReadQueueStatistics q clear s) :=
  .ite .refuse (.ite .refuse .accept)

theorem answers_handleReadWaiting (q : BitVec 8) (first : BitVec 16) (n : BitVec 8) :
    Answers 0x14 s (handleReadWaiting q first n s) :=
  .ite .refuse (.ite .refuse (.ite .refuse (.adjusted (by decide))))

theorem answers_handleEnqueue (tag : BitVec 32) (q options priority : BitVec 8) (skills : BitVec 32) (program : BitVec 8) :
    Answers 0x20 s (handleEnqueue tag q options priority skills program s) := by
  refine .ite .refuse (.ite .refuse (.ite .refuse ?_))
  split
  · exact .refuse
  · dsimp only
    split
    · exact .same (by decide)
    · exact .adjusted (by decide)

theorem answers_handleRemove (h : BitVec 16) (cause : BitVec 8) : Answers 0x21 s (handleRemove h cause s) := by
  refine .withCall fun c => .ite .refuse ?_
  split
  · exact .refuse
  all_goals exact .accept

theorem answers_handleAnswer (h a : BitVec 16) : Answers 0x22 s (handleAnswer h a s) :=
  .withCall fun _ => .ite .refuse (.withOffer .accept)

theorem answers_handleRefuseOffer (h a : BitVec 16) (present reason : BitVec 8) :
    Answers 0x23 s (handleRefuseOffer h a present reason s) :=
  .withCall fun _ => .ite .refuse (.ite .refuse (.ite .refuse (.withOffer .accept)))

theorem answers_handleRelease (h : BitVec 16) : Answers 0x24 s (handleRelease h s) := by
  refine .withCall fun c => ?_
  split
  case h_4 =>
    dsimp only
    split
    · exact .accept
    · exact .refuse
  all_goals exact .refuse

theorem answers_handleDivert (h : BitVec 16) : Answers 0x25 s (handleDivert h s) := by
  refine .withCall fun c => ?_
  split
  case h_4 => exact .accept
  all_goals exact .refuse

theorem answers_handleCancelDivert (h : BitVec 16) : Answers 0x26 s (handleCancelDivert h s) := by
  refine .withCall fun c => ?_
  split
  case h_4 => exact .accept
  all_goals exact .refuse

theorem answers_handleReadCall (h : BitVec 16) : Answers 0x27 s (handleReadCall h s) := .withCall fun _ => .accept

theorem answers_handleLogin (a : BitVec 16) (skills : BitVec 32) (auto initial reason : BitVec 8) :
    Answers 0x30 s (handleLogin a skills auto initial reason s) := by
  refine .ite .refuse (.ite .refuse (.ite .refuse (.ite .refuse ?_)))
  split
  · exact .refuse
  · exact .accept

theorem answers_handleLogout (a : BitVec 16) : Answers 0x31 s (handleLogout a s) := by
  refine .ite .refuse ?_
  split
  · exact .refuse
  · split
    · exact .refuse
    all_goals exact .accept

theorem answers_handleSetReady (a : BitVec 16) : Answers 0x32 s (handleSetReady a s) := by
  refine .ite .refuse ?_
  split
  · exact .refuse
  · split
    · exact .accept
    all_goals exact .refuse

theorem answers_handleSetNotReady (a : BitVec 16) (reason : BitVec 8) : Answers 0x33 s (handleSetNotReady a reason s) := by
  refine .ite .refuse (.ite .refuse ?_)
  split
  · exact .refuse
  · exact .accept

theorem answers_handleSetSkills (a : BitVec 16) (skills : BitVec 32) : Answers 0x34 s (handleSetSkills a skills s) := by
  refine .ite .refuse ?_
  split
  · exact .refuse
  · exact .accept

theorem answers_handleWrapDone (a : BitVec 16) (options : BitVec 8) (code : BitVec 16) (reason : BitVec 8) :
    Answers 0x35 s (handleWrapDone a options code reason s) :=
  .ite .refuse (.ite .refuse (.ite .refuse (.ite .refuse (.withWrap fun _ _ _ => .ite .refuse .accept))))

theorem answers_handleSetDisposition (a code : BitVec 16) : Answers 0x36 s (handleSetDisposition a code s) :=
  .ite .refuse (.ite .refuse (.withWrap fun _ _ _ => .accept))

theorem answers_handleExtendWrap (a : BitVec 16) : Answers 0x37 s (handleExtendWrap a s) :=
  .ite .refuse (.withWrap fun _ _ _ => .ite .refuse (.ite .refuse (.ite .refuse (.adjusted (by decide)))))

theorem answers_handleReadAgent (a : BitVec 16) : Answers 0x38 s (handleReadAgent a s) := by
  refine .ite .refuse ?_
  split <;> exact .accept

theorem answers_handleReadAgentStates (first : BitVec 16) (n : BitVec 8) : Answers 0x39 s (handleReadAgentStates first n s) :=
  .ite .refuse (.ite .refuse (.adjusted (by decide)))

theorem answers_handleOpenClipLoad (k : BitVec 8) (page : BitVec 16) (len : BitVec 32) :
    Answers 0x40 s (handleOpenClipLoad k page len s) := by
  refine .ite .refuse (.ite .refuse (.ite .refuse (.ite .refuse ?_)))
  split
  · exact .refuse
  · exact .accept

theorem answers_handleClipData (k : BitVec 8) (offset : BitVec 32) (data : List (BitVec 8)) :
    Answers 0x41 s (handleClipData k offset data s) :=
  .ite .refuse (.withLoading fun _ _ _ _ => .ite .refuse (.adjusted (by decide)))

theorem answers_handleCloseClipLoad (k x : BitVec 8) : Answers 0x42 s (handleCloseClipLoad k x s) :=
  .withLoading fun _ _ _ _ => .adjusted (by decide)

theorem answers_handleAbortClipLoad (k : BitVec 8) : Answers 0x43 s (handleAbortClipLoad k s) := .withLoading fun _ _ _ _ => .accept

theorem answers_handleFreeClip (k : BitVec 8) : Answers 0x44 s (handleFreeClip k s) := by
  unfold handleFreeClip
  dsimp only
  split
  · exact .refuse
  · split
    · exact .refuse
    · exact .ite .refuse .accept
    · exact .accept

theorem answers_handleReadClip (k : BitVec 8) (offset : BitVec 32) (n : BitVec 8) : Answers 0x45 s (handleReadClip k offset n s) := by
  unfold handleReadClip
  dsimp only
  split
  · exact .refuse
  · split
    · exact .refuse
    all_goals exact .ite .refuse (.ite .refuse (.adjusted (by decide)))

theorem answers_handleReadClipEntry (k : BitVec 8) : Answers 0x46 s (handleReadClipEntry k s) := by
  unfold handleReadClipEntry
  dsimp only
  split <;> exact .accept

theorem mem_of_firstFailure {l : List (Bool × Answer)} {a : Answer} (h : firstFailure l = some a) : ∃ e ∈ l, e.2 = a := by
  obtain ⟨e, found, rfl⟩ := Option.map_eq_some_iff.1 h
  exact ⟨e, List.mem_of_find?_eq_some found, rfl⟩

/-- Every check of SET PROGRAM that fails refuses (R135). -/
theorem setProgramChecks_refuse {f : ProgramFields} {e : Bool × Answer} (h : e ∈ setProgramChecks s f) :
    ∃ code index detail, e.2 = .refuse code index detail := by
  simp only [setProgramChecks, List.mem_append, List.mem_cons, List.mem_map, List.mem_flatMap, List.not_mem_nil, or_false] at h
  rcases h with (((rfl | rfl | rfl | rfl | rfl | rfl | rfl) | ⟨j, -, rfl⟩) | rfl) | ⟨j, -, rfl | rfl⟩
  all_goals exact ⟨_, _, _, rfl⟩

theorem answers_handleSetProgram (f : ProgramFields) : Answers 0x50 s (handleSetProgram f s) := by
  unfold handleSetProgram
  split
  · exact .refuse
  · next lengths =>
    split
    · next a failed =>
      rw [setProgramRefusal_eq (by omega) (by omega)] at failed
      obtain ⟨e, check, rfl⟩ := mem_of_firstFailure failed
      obtain ⟨code, index, detail, refusal⟩ := setProgramChecks_refuse s check
      rw [refusal]
      exact .refuse
    · exact .accept

theorem answers_handleDeleteProgram (p : BitVec 8) : Answers 0x51 s (handleDeleteProgram p s) := by
  refine .ite .refuse ?_
  split
  · exact .refuse
  · split
    · exact .refuse
    · exact .accept

theorem answers_handleReadProgram (p : BitVec 8) : Answers 0x52 s (handleReadProgram p s) := .ite .refuse .accept

theorem answers_handleReadVoice (v : BitVec 8) : Answers 0x53 s (handleReadVoice v s) := by
  refine .ite .refuse ?_
  split <;> exact .accept

end

/-! ### An addressed order that is taken at once -/

/-- A well-formed order that a link frame addresses to the engine is taken as its frame. -/
theorem exec_of_addressed {c : Instr} {kind : BitVec 8} {body : List (BitVec 8)} (wf : c.wellFormed = true)
    (frame : orderFrame c = some (.unit, kind, body)) (s : State) : exec c s = .next (takeOrder c s) := by
  cases c
  case unknownKind kind body =>
    obtain ⟨unknown, -⟩ := (Bool.and_eq_true _ _).mp wf
    show execUnknownKind kind body s = _
    rw [execUnknownKind, if_pos unknown]
  case powerOn | resetPinAssert | resetPinRelease | refclkStop | refclkReturn | highwayFrame | timeUnitBoundary | offerExpiry |
      wrapExpiry | coolDownEnd | surgeWholeSecondEvaluation | syncLoss | characterReceived | frameReceived | gapLimit | frameSent |
      broadcastDropped =>
    cases frame
  all_goals rfl

/-- Its owner answers it, with what lies outside the owners' records as it stood. -/
theorem handOverOrder_of_addressed {c : Instr} {kind : BitVec 8} {body : List (BitVec 8)}
    (frame : orderFrame c = some (.unit, kind, body)) (hc : c ≠ .readEngine) (s : State) :
    ∃ r, handOverOrder c s = conclude kind.toNat r ∧ outsideOrders r.1 = outsideOrders s ∧ Answers kind.toNat s r := by
  have service {g : State → State × Answer} {k : Nat} (hg : ∀ t, outsideOrders (g t).1 = outsideOrders t) (h : Answers k s (g s)) :
      outsideOrders (serviceOnly g s).1 = outsideOrders s ∧ Answers k s (serviceOnly g s) :=
    ⟨outsideOrders_serviceOnly hg s, h.serviceOnly⟩
  have same {r : State × Answer} {k : Nat} (hr : r.1 = s) (h : Answers k s r) : outsideOrders r.1 = outsideOrders s ∧ Answers k s r :=
    ⟨congrArg outsideOrders hr, h⟩
  cases c with
  | readEngine => exact absurd rfl hc
  | startService d b => cases frame; exact ⟨_, rfl, outsideOrders_handleStartService b s, answers_handleStartService s b⟩
  | stopService d => cases frame; exact ⟨_, rfl, outsideOrders_handleStopService s, answers_handleStopService s⟩
  | clearService d => cases frame; exact ⟨handleClearService s, rfl, outsideOrders_clearAll s, .accept⟩
  | setQueue f => cases frame; exact ⟨_, rfl, outsideOrders_handleSetQueue f s, answers_handleSetQueue s f⟩
  | setQueueState d q st => cases frame; exact ⟨_, rfl, outsideOrders_handleSetQueueState q st s, answers_handleSetQueueState s q st⟩
  | readQueue q => cases frame; exact ⟨_, rfl, same (handleReadQueue_fst q s) (answers_handleReadQueue s q)⟩
  | readQueueStatistics q b =>
    cases frame; exact ⟨_, rfl, outsideOrders_handleReadQueueStatistics q b s, answers_handleReadQueueStatistics s q b⟩
  | readWaiting q f n => cases frame; exact ⟨_, rfl, same (handleReadWaiting_fst q f n s) (answers_handleReadWaiting s q f n)⟩
  | enqueue t q o p k g =>
    cases frame; exact ⟨_, rfl, service (outsideOrders_handleEnqueue t q o p k g) (answers_handleEnqueue s t q o p k g)⟩
  | remove h b => cases frame; exact ⟨_, rfl, service (outsideOrders_handleRemove h b) (answers_handleRemove s h b)⟩
  | answer h a => cases frame; exact ⟨_, rfl, service (outsideOrders_handleAnswer h a) (answers_handleAnswer s h a)⟩
  | refuseOffer h a p r =>
    cases frame; exact ⟨_, rfl, service (outsideOrders_handleRefuseOffer h a p r) (answers_handleRefuseOffer s h a p r)⟩
  | release h => cases frame; exact ⟨_, rfl, service (outsideOrders_handleRelease h) (answers_handleRelease s h)⟩
  | divert h => cases frame; exact ⟨_, rfl, service (outsideOrders_handleDivert h) (answers_handleDivert s h)⟩
  | cancelDivert h => cases frame; exact ⟨_, rfl, service (outsideOrders_handleCancelDivert h) (answers_handleCancelDivert s h)⟩
  | readCall h => cases frame; exact ⟨_, rfl, same (handleReadCall_fst h s) (answers_handleReadCall s h)⟩
  | login a k u i r => cases frame; exact ⟨_, rfl, service (outsideOrders_handleLogin a k u i r) (answers_handleLogin s a k u i r)⟩
  | logout a => cases frame; exact ⟨_, rfl, service (outsideOrders_handleLogout a) (answers_handleLogout s a)⟩
  | setReady a => cases frame; exact ⟨_, rfl, service (outsideOrders_handleSetReady a) (answers_handleSetReady s a)⟩
  | setNotReady a r => cases frame; exact ⟨_, rfl, service (outsideOrders_handleSetNotReady a r) (answers_handleSetNotReady s a r)⟩
  | setSkills a k => cases frame; exact ⟨_, rfl, service (outsideOrders_handleSetSkills a k) (answers_handleSetSkills s a k)⟩
  | wrapDone a o c r => cases frame; exact ⟨_, rfl, service (outsideOrders_handleWrapDone a o c r) (answers_handleWrapDone s a o c r)⟩
  | setDisposition a c =>
    cases frame; exact ⟨_, rfl, service (outsideOrders_handleSetDisposition a c) (answers_handleSetDisposition s a c)⟩
  | extendWrap a => cases frame; exact ⟨_, rfl, service (outsideOrders_handleExtendWrap a) (answers_handleExtendWrap s a)⟩
  | readAgent a => cases frame; exact ⟨_, rfl, same (handleReadAgent_fst a s) (answers_handleReadAgent s a)⟩
  | readAgentStates a n => cases frame; exact ⟨_, rfl, same (handleReadAgentStates_fst a n s) (answers_handleReadAgentStates s a n)⟩
  | openClipLoad k p n => cases frame; exact ⟨_, rfl, outsideOrders_handleOpenClipLoad k p n s, answers_handleOpenClipLoad s k p n⟩
  | clipData k o d => cases frame; exact ⟨_, rfl, outsideOrders_handleClipData k o d s, answers_handleClipData s k o d⟩
  | closeClipLoad k x => cases frame; exact ⟨_, rfl, outsideOrders_handleCloseClipLoad k x s, answers_handleCloseClipLoad s k x⟩
  | abortClipLoad k => cases frame; exact ⟨_, rfl, outsideOrders_handleAbortClipLoad k s, answers_handleAbortClipLoad s k⟩
  | freeClip k => cases frame; exact ⟨_, rfl, outsideOrders_handleFreeClip k s, answers_handleFreeClip s k⟩
  | readClip k o n => cases frame; exact ⟨_, rfl, same (handleReadClip_fst k o n s) (answers_handleReadClip s k o n)⟩
  | readClipEntry k => cases frame; exact ⟨_, rfl, same (handleReadClipEntry_fst k s) (answers_handleReadClipEntry s k)⟩
  | setProgram f => cases frame; exact ⟨_, rfl, outsideOrders_handleSetProgram f s, answers_handleSetProgram s f⟩
  | deleteProgram p => cases frame; exact ⟨_, rfl, outsideOrders_handleDeleteProgram p s, answers_handleDeleteProgram s p⟩
  | readProgram p => cases frame; exact ⟨_, rfl, same (handleReadProgram_fst p s) (answers_handleReadProgram s p)⟩
  | readVoice v => cases frame; exact ⟨_, rfl, same (handleReadVoice_fst v s) (answers_handleReadVoice s v)⟩
  | unknownKind k b => cases frame; exact ⟨(s, .refuse .unknownKind 0 kind.toNat), rfl, rfl, .refuse⟩
  | _ => cases frame

/-- Settles O22: the owners' answers by `handOverOrder_of_addressed`, READ ENGINE by its own lemma. -/
theorem oneReplyEachAndARefusalChangesNothing : Obligations.OneReplyEachAndARefusalChangesNothing := by
  refine ⟨fun _ _ _ => rfl, fun kind u => ⟨fun _ _ => rfl, fun code number index detail h => ?refusal⟩, fun u adjusted => ?status,
    fun c kind body s wf frame ht => ?order⟩
  case refusal => rw [replyFrame, refusalNumber_of_mem h]
  case status =>
    obtain ⟨below, service, sync, lost, surge, mark⟩ := statusByte_bits u adjusted
    exact ⟨below, service, sync, lost, fun canonical => by rw [surge, anySurge_eq_true canonical], mark⟩
  case order =>
    obtain ⟨-, held, -⟩ := (takes_iff s).1 ht
    by_cases hc : c = .readEngine
    · subst hc
      cases frame
      exact ⟨s, (handleReadEngine s).2, exec_readEngine ht, rfl, rfl, held, nofun, nofun⟩
    · obtain ⟨⟨u, a⟩, handed, outside, refused, marked⟩ := handOverOrder_of_addressed frame hc s
      have sending : sendingBlanked u = sendingBlanked s := (congrArg State.sending outside :)
      refine ⟨u, a, ?_, (congrArg State.replies outside :), ?_, (congrArg State.held outside :).trans held, refused, marked⟩
      · rw [if_neg hc, exec_answered ht (exec_of_addressed wf frame s) handed]
      · simpa [sendingBlanked] using congrArg Option.isSome sending

end Sys2Proof.Machine
end

-- ==== Sys2Proof/Proofs/NoticePlaces ====
section
/-! The notice queue holds no more than its 256 places, whatever an order, a frame or the work of a boundary raises (R187). -/

namespace Sys2Proof.Machine

/-- The notices that wait have their places (R187). -/
def NoticesFit (s : State) : Prop := s.notices.length ≤ 256

section
variable {s t : State}

theorem NoticesFit.of_eq (k : NoticesFit s) (h : t.notices = s.notices) : NoticesFit t := by rwa [NoticesFit, h]

theorem NoticesFit.notify (k : NoticesFit s) (kind : Nat) (body : List LinkField) : NoticesFit (notify kind body s) :=
  notify_length_bound k kind body

/-! ### The surge monitor and matching -/

theorem NoticesFit.evalSurge (k : NoticesFit s) (q : Nat) : NoticesFit (evalSurge q s) := by
  unfold Machine.evalSurge
  split
  · split
    · exact NoticesFit.notify (s := setQueueRec s q _) k _ _
    · exact k
  · split
    · unfold enterSurge
      dsimp only
      split
      · exact NoticesFit.notify (s := trimWraps (setQueueRec s q _) q) k _ _
      · exact NoticesFit.notify (s := setQueueRec s q _) k _ _
    · exact k

theorem NoticesFit.makeOffer (k : NoticesFit s) (h a : Nat) (rotate : Bool) : NoticesFit (makeOffer h a rotate s) := by
  unfold Machine.makeOffer
  split
  · dsimp only [offerNotice]
    refine NoticesFit.notify (NoticesFit.evalSurge (k.of_eq ?_) _) _ _
    split <;> simp only [setQueueRec_notices, setAgentRec_notices, leaveReady_notices, setCallRec_notices, leaveList_notices]
  · exact k

theorem NoticesFit.matchCall (k : NoticesFit s) (h : Nat) : NoticesFit (matchCall h s) := by
  rcases matchCall_cases h s with e | ⟨c, a, -, -, -, -, e⟩ <;> rw [e]
  · exact k
  · exact k.makeOffer ..

theorem NoticesFit.matchAgent (k : NoticesFit s) (a : Nat) : NoticesFit (matchAgent a s) := by
  rcases matchAgent_cases a s with e | ⟨v, slot, c, -, -, e⟩ <;> rw [e]
  · exact k
  · exact k.makeOffer ..

theorem NoticesFit.offerAgent (k : NoticesFit s) (a : Nat) : NoticesFit (offerAgent a s) := by
  unfold Machine.offerAgent
  split
  · exact k.matchAgent a
  · exact k

theorem NoticesFit.foldl {β : Type} {g : State → β → State} (hg : ∀ t b, NoticesFit t → NoticesFit (g t b)) (l : List β)
    (k : NoticesFit s) : NoticesFit (l.foldl g s) := by
  induction l generalizing s with
  | nil => exact k
  | cons b l ih => exact ih (hg s b k)

theorem NoticesFit.reopeningPass (k : NoticesFit s) (q : Nat) : NoticesFit (reopeningPass q s) :=
  k.foldl (fun _ h kt => kt.matchCall h) _

theorem NoticesFit.returnCall (k : NoticesFit s) (h a : Nat) (c : Call) : NoticesFit (returnCall h a c s) :=
  NoticesFit.evalSurge (s := joinList (setCallRec s h _) h _) k _

theorem NoticesFit.enterOutcome (k : NoticesFit s) (a : Nat) (v : Agent) (o : WrapOutcome) : NoticesFit (enterOutcome s a v o) := by
  cases o <;> exact k

theorem NoticesFit.endWrap (k : NoticesFit s) (a : Nat) (v : Agent) (w : WrapRecord) (o : WrapOutcome) (expired : Bool) :
    NoticesFit (endWrap a v w o expired s) := by
  have entered := NoticesFit.enterOutcome (s := takeSample s w.queue (wrapSample s w)) k a v o
  have noticed : NoticesFit (if expired then wrapExpiredNotice a w o
      (Machine.enterOutcome (takeSample s w.queue (wrapSample s w)) a v o)
      else Machine.enterOutcome (takeSample s w.queue (wrapSample s w)) a v o) := by
    split
    · exact entered.notify ..
    · exact entered
  unfold Machine.endWrap
  dsimp only
  split
  · exact noticed.matchAgent a
  · exact noticed
  · exact noticed

/-! ### The audio side -/

theorem attach_notices (h : Nat) (s : State) : (attach h s).notices = s.notices := by
  unfold attach
  split
  · rfl
  · split
    · rfl
    · dsimp only
      split
      · exact startVoice_notices ..
      · split
        · split <;> rfl
        · rfl
      · exact startVoice_notices ..
      · rfl

theorem NoticesFit.handVoice (k : NoticesFit s) (v : Nat) : NoticesFit (handVoice v s) := by
  unfold Machine.handVoice
  split
  · exact k
  · dsimp only
    refine NoticesFit.notify (NoticesFit.of_eq k ?_) _ _
    exact startVoice_notices ..

theorem NoticesFit.freeVoice (k : NoticesFit s) (v : Nat) : NoticesFit (freeVoice v s) := by
  unfold Machine.freeVoice
  split
  · exact k
  · exact NoticesFit.handVoice (NoticesFit.of_eq (s := dropVoice s v) k (changeUse_notices ..)) v

theorem NoticesFit.detach (k : NoticesFit s) (h : Nat) : NoticesFit (detach h s) := by
  unfold Machine.detach
  split
  · exact k
  split
  · exact k
  dsimp only
  split
  · exact k
  split
  · exact NoticesFit.freeVoice (s := setCallRec s h _) k _
  · split
    · exact NoticesFit.freeVoice (s := setCallRec s h _) k _
    · exact k

theorem clearAwaiting_notices (h : Nat) (s : State) : (clearAwaiting h s).notices = s.notices := by
  unfold clearAwaiting
  split <;> rfl

theorem NoticesFit.divertDone (k : NoticesFit s) (h : Nat) (played : Bool) : NoticesFit (divertDone h played s) := by
  unfold Machine.divertDone
  split
  · exact k
  split
  · dsimp only
    split
    · exact (k.notify ..).detach h
    · exact NoticesFit.detach (k.notify ..) h
  · exact k

theorem renewDue_notices (h : Nat) (s : State) : (renewDue h s).notices = s.notices := by
  unfold renewDue
  split <;> rfl

theorem privateLoopEnd_notices (v : Nat) (r : Voice) (p : Program) (h : Nat) (s : State) :
    (privateLoopEnd v r p h s).notices = s.notices := by
  unfold privateLoopEnd
  split
  · exact nextClip_notices ..
  split
  · split
    · exact nextClip_notices ..
    · exact (nextClip_notices ..).trans (renewDue_notices h s)
  · exact nextClip_notices ..

theorem NoticesFit.clipEnd (k : NoticesFit s) (v : Nat) (r : Voice) : NoticesFit (clipEnd v r s) := by
  unfold Machine.clipEnd
  split
  · exact k
  split
  · exact k.of_eq (nextClip_notices ..)
  · split
    · exact k.of_eq (privateLoopEnd_notices ..)
    · exact k.of_eq (nextClip_notices ..)
  · refine NoticesFit.of_eq ?_ (nextClip_notices ..)
    split
    · exact k.of_eq (renewDue_notices ..)
    · exact k
  · split
    · exact k.divertDone _ true
    · exact k

theorem NoticesFit.playVoice (k : NoticesFit s) (v : Nat) : NoticesFit (playVoice s v) := by
  unfold Machine.playVoice
  split
  · exact k
  split
  · exact k
  · exact k.clipEnd ..

theorem NoticesFit.playFrame (k : NoticesFit s) (order : List Nat) : NoticesFit (playFrame order s) :=
  NoticesFit.foldl (s := { s with highway := _ }) (fun _ v kt => kt.playVoice v) _ k

/-! ### The orders of calls -/

theorem NoticesFit.serviceOnly (k : NoticesFit s) {g : State → State × Answer} (hg : NoticesFit (g s).1) :
    NoticesFit (serviceOnly g s).1 := by
  unfold Machine.serviceOnly
  split
  · exact hg
  · exact k

theorem admitCall_notices (slot : Nat) (c : Call) (s : State) : (admitCall slot c s).notices = s.notices := by
  unfold admitCall
  dsimp only
  split <;> simp only [count_notices, setQueueRec_notices]

theorem NoticesFit.handleEnqueue (k : NoticesFit s) (tag : BitVec 32) (q options priority : BitVec 8) (skills : BitVec 32)
    (program : BitVec 8) : NoticesFit (handleEnqueue tag q options priority skills program s).1 := by
  unfold Machine.handleEnqueue
  dsimp only
  split
  · exact k
  split
  · exact k
  split
  · exact k
  split
  · exact k
  split
  · exact k
  · exact NoticesFit.matchCall (NoticesFit.of_eq ((k.of_eq (admitCall_notices ..)).evalSurge _) (attach_notices ..)) _

theorem NoticesFit.leavePlace (k : NoticesFit s) (h : Nat) (c : Call) : NoticesFit (leavePlace h c s) := by
  unfold Machine.leavePlace
  split
  · refine NoticesFit.notify (k.of_eq ?_) _ _
    split <;> rfl
  all_goals exact k

theorem NoticesFit.removeCall (k : NoticesFit s) (h : Nat) (cause : BitVec 8) (c : Call) : NoticesFit (removeCall h cause c s) := by
  have freed := NoticesFit.evalSurge (s := freeCall (count (Machine.detach h (Machine.leavePlace h c s)) c.queue (countRemoved cause)) h)
    ((k.leavePlace h c).detach h) c.queue
  unfold Machine.removeCall
  dsimp only
  split
  · exact freed.matchAgent _
  all_goals exact freed

theorem NoticesFit.handleRemove (k : NoticesFit s) (handle : BitVec 16) (cause : BitVec 8) :
    NoticesFit (handleRemove handle cause s).1 := by
  refine withCall_fst k fun c _ => ?_
  split
  · exact k
  · split
    · exact k
    all_goals exact k.removeCall ..

theorem NoticesFit.connectCall (k : NoticesFit s) (h a : Nat) (c : Call) : NoticesFit (connectCall h a c s) := by
  refine NoticesFit.detach (NoticesFit.of_eq k ((clearAwaiting_notices ..).trans ?_)) h
  rw [count_notices]
  split <;> rfl

theorem NoticesFit.handleAnswer (k : NoticesFit s) (handle agent : BitVec 16) : NoticesFit (handleAnswer handle agent s).1 := by
  refine withCall_fst k fun c _ => ?_
  split
  · exact k
  · exact withOffer_fst k fun _ _ => k.connectCall ..

theorem refusingAgent_notices (a q : Nat) (reason : Option Nat) (s : State) : (refusingAgent a q reason s).notices = s.notices := by
  unfold refusingAgent
  split
  · rfl
  · split <;> rfl

theorem NoticesFit.refuseCall (k : NoticesFit s) (h a : Nat) (reason : Option Nat) (c : Call) :
    NoticesFit (refuseCall h a reason c s) := by
  have returned := k.returnCall h a c
  unfold Machine.refuseCall
  exact NoticesFit.offerAgent (NoticesFit.matchCall (returned.of_eq ((refusingAgent_notices ..).trans (count_notices ..))) h) a

theorem NoticesFit.handleRefuseOffer (k : NoticesFit s) (handle agent : BitVec 16) (present reason : BitVec 8) :
    NoticesFit (handleRefuseOffer handle agent present reason s).1 := by
  refine withCall_fst k fun c _ => ?_
  split
  · exact k
  split
  · exact k
  split
  · exact k
  · exact withOffer_fst k fun _ _ => k.refuseCall ..

theorem NoticesFit.releaseCall (k : NoticesFit s) (h a : Nat) (v : Agent) (c : Call) (talk : Time) :
    NoticesFit (releaseCall h a v c talk s) := by
  unfold Machine.releaseCall expireWrap
  dsimp only
  split
  · refine NoticesFit.endWrap (k.of_eq ?_) ..
    simp only [setAgentRec_notices, freeCall_notices, count_notices]
  · refine k.of_eq ?_
    simp only [setAgentRec_notices, freeCall_notices, count_notices]

theorem NoticesFit.handleRelease (k : NoticesFit s) (handle : BitVec 16) : NoticesFit (handleRelease handle s).1 := by
  refine withCall_fst k fun c _ => ?_
  split
  case h_4 =>
    dsimp only
    split
    · exact k.releaseCall ..
    · exact k
  all_goals exact k

theorem NoticesFit.divertFromShared (k : NoticesFit s) (h p clip : Nat) : NoticesFit (divertFromShared h p clip s) := by
  have detached := k.detach h
  unfold Machine.divertFromShared
  dsimp only
  split
  · exact detached.of_eq (startVoice_notices ..)
  · exact detached.divertDone h false

theorem NoticesFit.divertExit (k : NoticesFit s) (h : Nat) (c : Call) : NoticesFit (divertExit h c s) := by
  unfold Machine.divertExit
  split
  · split
    · exact k.of_eq (nextClip_notices ..)
    · exact k.divertFromShared ..
  · exact k.divertDone h false

theorem NoticesFit.handleDivert (k : NoticesFit s) (handle : BitVec 16) : NoticesFit (handleDivert handle s).1 := by
  refine withCall_fst k fun c _ => ?_
  split
  case h_4 => exact NoticesFit.divertExit (s := setCallRec s handle.toNat _) k _ _
  all_goals exact k

theorem cancelVoice_notices (h : Nat) (c : Call) (s : State) : (cancelVoice h c s).notices = s.notices := by
  unfold cancelVoice
  split
  · split
    · exact nextClip_notices ..
    · rfl
  · exact attach_notices h s

theorem NoticesFit.handleCancelDivert (k : NoticesFit s) (handle : BitVec 16) : NoticesFit (handleCancelDivert handle s).1 := by
  refine withCall_fst k fun c _ => ?_
  split
  case h_4 => exact NoticesFit.matchCall (NoticesFit.of_eq k ((cancelVoice_notices ..).trans (setCallRec_notices ..))) _
  all_goals exact k

/-! ### The orders of agents -/

theorem NoticesFit.handleLogin (k : NoticesFit s) (a : BitVec 16) (skills : BitVec 32) (auto initial reason : BitVec 8) :
    NoticesFit (handleLogin a skills auto initial reason s).1 := by
  unfold Machine.handleLogin
  dsimp only
  split
  · exact k
  split
  · exact k
  split
  · exact k
  split
  · exact k
  split
  · exact k
  split
  · exact k
  · exact NoticesFit.matchAgent (s := enterReady s _ _ _) k _

theorem NoticesFit.withdrawAgent (k : NoticesFit s) (a h : Nat) (v : Agent) (reason : Option Nat) :
    NoticesFit (withdrawAgent a h v reason s) := by
  unfold Machine.withdrawAgent
  dsimp only
  split
  · split <;> exact k
  · next c _ =>
    refine NoticesFit.matchCall (NoticesFit.notify ((k.returnCall h a c).of_eq ?_) _ _) h
    split <;> simp only [dropAgent_notices, setAgentRec_notices]

theorem NoticesFit.handleLogout (k : NoticesFit s) (agent : BitVec 16) : NoticesFit (handleLogout agent s).1 := by
  have left (v : Agent) : NoticesFit (logoutAgent agent.toNat v s) := by
    unfold logoutAgent
    split
    · exact k
    · exact k
    · exact k.withdrawAgent ..
    · exact k.endWrap ..
    · exact k
  unfold Machine.handleLogout
  dsimp only
  split
  · exact k
  split
  · exact k
  split
  · exact k
  all_goals exact left _

theorem NoticesFit.handleSetReady (k : NoticesFit s) (agent : BitVec 16) : NoticesFit (handleSetReady agent s).1 := by
  unfold Machine.handleSetReady
  dsimp only
  split
  · exact k
  split
  · exact k
  split
  · exact NoticesFit.matchAgent (s := enterReady s _ _ _) k _
  all_goals exact k

theorem NoticesFit.handleSetNotReady (k : NoticesFit s) (agent : BitVec 16) (reason : BitVec 8) :
    NoticesFit (handleSetNotReady agent reason s).1 := by
  unfold Machine.handleSetNotReady
  dsimp only
  split_ifs
  · exact k
  · exact k
  split
  · exact k
  · unfold notReadyAgent
    split
    case h_3 => exact k.withdrawAgent ..
    all_goals exact k

theorem NoticesFit.handleSetSkills (k : NoticesFit s) (agent : BitVec 16) (skills : BitVec 32) :
    NoticesFit (handleSetSkills agent skills s).1 := by
  unfold Machine.handleSetSkills
  dsimp only
  split
  · exact k
  split
  · exact k
  · exact NoticesFit.offerAgent (s := setAgentRec s _ _) k _

theorem NoticesFit.handleWrapDone (k : NoticesFit s) (agent : BitVec 16) (options : BitVec 8) (code : BitVec 16) (reason : BitVec 8) :
    NoticesFit (handleWrapDone agent options code reason s).1 := by
  unfold Machine.handleWrapDone
  dsimp only
  split_ifs
  · exact k
  · exact k
  · exact k
  · exact k
  refine withWrap_fst k fun v w p _ _ => ?_
  split
  · exact k
  · exact k.endWrap ..

theorem NoticesFit.handleSetDisposition (k : NoticesFit s) (agent code : BitVec 16) :
    NoticesFit (handleSetDisposition agent code s).1 := by
  unfold Machine.handleSetDisposition
  dsimp only
  split_ifs
  · exact k
  · exact k
  · exact withWrap_fst k fun v w p _ _ => k

theorem NoticesFit.handleExtendWrap (k : NoticesFit s) (agent : BitVec 16) : NoticesFit (handleExtendWrap agent s).1 := by
  unfold Machine.handleExtendWrap
  dsimp only
  split
  · exact k
  refine withWrap_fst k fun v w p _ _ => ?_
  split_ifs <;> exact k

/-! ### The orders of the engine, the queues, the clips and the programs -/

theorem NoticesFit.handleStartService (k : NoticesFit s) (silence : BitVec 8) : NoticesFit (handleStartService silence s).1 := by
  unfold Machine.handleStartService
  split <;> exact k

theorem NoticesFit.handleStopService (k : NoticesFit s) : NoticesFit (handleStopService s).1 := by
  unfold Machine.handleStopService
  split_ifs <;> exact k

theorem noticesFit_handleClearService (s : State) : NoticesFit (handleClearService s).1 := by
  show ([] : List OutFrame).length ≤ 256
  decide

theorem NoticesFit.handleSetQueue (k : NoticesFit s) (f : QueueFields) : NoticesFit (handleSetQueue f s).1 := by
  unfold Machine.handleSetQueue
  split <;> exact k

theorem NoticesFit.handleSetQueueState (k : NoticesFit s) (queue state : BitVec 8) : NoticesFit (handleSetQueueState queue state s).1 := by
  unfold Machine.handleSetQueueState
  dsimp only
  split_ifs
  · exact k
  · exact k
  · exact NoticesFit.reopeningPass (s := setQueueRec s _ _) k _
  · exact k

theorem NoticesFit.handleReadQueueStatistics (k : NoticesFit s) (queue clear : BitVec 8) :
    NoticesFit (handleReadQueueStatistics queue clear s).1 := by
  unfold Machine.handleReadQueueStatistics
  dsimp only
  split_ifs <;> exact k

theorem NoticesFit.handleOpenClipLoad (k : NoticesFit s) (clip : BitVec 8) (page : BitVec 16) (len : BitVec 32) :
    NoticesFit (handleOpenClipLoad clip page len s).1 := by
  unfold Machine.handleOpenClipLoad
  dsimp only
  split_ifs
  · exact k
  · exact k
  · exact k
  · exact k
  · split <;> exact k

theorem NoticesFit.handleClipData (k : NoticesFit s) (clip : BitVec 8) (offset : BitVec 32) (data : List (BitVec 8)) :
    NoticesFit (handleClipData clip offset data s).1 := by
  unfold Machine.handleClipData
  dsimp only
  split
  · exact k
  refine withLoading_fst k fun c cursor x excess => ?_
  split <;> exact k

theorem NoticesFit.handleFreeClip (k : NoticesFit s) (clip : BitVec 8) : NoticesFit (handleFreeClip clip s).1 := by
  unfold Machine.handleFreeClip
  dsimp only
  split
  · exact k
  split
  · exact k
  · split <;> exact k
  · exact k

theorem moveReferences_notices (s : State) (old new : List Nat) : (moveReferences s old new).notices = s.notices := by
  have fold {g : State → Nat → State} (hg : ∀ t j, (g t j).notices = t.notices) (l : List Nat) (t : State) :
      (l.foldl g t).notices = t.notices := by
    induction l generalizing t with
    | nil => rfl
    | cons j l ih => rw [List.foldl_cons, ih, hg]
  unfold moveReferences
  dsimp only
  exact (fold (g := takeUse) (fun t j => changeUse_notices t j _) ..).trans (fold (g := giveUse) (fun t j => changeUse_notices t j _) ..)

theorem NoticesFit.handleSetProgram (k : NoticesFit s) (f : ProgramFields) : NoticesFit (handleSetProgram f s).1 := by
  unfold Machine.handleSetProgram
  split
  · exact k
  split
  · exact k
  · exact k.of_eq (moveReferences_notices ..)

theorem NoticesFit.handleDeleteProgram (k : NoticesFit s) (p : BitVec 8) : NoticesFit (handleDeleteProgram p s).1 := by
  unfold Machine.handleDeleteProgram
  dsimp only
  split
  · exact k
  split
  · exact k
  split
  · exact k
  · exact k.of_eq (moveReferences_notices ..)

/-! ### The hand-over of a frame -/

/-- A reply leaves the notices alone. -/
theorem NoticesFit.concludeTo {r : State × Answer} (k : NoticesFit r.1) (dest : Dest) (kind : Nat) :
    NoticesFit (concludeTo dest kind r) := by
  cases dest <;> exact k

theorem NoticesFit.handOverOrder (k : NoticesFit s) (c : Instr) : NoticesFit (handOverOrder c s) := by
  have conclude {kind : Nat} {r : State × Answer} (h : NoticesFit r.1) : NoticesFit (conclude kind r) := h
  have same {kind : Nat} {r : State × Answer} (h : r.1 = s) : NoticesFit (Machine.conclude kind r) :=
    conclude (k.of_eq (congrArg State.notices h))
  cases c with
  | startService d b => exact (k.handleStartService b).concludeTo ..
  | stopService d => exact k.handleStopService.concludeTo ..
  | clearService d => exact (noticesFit_handleClearService s).concludeTo ..
  | readEngine => exact k
  | setQueue f => exact conclude (k.handleSetQueue f)
  | setQueueState d q st => exact (k.handleSetQueueState q st).concludeTo ..
  | readQueue q => exact same (handleReadQueue_fst q s)
  | readQueueStatistics q b => exact conclude (k.handleReadQueueStatistics q b)
  | readWaiting q f n => exact same (handleReadWaiting_fst q f n s)
  | enqueue t q o p x g => exact conclude (k.serviceOnly (k.handleEnqueue t q o p x g))
  | remove h b => exact conclude (k.serviceOnly (k.handleRemove h b))
  | answer h a => exact conclude (k.serviceOnly (k.handleAnswer h a))
  | refuseOffer h a p r => exact conclude (k.serviceOnly (k.handleRefuseOffer h a p r))
  | release h => exact conclude (k.serviceOnly (k.handleRelease h))
  | divert h => exact conclude (k.serviceOnly (k.handleDivert h))
  | cancelDivert h => exact conclude (k.serviceOnly (k.handleCancelDivert h))
  | readCall h => exact same (handleReadCall_fst h s)
  | login a x u i r => exact conclude (k.serviceOnly (k.handleLogin a x u i r))
  | logout a => exact conclude (k.serviceOnly (k.handleLogout a))
  | setReady a => exact conclude (k.serviceOnly (k.handleSetReady a))
  | setNotReady a r => exact conclude (k.serviceOnly (k.handleSetNotReady a r))
  | setSkills a x => exact conclude (k.serviceOnly (k.handleSetSkills a x))
  | wrapDone a o c r => exact conclude (k.serviceOnly (k.handleWrapDone a o c r))
  | setDisposition a c => exact conclude (k.serviceOnly (k.handleSetDisposition a c))
  | extendWrap a => exact conclude (k.serviceOnly (k.handleExtendWrap a))
  | readAgent a => exact same (handleReadAgent_fst a s)
  | readAgentStates a n => exact same (handleReadAgentStates_fst a n s)
  | openClipLoad j p n => exact conclude (k.handleOpenClipLoad j p n)
  | clipData j o d => exact conclude (k.handleClipData j o d)
  | closeClipLoad j x => exact conclude (withLoading_fst k fun _ _ _ _ => k)
  | abortClipLoad j => exact conclude (withLoading_fst k fun _ _ _ _ => k)
  | freeClip j => exact conclude (k.handleFreeClip j)
  | readClip j o n => exact same (handleReadClip_fst j o n s)
  | readClipEntry j => exact same (handleReadClipEntry_fst j s)
  | setProgram f => exact conclude (k.handleSetProgram f)
  | deleteProgram p => exact conclude (k.handleDeleteProgram p)
  | readProgram p => exact same (handleReadProgram_fst p s)
  | readVoice v => exact same (handleReadVoice_fst v s)
  | _ => exact k

theorem NoticesFit.handOver (k : NoticesFit s) (f : HeldFrame) : NoticesFit (handOver f s) := by
  cases f with
  | order c => exact k.handOverOrder c
  | badLength kind required received => exact k

end

end Sys2Proof.Machine
end

-- ==== Sys2Proof/Proofs/LinkMoves ====
section
/-! What a command can do to the Control Link and to the block's queue, and the link's bounds (R174, R180, R183, R186, R187, R188). -/

namespace Sys2Proof.Machine

/-! ### The work of a boundary and the frames raise notices that fit (R68, R146, R166) -/

section
variable {s t u : State}

theorem NoticesFit.expireOffer (k : NoticesFit s) (h a : Nat) (c : Call) : NoticesFit (expireOffer h a c s) := by
  have missed (t : State) (v : Agent) (kt : NoticesFit t) : NoticesFit (missOffer h a c v t) := by
    unfold missOffer
    dsimp only
    split
    · exact NoticesFit.notify (s := setAgentRec t _ _) kt _ _
    · exact kt
  have returned : NoticesFit (count (Machine.returnCall h a c s) c.queue fun x => { x with missedOffers := sat16 (x.missedOffers + 1) }) :=
    k.returnCall h a c
  unfold Machine.expireOffer
  dsimp only
  refine NoticesFit.offerAgent (NoticesFit.matchCall (NoticesFit.notify ?_ _ _) h) a
  split
  · exact missed _ _ returned
  · exact returned

theorem outsideOrders_expireOffer (h a : Nat) (c : Call) (s : State) : outsideOrders (expireOffer h a c s) = outsideOrders s := by
  have missed (t : State) (v : Agent) : outsideOrders (missOffer h a c v t) = outsideOrders t := by
    unfold missOffer
    dsimp only
    split
    · rw [outsideOrders_notify, outsideOrders_setAgentRec]
    · exact outsideOrders_enterReady ..
  unfold expireOffer expiredNotice
  dsimp only
  rw [outsideOrders_offerAgent, outsideOrders_matchCall, outsideOrders_notify]
  split
  · rw [missed, outsideOrders_count, outsideOrders_returnCall]
  · rw [outsideOrders_count, outsideOrders_returnCall]

/-! ### The link's turn at the end of a command (R180, R188) -/

/-- What the transmitter and every hand-over keep stands when the link has had its turn. -/
theorem drain_keeps {P : State → Prop} (transmits : ∀ s, P s → P (transmit s))
    (hands : ∀ f rest s, P s → P (handOver f { s with held := rest })) (fuel : Nat) (hs : P s) : P (drain fuel s) := by
  induction fuel generalizing s with
  | zero => exact transmits s hs
  | succ fuel ih =>
    simp only [drain]
    split
    · exact transmits s hs
    · split
      · exact ih (hands _ _ _ (transmits s hs))
      · exact transmits s hs

theorem HandedOver.unitAddress (h : HandedOver s t) : t.unitAddress = s.unitAddress := (congrArg State.unitAddress h.1 :)

@[simp] theorem transmit_pending (s : State) : (transmit s).pending = s.pending := transmit_read _ (fun _ _ _ _ => rfl) s
@[simp] theorem transmit_unitAddress (s : State) : (transmit s).unitAddress = s.unitAddress := transmit_read _ (fun _ _ _ _ => rfl) s
@[simp] theorem transmit_overruns (s : State) : (transmit s).overruns = s.overruns := transmit_read _ (fun _ _ _ _ => rfl) s

theorem settle_pending (s : State) : (settle s).pending = s.pending :=
  drain_keeps (P := fun t => t.pending = s.pending) (fun t h => (transmit_pending t).trans h)
    (fun f rest t h => (handedOver_handOver f { t with held := rest }).pending.trans h) _ rfl

theorem settle_unitAddress (s : State) : (settle s).unitAddress = s.unitAddress :=
  drain_keeps (P := fun t => t.unitAddress = s.unitAddress) (fun t h => (transmit_unitAddress t).trans h)
    (fun f rest t h => (handedOver_handOver f { t with held := rest }).unitAddress.trans h) _ rfl

theorem NoticesFit.settle (k : NoticesFit s) : NoticesFit (settle s) :=
  drain_keeps (P := NoticesFit) (fun t h => (transmit_lengths t).2.trans h)
    (fun f rest t h => NoticesFit.handOver (s := { t with held := rest }) h f) _ k

theorem linkBounded_settle (replies : s.replies.length ≤ 4) (notices : NoticesFit s) (held : s.held.length ≤ 2)
    (address : 1 ≤ s.unitAddress ∧ s.unitAddress ≤ 16) : LinkBounded (settle s) := by
  obtain ⟨settled, heldLe, repliesLe⟩ := drain_spec s.held.length s le_rfl
  refine ⟨repliesLe replies, notices.settle, heldLe.trans held, ?_, ?_, settled⟩
  · rw [settle_unitAddress]; exact address.1
  · rw [settle_unitAddress]; exact address.2

/-! ### What a command can do to the link -/

/-- The block's queue, the unit address, and the frames that the link holds, sends or keeps to send. -/
def linkOf (s : State) : List Instr × Nat × List HeldFrame × List OutFrame × List OutFrame × Option OutFrame :=
  (s.pending, s.unitAddress, s.held, s.replies, s.notices, s.sending)

/-- What precedes the link's turn: the block's queue, the unit address, the held frames and the replies stand, and what
notices are raised fit. -/
structure Worked (s u : State) : Prop where
  pending : u.pending = s.pending
  address : u.unitAddress = s.unitAddress
  held : u.held = s.held
  replies : u.replies = s.replies
  notices : NoticesFit s → NoticesFit u

theorem Worked.trans (a : Worked s t) (b : Worked t u) : Worked s u :=
  ⟨b.pending.trans a.pending, b.address.trans a.address, b.held.trans a.held, b.replies.trans a.replies, b.notices ∘ a.notices⟩

theorem worked_of_outsideOrders (outside : outsideOrders u = outsideOrders s) (notices : NoticesFit s → NoticesFit u) : Worked s u :=
  ⟨(congrArg State.pending outside :), (congrArg State.unitAddress outside :), (congrArg State.held outside :),
    (congrArg State.replies outside :), notices⟩

theorem worked_notify (kind : Nat) (body : List LinkField) (s : State) : Worked s (notify kind body s) :=
  worked_of_outsideOrders (outsideOrders_notify ..) fun k => k.notify kind body

theorem worked_oweCount (s : State) : Worked s (oweCount s) := by
  unfold oweCount
  split <;> exact ⟨rfl, rfl, rfl, rfl, id⟩

theorem worked_restoreSync (s : State) : Worked s (restoreSync s) := by
  rw [restoreSync_eq]
  split
  · exact ⟨rfl, rfl, rfl, rfl, id⟩
  · exact Worked.trans (t := { s with syncPresent := true }) ⟨rfl, rfl, rfl, rfl, id⟩ (worked_notify ..)

theorem worked_playFrame (order : List Nat) (s : State) : Worked s (playFrame order s) :=
  Worked.trans (t := { s with highway := .driven ((List.range Config.voices).map (slotByte s)) }) ⟨rfl, rfl, rfl, rfl, id⟩
    (worked_of_outsideOrders (outsideOrders_of_audio (audioOnly_playFrame order s)) fun k => NoticesFit.playFrame k order)

theorem worked_oweFrame (s : State) : Worked s (oweFrame s) := by
  unfold oweFrame
  split
  · exact Worked.trans (t := { s with pulse := .whole }) ⟨rfl, rfl, rfl, rfl, id⟩ (worked_playFrame ..)
  · exact ⟨rfl, rfl, rfl, rfl, id⟩

theorem worked_countPulse (s : State) : Worked s (countPulse s) := by
  unfold countPulse
  split
  · exact ⟨rfl, rfl, rfl, rfl, id⟩
  all_goals split <;> exact ⟨rfl, rfl, rfl, rfl, id⟩

theorem worked_evalAll (l : List Nat) (s : State) : Worked s (l.foldl (fun t q => evalSurge q t) s) :=
  worked_of_outsideOrders (outsideOrders_foldl _ (fun t q => outsideOrders_evalSurge q t) l s)
    fun k => k.foldl (fun _ q kt => kt.evalSurge q) l

/-- The work of a boundary begins with its removal from what is due. -/
theorem worked_due (d : DueWork) (s : State) : Worked s { s with due := d } := ⟨rfl, rfl, rfl, rfl, id⟩

theorem worked_expireOffer (h a : Nat) (c : Call) (s : State) : Worked s (expireOffer h a c s) :=
  worked_of_outsideOrders (outsideOrders_expireOffer ..) fun k => k.expireOffer ..

theorem worked_expireWrap (a : Nat) (v : Agent) (w : WrapRecord) (p : Option Nat) (s : State) : Worked s (expireWrap a v w p s) :=
  worked_of_outsideOrders (outsideOrders_endWrap ..) fun k => k.endWrap ..

theorem worked_coolDownEnd (a : Nat) (v : Agent) (s : State) : Worked s (matchAgent a (setAgentRec s a v)) :=
  Worked.trans (t := setAgentRec s a v) ⟨rfl, rfl, rfl, rfl, id⟩
    (worked_of_outsideOrders (outsideOrders_matchAgent ..) fun k => k.matchAgent a)

/-- One move of the link: it stands; the link has its turn after a command's work; or it has its turn after a frame has been held. -/
inductive LinkMove (s : State) : State → Prop where
  | stands {t : State} (h : linkOf t = linkOf s) : LinkMove s t
  | works {u : State} (h : Worked s u) : LinkMove s (settle u)
  | holds (f : HeldFrame) (room : s.held.length < 2) : LinkMove s (settle { s with held := s.held ++ [f] })

/-- Moves of the link, one after the other. -/
abbrev LinkMoves : State → State → Prop := Relation.ReflTransGen LinkMove

theorem linkMoves_of_linkOf (h : linkOf t = linkOf s) : LinkMoves s t := .single (.stands h)

theorem linkMoves_of_worked (h : Worked s u) : LinkMoves s (settle u) := .single (.works h)

theorem linkMoves_arrive (f : HeldFrame) (s : State) : LinkMoves s (arrive f s) := by
  unfold arrive
  split
  · next room => exact .single (.holds f room)
  · exact linkMoves_of_linkOf rfl

theorem linkMoves_takeOrder (c : Instr) (s : State) : LinkMoves s (takeOrder c s) := by
  unfold takeOrder
  split
  · exact linkMoves_arrive ..
  · exact .refl

theorem linkMoves_judgeFrame (address frameClass kind : Byte) (body : List Byte) (crc : BitVec 16) (s : State) :
    LinkMoves s (judgeFrame address frameClass kind body crc s) := by
  unfold judgeFrame
  split
  · exact linkMoves_of_linkOf rfl
  split
  · exact .refl
  split
  · exact linkMoves_of_linkOf rfl
  · exact linkMoves_arrive ..

theorem linkMoves_judgeCharacters (bs : List Byte) (s : State) : LinkMoves s (judgeCharacters bs s) := linkMoves_judgeFrame ..

theorem linkMoves_receiveCharacter (data : Byte) (stopHigh : Bool) (s : State) : LinkMoves s (receiveCharacter data stopHigh s) := by
  unfold receiveCharacter
  split
  · split
    · exact linkMoves_of_linkOf rfl
    · exact .refl
  split
  · exact linkMoves_of_linkOf rfl
  dsimp only
  split
  · exact linkMoves_of_linkOf rfl
  split
  · have hunts : LinkMoves s { s with receiver := .hunting } := linkMoves_of_linkOf rfl
    exact hunts.trans (linkMoves_judgeCharacters ..)
  · exact linkMoves_of_linkOf rfl

theorem linkMoves_receiveAll (bs : List Byte) (s : State) : LinkMoves s (receiveAll bs s) := by
  unfold receiveAll
  induction bs generalizing s with
  | nil => exact .refl
  | cons b bs ih => exact (linkMoves_receiveCharacter b true s).trans (ih _)

/-- Every command that moves no pin answers a next state, to which the link comes by its moves. -/
theorem exec_linkMoves {c : Instr} (hc : pinCommand c = false) (s : State) : ∃ t, exec c s = .next t ∧ LinkMoves s t := by
  cases c
  case powerOn | resetPinAssert | resetPinRelease | refclkStop | refclkReturn => cases hc
  case highwayFrame order =>
    refine ⟨_, rfl, ?_⟩
    split
    · exact linkMoves_of_worked ((worked_oweCount s).trans <| (worked_restoreSync _).trans <| (worked_playFrame order _).trans <|
        worked_countPulse _)
    · exact .refl
  case timeUnitBoundary =>
    refine ⟨_, rfl, ?_⟩
    split
    · split
      · exact linkMoves_of_linkOf rfl
      · split
        · exact .refl
        · exact linkMoves_of_worked ((worked_restoreSync s).trans ⟨rfl, rfl, rfl, rfl, id⟩)
      · exact .refl
    · exact .refl
  case offerExpiry handle =>
    refine ⟨_, rfl, ?_⟩
    split
    · exact .refl
    · next c _ =>
      split
      · next a d _ =>
        split
        · exact linkMoves_of_worked ((worked_due _ s).trans (worked_expireOffer ..))
        · exact .refl
      all_goals exact .refl
  case wrapExpiry agent =>
    refine ⟨_, rfl, ?_⟩
    dsimp only
    split
    · exact .refl
    · next v _ =>
      split
      · next w p _ =>
        split
        · exact linkMoves_of_worked ((worked_due _ s).trans (worked_expireWrap ..))
        · exact .refl
      all_goals exact .refl
  case coolDownEnd agent =>
    refine ⟨_, rfl, ?_⟩
    dsimp only
    split
    · exact .refl
    · next v _ =>
      split
      · split
        · exact linkMoves_of_worked ((worked_due _ s).trans (worked_coolDownEnd ..))
        · exact .refl
      all_goals exact .refl
  case surgeWholeSecondEvaluation order =>
    refine ⟨_, rfl, ?_⟩
    split
    · exact linkMoves_of_worked ((worked_due _ s).trans (worked_evalAll ..))
    · exact .refl
  case syncLoss =>
    refine ⟨_, rfl, ?_⟩
    split
    · exact linkMoves_of_worked ((worked_oweCount s).trans <| (worked_oweFrame _).trans <|
        Worked.trans (t := { oweFrame (oweCount s) with syncPresent := false, highway := .undriven }) ⟨rfl, rfl, rfl, rfl, id⟩
          (worked_notify ..))
    · exact .refl
  case characterReceived data stopHigh =>
    refine ⟨_, rfl, ?_⟩
    split
    · exact linkMoves_receiveCharacter ..
    · exact .refl
  case frameReceived address frameClass kind body crc =>
    refine ⟨_, rfl, ?_⟩
    split
    · split
      · exact linkMoves_judgeFrame ..
      · exact linkMoves_receiveAll ..
    · exact .refl
  case gapLimit =>
    refine ⟨_, rfl, ?_⟩
    split
    · split
      · exact .refl
      · exact linkMoves_of_linkOf rfl
    · exact .refl
  case frameSent =>
    refine ⟨_, rfl, ?_⟩
    split
    · split
      · exact .refl
      · exact linkMoves_of_worked ⟨rfl, rfl, rfl, rfl, id⟩
    · exact .refl
  case unknownKind kind body =>
    refine ⟨_, rfl, ?_⟩
    split
    · exact linkMoves_takeOrder ..
    · exact .refl
  case broadcastDropped kind body =>
    refine ⟨_, rfl, ?_⟩
    split
    · exact .refl
    · exact linkMoves_takeOrder ..
  all_goals exact ⟨_, rfl, linkMoves_takeOrder ..⟩

/-! ### What the moves keep -/

theorem LinkMove.pending (m : LinkMove s t) : t.pending = s.pending := by
  cases m with
  | stands h => exact congrArg Prod.fst h
  | works h => rw [settle_pending, h.pending]
  | holds f _ => rw [settle_pending]

theorem LinkMoves.pending (m : LinkMoves s t) : t.pending = s.pending := by
  induction m with
  | refl => rfl
  | tail _ last ih => exact last.pending.trans ih

theorem LinkMove.linkBounded (m : LinkMove s t) (h : LinkBounded s) : LinkBounded t := by
  obtain ⟨replies, notices, held, low, high, settled⟩ := h
  cases m with
  | stands e =>
    simp only [linkOf, Prod.mk.injEq] at e
    obtain ⟨-, eAddress, eHeld, eReplies, eNotices, eSending⟩ := e
    unfold LinkBounded Machine.settled
    rw [eAddress, eHeld, eReplies, eNotices, eSending]
    exact ⟨replies, notices, held, low, high, settled⟩
  | works w =>
    refine linkBounded_settle ?_ (w.notices notices) ?_ ?_
    · rw [w.replies]; exact replies
    · rw [w.held]; exact held
    · rw [w.address]; exact ⟨low, high⟩
  | holds f room =>
    refine linkBounded_settle replies notices ?_ ⟨low, high⟩
    rw [List.length_append]
    exact room

theorem LinkMoves.linkBounded (m : LinkMoves s t) (h : LinkBounded s) : LinkBounded t := by
  induction m with
  | refl => exact h
  | tail _ last ih => exact last.linkBounded ih

/-! ### The pins, the supply and the clock (R172, R173, R174, R189) -/

/-- The unit address of the straps is one of the sixteen (R174). -/
theorem strapAddress_bounds (straps : BitVec 4) : 1 ≤ strapAddress straps ∧ strapAddress straps ≤ 16 := by
  have := straps.isLt
  unfold strapAddress
  omega

/-- A pin, the supply or the clock empties the link's queues or leaves them, and leaves the block's queue. -/
theorem exec_pins {c : Instr} (hc : pinCommand c = true) (s : State) :
    ∃ t, exec c s = .next t ∧ t.pending = s.pending ∧ (LinkBounded s → LinkBounded t) := by
  cases c <;> simp only [pinCommand, Bool.false_eq_true] at hc
  case powerOn straps rate =>
    obtain ⟨low, high⟩ := strapAddress_bounds straps
    exact ⟨_, rfl, rfl, fun _ => ⟨Nat.zero_le _, Nat.zero_le _, Nat.zero_le _, low, high, rfl⟩⟩
  case resetPinAssert =>
    refine ⟨_, rfl, ?_⟩
    split
    · exact ⟨rfl, id⟩
    · exact ⟨rfl, fun ⟨_, _, _, low, high, _⟩ => ⟨Nat.zero_le _, Nat.zero_le _, Nat.zero_le _, low, high, rfl⟩⟩
  case resetPinRelease straps rate =>
    refine ⟨_, rfl, ?_⟩
    split
    · obtain ⟨low, high⟩ := strapAddress_bounds straps
      exact ⟨rfl, fun ⟨replies, notices, held, _, _, settled⟩ => ⟨replies, notices, held, low, high, settled⟩⟩
    · exact ⟨rfl, id⟩
  case refclkStop => exact ⟨_, rfl, rfl, id⟩
  case refclkReturn => exact ⟨_, rfl, rfl, id⟩

/-- What every command does to the block's queue and to the link's bounds. -/
theorem exec_link (c : Instr) (s : State) : ∃ t, exec c s = .next t ∧ t.pending = s.pending ∧ (LinkBounded s → LinkBounded t) := by
  cases hc : pinCommand c with
  | true => exact exec_pins hc s
  | false =>
    obtain ⟨t, next, moves⟩ := exec_linkMoves hc s
    exact ⟨t, next, moves.pending, moves.linkBounded⟩

end

/-- Settles O1, by the two cases of `step`. -/
theorem stepRunsTheCommandAtTheFront : Obligations.StepRunsTheCommandAtTheFront :=
  ⟨fun c rest s front => by rw [step, front], fun s empty => by rw [step, empty]⟩

/-- Settles O2: `exec_link`. -/
theorem everyCommandCompletesAndLeavesTheQueue : Obligations.EveryCommandCompletesAndLeavesTheQueue := by
  intro c s
  obtain ⟨t, next, pending, -⟩ := exec_link c s
  exact ⟨t, next, pending⟩

/-- Settles O21: every move of the link keeps the bounds, and `exec_link` says that a command comes by such moves to its next state. -/
theorem linkStaysBounded : Obligations.LinkStaysBounded := by
  intro s t bounded stepped
  cases front : s.pending with
  | nil =>
    cases (stepRunsTheCommandAtTheFront.2 s front).symm.trans stepped
    exact bounded
  | cons c rest =>
    rw [stepRunsTheCommandAtTheFront.1 c rest s front] at stepped
    obtain ⟨u, next, -, keeps⟩ := exec_link c { s with pending := rest }
    cases next.symm.trans stepped
    exact keeps bounded

end Sys2Proof.Machine
end

-- ==== Sys2Proof/Proofs/Receiving ====
section
/-! The receiver: how a character and a frame are taken, how they are discarded, and that the characters of a frame are the frame (R174 to
R179). -/

namespace Sys2Proof.Machine

section
variable {s : State}

/-! ### The commands of the receiver -/

theorem exec_characterReceived (hr : running s = true) (data : Byte) (stopHigh : Bool) :
    exec (.characterReceived data stopHigh) s = .next (receiveCharacter data stopHigh s) := by
  show execCharacterReceived data stopHigh s = _
  rw [execCharacterReceived, if_pos hr]

theorem exec_gapLimit_of_hunting (hr : running s = true) (hunting : s.receiver = .hunting) : exec .gapLimit s = .next s := by
  show execGapLimit s = _
  rw [execGapLimit, if_pos hr, hunting]

theorem exec_gapLimit_of_inFrame (hr : running s = true) {taken : List Byte} (inFrame : s.receiver = .inFrame taken) :
    exec .gapLimit s = .next { s with receiver := .hunting, gapErrors := s.gapErrors + 1 } := by
  show execGapLimit s = _
  rw [execGapLimit, if_pos hr, inFrame]

/-- A frame received whole while hunting is judged. -/
theorem exec_frameReceived (hr : running s = true) (hunting : s.receiver = .hunting) {body : List Byte} (fits : body.length ≤ 250)
    (address frameClass kind : Byte) (crc : BitVec 16) :
    exec (.frameReceived address frameClass kind body crc) s = .next (judgeFrame address frameClass kind body crc s) := by
  show execFrameReceived address frameClass kind body crc s = _
  rw [execFrameReceived, if_pos hr, if_pos ⟨hunting, fits⟩]

/-! ### A character (R176) -/

theorem receiveCharacter_of_hunting (hunting : s.receiver = .hunting) (data : Byte) (stopHigh : Bool) :
    receiveCharacter data stopHigh s = if stopHigh && data == 0x7E#8 then { s with receiver := .inFrame [] } else s := by
  rw [receiveCharacter, hunting]

/-- The characters taken after a start byte of which a frame still misses one or more: the length byte, or characters that it counts. -/
def Unfinished (bs : List Byte) : Prop :=
  bs.length ≤ 3 ∨ ((bs.getD 3 0).toNat ≤ 250 ∧ bs.length < 6 + (bs.getD 3 0).toNat)

theorem Unfinished.of_append {bs cs : List Byte} (h : Unfinished (bs ++ cs)) : Unfinished bs := by
  rcases Nat.lt_or_ge 3 bs.length with long | short
  · rcases h with h | ⟨bounded, missing⟩
    · rw [List.length_append] at h
      omega
    · rw [List.getD_append _ _ _ _ long] at bounded missing
      rw [List.length_append] at missing
      exact .inr ⟨bounded, by omega⟩
  · exact .inl short

section
variable {taken : List Byte} (inFrame : s.receiver = .inFrame taken)
include inFrame

theorem receiveCharacter_of_lowStop (data : Byte) :
    receiveCharacter data false s = { s with receiver := .hunting, badCheck := s.badCheck + 1 } := by
  rw [receiveCharacter, inFrame]
  rfl

theorem receiveCharacter_of_longLength (third : taken.length = 3) {data : Byte} (long : 250 < data.toNat) :
    receiveCharacter data true s = { s with receiver := .hunting, lengthErrors := s.lengthErrors + 1 } := by
  have length : (taken ++ [data]).length = 4 ∧ data.toNat > 250 := ⟨by rw [List.length_append, third]; rfl, long⟩
  rw [receiveCharacter, inFrame]
  exact if_pos length

/-- A character of a frame that is not complete with it is taken. -/
theorem receiveCharacter_of_unfinished {data : Byte} (unfinished : Unfinished (taken ++ [data])) :
    receiveCharacter data true s = { s with receiver := .inFrame (taken ++ [data]) } := by
  have short : ¬((taken ++ [data]).length = 4 ∧ data.toNat > 250) := by
    rintro ⟨four, long⟩
    have third : taken.length = 3 := by simpa using four
    have last : (taken ++ [data]).getD 3 0 = data := by rw [← third]; simp
    rcases unfinished with h | ⟨bounded, -⟩
    · omega
    · rw [last] at bounded
      omega
  have incomplete : ¬(4 ≤ (taken ++ [data]).length ∧ (taken ++ [data]).length = 6 + ((taken ++ [data]).getD 3 0).toNat) := by
    rcases unfinished with h | ⟨-, missing⟩ <;> omega
  rw [receiveCharacter, inFrame]
  dsimp only
  rw [if_neg short, if_neg incomplete]
  rfl

/-- The character that completes a frame has it judged. -/
theorem receiveCharacter_of_last {data : Byte} (long : 5 ≤ taken.length)
    (complete : (taken ++ [data]).length = 6 + ((taken ++ [data]).getD 3 0).toNat) :
    receiveCharacter data true s = judgeCharacters (taken ++ [data]) { s with receiver := .hunting } := by
  have longer : 6 ≤ (taken ++ [data]).length := by rw [List.length_append]; exact Nat.succ_le_succ long
  have notFourth : ¬((taken ++ [data]).length = 4 ∧ data.toNat > 250) := fun h => by omega
  have whole : 4 ≤ (taken ++ [data]).length ∧ (taken ++ [data]).length = 6 + ((taken ++ [data]).getD 3 0).toNat :=
    ⟨by omega, complete⟩
  rw [receiveCharacter, inFrame]
  dsimp only
  rw [if_neg notFourth, if_pos whole]
  rfl

end

/-! ### The characters of a frame, one after the other (R175, R176) -/

/-- A character with a good stop bit. -/
def goodCharacter (b : Byte) : Instr := .characterReceived b true

/-- Inside a frame, with these characters of it taken and these commands waiting. -/
def inside (taken : List Byte) (more : List Instr) (s : State) : State := { s with receiver := .inFrame taken, pending := more }

theorem run_of_step {s u : State} (h : step s = .next u) (k : Nat) :
    Host.Core.run Sys2Proof.core (k + 1) s = Host.Core.run Sys2Proof.core k u := run_succ_of_step Sys2Proof.core h k

theorem run_character (hr : running s = true) {b : Byte} {more : List Instr} {u : State} (front : s.pending = goodCharacter b :: more)
    (received : receiveCharacter b true (withPending s more) = u) (k : Nat) :
    Host.Core.run Sys2Proof.core (k + 1) s = Host.Core.run Sys2Proof.core k u := by
  refine run_of_step ?_ k
  rw [stepRunsTheCommandAtTheFront.1 _ more s front, ← received]
  exact exec_characterReceived (s := withPending s more) hr b true

/-- Characters that do not complete the frame are taken one after the other. -/
theorem run_unfinished (hr : running s = true) (bs : List Byte) {taken : List Byte} (unfinished : Unfinished (taken ++ bs))
    (more : List Instr) (k : Nat) :
    Host.Core.run Sys2Proof.core (bs.length + k) (inside taken (bs.map goodCharacter ++ more) s) =
      Host.Core.run Sys2Proof.core k (inside (taken ++ bs) more s) := by
  induction bs generalizing taken with
  | nil => rw [List.append_nil, List.length_nil, Nat.zero_add, List.map_nil, List.nil_append]
  | cons b bs ih =>
    have split : taken ++ b :: bs = (taken ++ [b]) ++ bs := by simp
    rw [split] at unfinished ⊢
    have received := receiveCharacter_of_unfinished (s := inside taken (bs.map goodCharacter ++ more) s) rfl unfinished.of_append
    rw [List.length_cons, Nat.succ_add]
    exact (run_character (s := inside taken _ s) hr rfl received _).trans (ih unfinished)

/-- The two bytes of a CRC, high byte first, are the CRC (R175). -/
theorem crc_of_bytes (crc : BitVec 16) :
    ((crc >>> 8).setWidth 8).setWidth 16 <<< 8 ||| (crc.setWidth 8).setWidth 16 = crc := by
  apply BitVec.eq_of_getLsbD_eq
  intro i hi
  simp only [BitVec.getLsbD_or, BitVec.getLsbD_shiftLeft, BitVec.getLsbD_setWidth, BitVec.getLsbD_ushiftRight]
  by_cases low : i < 8
  · simp [low, hi]
  · simp [low, hi, show i - 8 < 8 by omega, show 8 + (i - 8) = i by omega, show i - 8 < 16 by omega]

/-- The characters of a frame between its start byte and its last. -/
def innerBytes (address frameClass kind : Byte) (body : List Byte) (crc : BitVec 16) : List Byte :=
  crcCovered address frameClass kind body ++ [(crc >>> 8).setWidth 8]

section
variable {body : List Byte} (fits : body.length ≤ 250) (address frameClass kind : Byte) (crc : BitVec 16)

theorem innerBytes_length : (innerBytes address frameClass kind body crc).length = body.length + 5 := by
  simp [innerBytes, crcCovered]

theorem frameBytes_eq : frameBytes address frameClass kind body crc =
    0x7E :: (innerBytes address frameClass kind body crc ++ [crc.setWidth 8]) := by
  simp [frameBytes, innerBytes]

include fits

/-- The fourth byte counts the body. -/
theorem toNat_lengthByte (rest : List Byte) :
    ((innerBytes address frameClass kind body crc ++ rest).getD 3 0).toNat = body.length := by
  show (BitVec.ofNat 8 body.length).toNat = _
  rw [BitVec.toNat_ofNat]
  exact Nat.mod_eq_of_lt (by omega)

theorem unfinished_innerBytes : Unfinished (innerBytes address frameClass kind body crc) := by
  have counted := toNat_lengthByte fits address frameClass kind crc []
  rw [List.append_nil] at counted
  refine .inr ?_
  rw [counted, innerBytes_length]
  exact ⟨fits, by omega⟩

/-- The characters of a complete frame are judged as the frame. -/
theorem judgeCharacters_frame (s : State) : judgeCharacters (innerBytes address frameClass kind body crc ++ [crc.setWidth 8]) s =
    judgeFrame address frameClass kind body crc s := by
  have bytes : innerBytes address frameClass kind body crc ++ [crc.setWidth 8] =
      address :: frameClass :: kind :: BitVec.ofNat 8 body.length :: (body ++ [(crc >>> 8).setWidth 8, crc.setWidth 8]) := by
    simp [innerBytes, crcCovered]
  have count : (BitVec.ofNat 8 body.length).toNat = body.length := toNat_lengthByte fits address frameClass kind crc []
  have high : (body ++ [(crc >>> 8).setWidth 8, crc.setWidth 8]).getD body.length 0 = (crc >>> 8).setWidth 8 := by simp
  have low : (body ++ [(crc >>> 8).setWidth 8, crc.setWidth 8]).getD (body.length + 1) 0 = crc.setWidth 8 := by simp
  rw [bytes, judgeCharacters]
  simp only [List.getD_cons_zero, List.getD_cons_succ, count, List.drop_succ_cons, List.drop_zero, List.take_left', Nat.add_comm 4,
    Nat.add_comm 5, high, low, crc_of_bytes]

/-- From hunting, the characters of a frame have it judged, and none is left over. -/
theorem run_frameCharacters {s : State} (hr : running s = true) (hunting : s.receiver = .hunting) :
    Host.Core.run Sys2Proof.core (body.length + 7)
        (withPending s ((frameBytes address frameClass kind body crc).map goodCharacter)) =
      .next (judgeFrame address frameClass kind body crc (withPending s [])) := by
  let inner := innerBytes address frameClass kind body crc
  let last : List Instr := [goodCharacter (crc.setWidth 8)]
  have innerLength : inner.length = body.length + 5 := innerBytes_length address frameClass kind crc
  have started : receiveCharacter 0x7E true (withPending s (inner.map goodCharacter ++ last)) =
      inside [] (inner.map goodCharacter ++ last) s :=
    receiveCharacter_of_hunting (s := withPending s (inner.map goodCharacter ++ last)) hunting 0x7E true
  have front : (frameBytes address frameClass kind body crc).map goodCharacter =
      goodCharacter 0x7E :: (inner.map goodCharacter ++ last) := by
    rw [frameBytes_eq, List.map_cons, List.map_append]
    rfl
  have completed : receiveCharacter (crc.setWidth 8) true (inside inner [] s) =
      judgeFrame address frameClass kind body crc (withPending s []) := by
    rw [receiveCharacter_of_last (s := inside inner [] s) rfl (by omega)
      (by rw [toNat_lengthByte fits, List.length_append, innerLength, List.length_singleton]; omega),
      judgeCharacters_frame fits]
    exact congrArg (fun r => judgeFrame address frameClass kind body crc { s with pending := [], receiver := r }) hunting.symm
  have steps : body.length + 7 = inner.length + 1 + 1 := by omega
  rw [steps, front]
  exact (run_character (s := withPending s (goodCharacter 0x7E :: (inner.map goodCharacter ++ last))) hr rfl started _).trans <|
    (run_unfinished hr inner (taken := []) (unfinished_innerBytes fits ..) last 1).trans <|
    run_character (s := inside inner last s) hr rfl completed 0

end

/-! ### The bits of a character (R174) -/

theorem characterBits_dataBit (b : Byte) {i : Nat} (hi : i < 8) : (characterBits b)[i + 1]? = some (b.getLsbD i) := by
  show ((List.range 8).map (fun i => b.getLsbD i) ++ [true])[i]? = _
  rw [List.getElem?_append_left (by simpa using hi), List.getElem?_map, List.getElem?_range hi]
  rfl

/-- The byte the receiver has after the first `n` data bits holds these bits, and no other. -/
theorem getLsbD_firstBits (bits : List Bool) {n : Nat} (hn : n ≤ 8) (j : Nat) :
    ((List.range n).foldl (fun b i => b ||| (if bits.getD (i + 1) false then 1#8 <<< i else 0#8)) 0#8).getLsbD j =
      (decide (j < n) && bits.getD (j + 1) false) := by
  induction n with
  | zero => simp
  | succ n ih =>
    rw [List.range_succ, List.foldl_append, List.foldl_cons, List.foldl_nil, BitVec.getLsbD_or, ih (by omega)]
    have bit : (if bits.getD (n + 1) false then 1#8 <<< n else 0#8).getLsbD j = (decide (j = n) && bits.getD (n + 1) false) := by
      have one : (1#8 <<< n).getLsbD j = decide (j = n) := by
        rw [← BitVec.twoPow_eq, BitVec.getLsbD_twoPow, decide_eq_true (by omega : n < 8), Bool.true_and]
        exact decide_eq_decide.2 eq_comm
      cases bits.getD (n + 1) false <;> simp only [Bool.false_eq_true, if_true, if_false, one, Bool.and_true, Bool.and_false,
        BitVec.getLsbD_zero]
    rw [bit]
    by_cases same : j = n
    · subst same; simp
    · rw [decide_eq_false same]
      simp only [Bool.false_and, Bool.or_false, show (j < n + 1) = (j < n) from propext (by omega)]

theorem characterByte_eq {bits : List Bool} {b : Byte} (data : ∀ i < 8, bits[i + 1]? = some (b.getLsbD i)) :
    characterByte bits = b := by
  apply BitVec.eq_of_getLsbD_eq
  intro j hj
  rw [characterByte, getLsbD_firstBits bits le_rfl, decide_eq_true hj, Bool.true_and, List.getD_eq_getElem?_getD, data j hj]
  rfl

theorem stopBit_eq_true {bits : List Bool} : stopBit bits = true ↔ bits[9]? = some true := by
  rw [stopBit, List.getD_eq_getElem?_getD]
  cases bits[9]? <;> simp

end

/-- Settles O14: both runs end in the judgement of the frame. -/
theorem charactersOfAFrameAreTheFrame : Obligations.CharactersOfAFrameAreTheFrame := by
  refine ⟨fun address frameClass kind body crc s hr hunting fits => ?_, fun b => ⟨rfl, rfl, rfl, fun i => characterBits_dataBit b,
    fun bits _ data => ⟨characterByte_eq data, stopBit_eq_true⟩⟩, rfl, rfl, rfl, rfl⟩
  have stepped : step (withPending s [.frameReceived address frameClass kind body crc]) =
      .next (judgeFrame address frameClass kind body crc (withPending s [])) :=
    exec_frameReceived (s := withPending s []) hr hunting fits address frameClass kind crc
  exact (run_frameCharacters fits address frameClass kind crc hr hunting).trans (run_of_step stepped 0).symm

/-- Settles O16, by the cases of `receiveCharacter` and of the gap limit. -/
theorem receiverDiscardsAndCounts : Obligations.ReceiverDiscardsAndCounts := by
  refine ⟨fun b s hr hunting => ⟨?_, exec_gapLimit_of_hunting hr hunting, fun other => ?_, fun start => ?_⟩,
    fun b taken s hr inFrame => ⟨?_, exec_gapLimit_of_inFrame hr inFrame, fun third long => ?_, fun more => ?_⟩⟩
  all_goals rw [exec_characterReceived hr]
  · rw [receiveCharacter_of_hunting hunting]
    rfl
  · rw [receiveCharacter_of_hunting hunting, if_neg (by simpa using other)]
  · rw [receiveCharacter_of_hunting hunting, if_pos (by simpa using start)]
  · rw [receiveCharacter_of_lowStop inFrame]
  · rw [receiveCharacter_of_longLength inFrame third long]
  · rw [receiveCharacter_of_unfinished inFrame]
    rcases more with few | ⟨third, bounded⟩
    · exact .inl (by simpa using few)
    · have last : (taken ++ [b]).getD 3 0 = b := by rw [← third]; simp
      have length : (taken ++ [b]).length = 4 := by rw [List.length_append, third]; rfl
      exact .inr ⟨by rwa [last], by omega⟩

/-- Settles O17: the cases of `judgeFrame`. -/
theorem completeFrameIsJudged : Obligations.CompleteFrameIsJudged := by
  intro address frameClass kind body crc s hr hunting fits
  rw [exec_frameReceived hr hunting fits, judgeFrame, crcCovered]
  refine ⟨fun wrong => ?_, fun right => ⟨fun broadcast other => ?_, fun ours notOrder => ?_, fun broadcast order => ?_,
    fun addressed unit order => ?_⟩⟩
  · rw [if_pos wrong.symm]
  all_goals rw [if_neg (not_not.2 right.symm)]
  · rw [if_pos ⟨broadcast, other⟩]
  · have other : frameClass.toNat ≠ 1 := fun h => notOrder (BitVec.eq_of_toNat_eq h)
    rw [if_neg (by tauto), if_pos other]
  · rw [if_neg (fun h => h.1 broadcast), order, if_neg (by decide), if_pos broadcast]
  · rw [if_neg (fun h => h.2 unit), order, if_neg (by decide), if_neg addressed]

end Sys2Proof.Machine
end

-- ==== Sys2Proof/Proofs/OrderFrames ====
section
/-! Reading an order's frame after writing it (R175, R178, R181, R182, R190). -/

namespace Sys2Proof.Machine

open Sys2Proof.Laws (length_beBytes)

/-! ### Numbers and their bytes (00_scope.md 5.6) -/

theorem beNumber_append (bs : List Byte) (b : Byte) : beNumber (bs ++ [b]) = beNumber bs * 256 + b.toNat := by
  rw [beNumber, List.foldl_append]
  rfl

theorem beNumber_beBytes (n v : Nat) : beNumber (beBytes n v) = v % 256 ^ n := by
  induction n generalizing v with
  | zero => rw [Nat.pow_zero, Nat.mod_one]; rfl
  | succ n ih =>
    rw [beBytes, beNumber_append, ih, BitVec.toNat_ofNat]
    show v / 256 % 256 ^ n * 256 + v % 256 = _
    rw [Nat.pow_succ', Nat.mod_mul, Nat.mul_comm, Nat.add_comm]

/-! ### The fields of a body -/

section
variable (b : Byte) (rest : List Byte) (v n : Nat)

@[simp] theorem bodyField_byte : bodyField (b :: rest) 0 1 = b.toNat := by
  rw [bodyField, List.drop_zero, List.take_succ_cons, List.take_zero]
  exact Nat.zero_add _

/-- A field behind a byte. -/
@[simp] theorem bodyField_behind_byte (i : Nat) : bodyField (b :: rest) (i + 1) n = bodyField rest i n := rfl

/-- A field behind a number's bytes. -/
@[simp] theorem bodyField_behind {i k : Nat} (h : k ≤ i) : bodyField (beBytes k v ++ rest) i n = bodyField rest (i - k) n := by
  rw [bodyField, List.drop_append, List.drop_eq_nil_of_le ((length_beBytes k v).trans_le h), length_beBytes]
  rfl

theorem bodyField_number {k : Nat} (h : v < 256 ^ k) : bodyField (beBytes k v ++ rest) 0 k = v := by
  have whole : (beBytes k v ++ rest).take k = beBytes k v := List.take_left' (length_beBytes k v)
  rw [bodyField, List.drop_zero, whole, beNumber_beBytes, Nat.mod_eq_of_lt h]

@[simp] theorem bodyField_toNat8 (x : BitVec 8) : bodyField (beBytes 1 x.toNat ++ rest) 0 1 = x.toNat := bodyField_number rest _ x.isLt
@[simp] theorem bodyField_toNat16 (x : BitVec 16) : bodyField (beBytes 2 x.toNat ++ rest) 0 2 = x.toNat := bodyField_number rest _ x.isLt
@[simp] theorem bodyField_toNat32 (x : BitVec 32) : bodyField (beBytes 4 x.toNat ++ rest) 0 4 = x.toNat := bodyField_number rest _ x.isLt

end

/-- A number at the end of a body. -/
@[simp] theorem bodyField_last8 (x : BitVec 8) : bodyField (beBytes 1 x.toNat) 0 1 = x.toNat := by
  simpa using bodyField_toNat8 [] x
@[simp] theorem bodyField_last16 (x : BitVec 16) : bodyField (beBytes 2 x.toNat) 0 2 = x.toNat := by
  simpa using bodyField_toNat16 [] x
@[simp] theorem bodyField_last32 (x : BitVec 32) : bodyField (beBytes 4 x.toNat) 0 4 = x.toNat := by
  simpa using bodyField_toNat32 [] x

/-! ### The two long orders -/

theorem queueFieldsOf_queueBody (f : QueueFields) : queueFieldsOf (queueBody f) = f := by
  simp [queueFieldsOf, queueBody, field8, field16, field32]

theorem exists_eight {α : Type} {l : List α} (h : l.length = 8) : ∃ a b c d e f g i, l = [a, b, c, d, e, f, g, i] := by
  match l, h with
  | [a, b, c, d, e, f, g, i], _ => exact ⟨a, b, c, d, e, f, g, i, rfl⟩

theorem programFieldsOf_programBody {f : ProgramFields} (loop : f.loop.length = 8) (bands : f.bands.length = 8) :
    programFieldsOf (programBody f) = f := by
  obtain ⟨program, options, introClip, exitClip, overClip, noEstimateClip, loopCount, l, bandCount, bs⟩ := f
  obtain ⟨l0, l1, l2, l3, l4, l5, l6, l7, rfl⟩ := exists_eight loop
  obtain ⟨b0, b1, b2, b3, b4, b5, b6, b7, rfl⟩ := exists_eight bands
  simp [programFieldsOf, programBody, field8, field16, List.range_succ]

/-! ### Every order -/

/-- The frame of every well-formed order fits the link (R175, R181). -/
theorem frameFits : ∀ c : Instr, Laws.FrameFits.Statement c
  | .powerOn .. => Laws.FrameFits.powerOn _ _
  | .resetPinAssert => Laws.FrameFits.resetPinAssert
  | .resetPinRelease .. => Laws.FrameFits.resetPinRelease _ _
  | .refclkStop => Laws.FrameFits.refclkStop
  | .refclkReturn => Laws.FrameFits.refclkReturn
  | .highwayFrame .. => Laws.FrameFits.highwayFrame _
  | .timeUnitBoundary => Laws.FrameFits.timeUnitBoundary
  | .offerExpiry .. => Laws.FrameFits.offerExpiry _
  | .wrapExpiry .. => Laws.FrameFits.wrapExpiry _
  | .coolDownEnd .. => Laws.FrameFits.coolDownEnd _
  | .surgeWholeSecondEvaluation .. => Laws.FrameFits.surgeWholeSecondEvaluation _
  | .syncLoss => Laws.FrameFits.syncLoss
  | .characterReceived .. => Laws.FrameFits.characterReceived _ _
  | .frameReceived .. => Laws.FrameFits.frameReceived _ _ _ _ _
  | .gapLimit => Laws.FrameFits.gapLimit
  | .frameSent => Laws.FrameFits.frameSent
  | .unknownKind .. => Laws.FrameFits.unknownKind _ _
  | .broadcastDropped .. => Laws.FrameFits.broadcastDropped _ _
  | .startService .. => Laws.FrameFits.startService _ _
  | .stopService .. => Laws.FrameFits.stopService _
  | .clearService .. => Laws.FrameFits.clearService _
  | .readEngine => Laws.FrameFits.readEngine
  | .setQueue .. => Laws.FrameFits.setQueue _
  | .setQueueState .. => Laws.FrameFits.setQueueState _ _ _
  | .readQueue .. => Laws.FrameFits.readQueue _
  | .readQueueStatistics .. => Laws.FrameFits.readQueueStatistics _ _
  | .readWaiting .. => Laws.FrameFits.readWaiting _ _ _
  | .enqueue .. => Laws.FrameFits.enqueue _ _ _ _ _ _
  | .remove .. => Laws.FrameFits.remove _ _
  | .answer .. => Laws.FrameFits.answer _ _
  | .refuseOffer .. => Laws.FrameFits.refuseOffer _ _ _ _
  | .release .. => Laws.FrameFits.release _
  | .divert .. => Laws.FrameFits.divert _
  | .cancelDivert .. => Laws.FrameFits.cancelDivert _
  | .readCall .. => Laws.FrameFits.readCall _
  | .login .. => Laws.FrameFits.login _ _ _ _ _
  | .logout .. => Laws.FrameFits.logout _
  | .setReady .. => Laws.FrameFits.setReady _
  | .setNotReady .. => Laws.FrameFits.setNotReady _ _
  | .setSkills .. => Laws.FrameFits.setSkills _ _
  | .wrapDone .. => Laws.FrameFits.wrapDone _ _ _ _
  | .setDisposition .. => Laws.FrameFits.setDisposition _ _
  | .extendWrap .. => Laws.FrameFits.extendWrap _
  | .readAgent .. => Laws.FrameFits.readAgent _
  | .readAgentStates .. => Laws.FrameFits.readAgentStates _ _
  | .openClipLoad .. => Laws.FrameFits.openClipLoad _ _ _
  | .clipData .. => Laws.FrameFits.clipData _ _ _
  | .closeClipLoad .. => Laws.FrameFits.closeClipLoad _ _
  | .abortClipLoad .. => Laws.FrameFits.abortClipLoad _
  | .freeClip .. => Laws.FrameFits.freeClip _
  | .readClip .. => Laws.FrameFits.readClip _ _ _
  | .readClipEntry .. => Laws.FrameFits.readClipEntry _
  | .setProgram .. => Laws.FrameFits.setProgram _
  | .deleteProgram .. => Laws.FrameFits.deleteProgram _
  | .readProgram .. => Laws.FrameFits.readProgram _
  | .readVoice .. => Laws.FrameFits.readVoice _

/-- A kind and length that are right are read as an order. -/
theorem readFrame_of_lengthRight {kind : BitVec 8} {body : List Byte} (known : (requiredLength kind.toNat).isSome = true)
    (right : lengthRight kind.toNat body.length = true) : readFrame .unit kind body = .order (decodedOrder .unit kind body) := by
  obtain ⟨n, required⟩ := Option.isSome_iff_exists.1 known
  rw [readFrame, required]
  exact if_pos right

/-- A kind and length that may be broadcast are read as an order (R182). -/
theorem readFrame_of_broadcast {kind : BitVec 8} {body : List Byte}
    (allowed : (broadcastKind kind.toNat && lengthRight kind.toNat body.length) = true) :
    readFrame .broadcast kind body = .order (decodedOrder .broadcast kind body) := if_pos allowed

/-- The frame of an addressed order of a known kind is read by its kind. -/
theorem readFrame_of_addressed {c : Instr} {kind : BitVec 8} {body : List Byte} (wf : c.wellFormed = true)
    (frame : orderFrame c = some (.unit, kind, body)) (known : (requiredLength kind.toNat).isSome = true) :
    readFrame .unit kind body = .order (decodedOrder .unit kind body) := by
  obtain ⟨-, right | unknown | ⟨broadcast, -⟩⟩ := frameFits c wf _ _ _ frame
  · exact readFrame_of_lengthRight known right
  · rw [unknown] at known
    cases known
  · cases broadcast

/-- Every well-formed order's frame reads back as that order. -/
theorem readFrame_orderFrame {c : Instr} {dest : Dest} {kind : BitVec 8} {body : List Byte} (wf : c.wellFormed = true)
    (frame : orderFrame c = some (dest, kind, body)) : readFrame dest kind body = .order c := by
  cases c
  case unknownKind =>
    obtain ⟨unknown, -⟩ := (Bool.and_eq_true _ _).mp wf
    cases frame
    rw [readFrame, Option.isNone_iff_eq_none.1 unknown]
  case broadcastDropped =>
    obtain ⟨other, -⟩ := (Bool.and_eq_true _ _).mp wf
    cases frame
    rw [readFrame, if_neg (by rwa [Bool.not_eq_true', ← Bool.not_eq_true] at other)]
  case startService dest _ | stopService dest | clearService dest | setQueueState dest _ _ =>
    cases frame
    cases dest
    · rw [readFrame_of_addressed wf rfl rfl]
      simp [decodedOrder, field8]
    · rw [readFrame_of_broadcast rfl]
      simp [decodedOrder, field8]
  case setQueue f =>
    cases frame
    rw [readFrame_of_addressed wf rfl rfl]
    exact congrArg (HeldFrame.order ∘ Instr.setQueue) (queueFieldsOf_queueBody f)
  case setProgram f =>
    obtain ⟨loop, bands⟩ := of_decide_eq_true wf
    cases frame
    rw [readFrame_of_addressed wf rfl rfl]
    exact congrArg (HeldFrame.order ∘ Instr.setProgram) (programFieldsOf_programBody loop bands)
  case clipData k offset data =>
    cases frame
    rw [readFrame_of_addressed wf rfl rfl]
    simp [decodedOrder, field8, field32, length_beBytes]
  case powerOn | resetPinAssert | resetPinRelease | refclkStop | refclkReturn | highwayFrame | timeUnitBoundary | offerExpiry |
      wrapExpiry | coolDownEnd | surgeWholeSecondEvaluation | syncLoss | characterReceived | frameReceived | gapLimit | frameSent =>
    cases frame
  all_goals
    cases frame
    rw [readFrame_of_addressed wf rfl rfl]
    simp [decodedOrder, field8, field16, field32]

/-! ### What an order's command and its frame do -/

/-- Every well-formed order is taken as its frame. -/
theorem exec_of_orderFrame {c : Instr} {dest : Dest} {kind : BitVec 8} {body : List Byte} (wf : c.wellFormed = true)
    (frame : orderFrame c = some (dest, kind, body)) (s : State) : exec c s = .next (takeOrder c s) := by
  cases dest with
  | unit => exact exec_of_addressed wf frame s
  | broadcast =>
    cases c
    case broadcastDropped kind body =>
      obtain ⟨other, -⟩ := (Bool.and_eq_true _ _).mp wf
      show execBroadcastDropped kind body s = _
      rw [execBroadcastDropped, if_neg (by rwa [Bool.not_eq_true', ← Bool.not_eq_true] at other)]
    case startService | stopService | clearService | setQueueState => rfl
    all_goals cases frame

/-- The judgement of a correct order's frame for this engine (R178). -/
theorem judgeFrame_of_order {dest : Dest} {address : Byte} {s : State}
    (addressed : dest = .unit → address.toNat = s.unitAddress ∧ s.unitAddress ≠ 0)
    (broadcast : dest = .broadcast → address = 0) (kind : Byte) (body : List Byte) :
    judgeFrame address 1 kind body (crcOf (crcCovered address 1 kind body)) s = arrive (readFrame dest kind body) s := by
  rw [judgeFrame, if_neg (not_not.2 rfl)]
  cases dest with
  | unit =>
    obtain ⟨ours, notZero⟩ := addressed rfl
    rw [if_neg fun h => h.2 ours, if_neg (by decide), if_neg (by rwa [ours])]
  | broadcast =>
    rw [broadcast rfl, if_neg fun h => h.1 rfl, if_neg (by decide)]
    rfl

/-- Settles O15: the order's command and its frame both put the order into the receive buffers. -/
theorem orderFramesReadBack : Obligations.OrderFramesReadBack := by
  intro c dest kind body wf frame
  obtain ⟨fits, -⟩ := frameFits c wf dest kind body frame
  refine ⟨readFrame_orderFrame wf frame, fits, fun s address hr hunting addressed broadcast => ?_⟩
  rw [exec_frameReceived hr hunting fits, exec_of_orderFrame wf frame, judgeFrame_of_order addressed broadcast,
    readFrame_orderFrame wf frame, takeOrder, if_pos hr]

end Sys2Proof.Machine
end

-- ==== Sys2Proof/Proofs/Transmitting ====
section
/-! The receive buffers, the link checks and the transmitter (R180 to R182, R186 to R188). -/

namespace Sys2Proof.Machine

section
variable {s : State}

/-! ### The receive buffers (R180) -/

/-- With two frames held, one more is an overrun. -/
theorem arrive_of_full (full : 2 ≤ s.held.length) (f : HeldFrame) : arrive f s = { s with overruns := s.overruns + 1 } :=
  if_neg (Nat.not_lt.2 full)

/-- A frame that finds the reply queue full waits behind the others. -/
theorem arrive_of_waiting (room : s.held.length < 2) (full : 4 ≤ s.replies.length) (busy : s.sending.isSome = true) (f : HeldFrame) :
    arrive f s = { s with held := s.held ++ [f] } := by
  have waits : settled { s with held := s.held ++ [f] } = true := (settled_iff _).2 ⟨.inl busy, .inr full⟩
  rw [arrive]
  exact (if_pos room).trans (settle_eq_self waits)

/-- A frame that the link takes is handed over, and the transmitter has its turn. -/
theorem arrive_of_takes (ht : takes s = true) (f : HeldFrame) : arrive f s = transmit (handOver f s) := by
  obtain ⟨-, held, room, idle⟩ := (takes_iff s).1 ht
  have waiting : transmit { s with held := [f] } = { s with held := [f] } := transmit_eq_self idle
  have taken : { s with held := [] } = s := by rw [← held]
  simp only [arrive, held, List.length_nil, List.nil_append, settle, List.length_singleton, drain, waiting, taken]
  rw [if_pos (by decide)]
  exact if_pos room

theorem transmit_handOver_held (f : HeldFrame) (s : State) : (transmit (handOver f s)).held = s.held :=
  (transmit_held _).trans (handedOver_handOver f s).held

theorem transmit_handOver_overruns (f : HeldFrame) (s : State) : (transmit (handOver f s)).overruns = s.overruns :=
  (transmit_overruns _).trans (handedOver_handOver f s).overruns

/-! ### The link checks (R181) -/

/-- An addressed order of a known kind whose length is wrong. -/
theorem readFrame_of_badLength {kind : BitVec 8} {body : List Byte} {n : Nat} (required : requiredLength kind.toNat = some n)
    (wrong : lengthRight kind.toNat body.length = false) : readFrame .unit kind body = .badLength kind n body.length := by
  rw [readFrame, required]
  exact if_neg (Bool.eq_false_iff.1 wrong)

theorem lengthRight_eq_false {kind : BitVec 8} {n received : Nat} (required : requiredLength kind.toNat = some n)
    (other : kind ≠ 0x41 → received ≠ n) (clipData : kind = 0x41 → received < 6 ∨ 245 < received) :
    lengthRight kind.toNat received = false := by
  unfold lengthRight
  split
  · next h =>
    have outside := clipData (BitVec.eq_of_toNat_eq h)
    exact decide_eq_false (by omega)
  · next h =>
    have different := other fun e => h (by rw [e]; rfl)
    rw [required]
    exact beq_false_of_ne fun e => different (Option.some.inj e).symm

/-! ### The transmitter (R186 to R188) -/

theorem exec_frameSent (hr : running s = true) {f : OutFrame} (sending : s.sending = some f) :
    exec .frameSent s = .next (settle { s with sending := none }) := by
  show execFrameSent s = _
  rw [execFrameSent, if_pos hr, sending]

theorem exec_frameSent_of_idle (idle : s.sending = none) : exec .frameSent s = .next s := by
  show execFrameSent s = _
  rw [execFrameSent, idle, ite_self]

/-- A reply that leaves a full reply queue makes the place for the frame held at the head. -/
theorem settle_of_freed_place {r : OutFrame} {rs : List OutFrame} {h : HeldFrame} {hs : List HeldFrame} (idle : s.sending = none)
    (held : s.held = h :: hs) (replies : s.replies = r :: rs) (three : rs.length = 3) :
    settle s = settle (handOver h { s with sending := some r, replies := rs, held := hs }) := by
  have behind : (handOver h { s with sending := some r, replies := rs, held := hs }).held = hs := (handedOver_handOver h _).held
  have place : rs.length < Config.replyPlaces := by rw [three]; decide
  rw [settle, settle, behind, held, List.length_cons, drain, transmit_of_reply idle replies]
  dsimp only
  rw [held]
  exact if_pos place

theorem notify_of_full (full : 256 ≤ s.notices.length) (kind : Nat) (body : List LinkField) : notify kind body s =
    if s.sending.isSome && s.replies.isEmpty && Config.frameEndsInside s.frameEnds then
      { s with
        sending := s.notices.head?, frameEnds := s.frameEnds + 1,
        notices := s.notices.tail ++ [{ frameClass := 4, kind := kind, body := f4 s.now.toNat :: body }] }
    else { s with noticesLost := true, frameEnds := s.frameEnds + 1 } :=
  if_neg (Nat.not_lt.2 full)

end

/-- Settles O18, by the three cases of `arrive`. -/
theorem orderIsHeldOrHandedOverOrOverrun : Obligations.OrderIsHeldOrHandedOverOrOverrun := by
  intro c s wf order hr
  obtain ⟨⟨dest, kind, body⟩, frame⟩ := Option.isSome_iff_exists.1 order
  rw [exec_of_orderFrame wf frame, takeOrder, if_pos hr]
  refine ⟨fun full => ?_, fun room full busy => ?_, fun ht => ?_⟩
  · rw [arrive_of_full full]
  · rw [arrive_of_waiting room full busy]
  · obtain ⟨-, held, -⟩ := (takes_iff s).1 ht
    rw [arrive_of_takes ht]
    exact ⟨_, rfl, rfl, (transmit_handOver_held (.order c) s).trans held, transmit_handOver_overruns (.order c) s⟩

/-- Settles O19: an order that the link takes is handed over, and the check that stops it answers or drops it. -/
theorem linkChecksRefuseOrDrop : Obligations.LinkChecksRefuseOrDrop := by
  refine ⟨fun kind body s ht unknown => ?unknown, fun kind body n s ht hunting notZero below fits required other clipData => ?length,
    fun kind body s ht other => ?dropped⟩
  case unknown =>
    show execUnknownKind kind body s = _
    rw [execUnknownKind, if_pos (by rw [unknown]; rfl), takeOrder_of_takes ht]
    rfl
  case length =>
    obtain ⟨hr, -⟩ := (takes_iff s).1 ht
    have address : (BitVec.ofNat 8 s.unitAddress).toNat = s.unitAddress := Nat.mod_eq_of_lt below
    rw [exec_frameReceived hr hunting fits, judgeFrame_of_order (dest := .unit) (fun _ => ⟨address, notZero⟩) nofun,
      readFrame_of_badLength required (lengthRight_eq_false required other clipData), arrive_of_takes ht]
    rfl
  case dropped =>
    obtain ⟨-, -, -, idle⟩ := (takes_iff s).1 ht
    show execBroadcastDropped kind body s = _
    rw [execBroadcastDropped, if_neg (by rw [other]; decide), takeOrder_of_takes ht]
    exact congrArg Host.Outcome.next (transmit_eq_self idle)

/-- Settles O20: the branches of `notify` by `notify_of_lt` and `notify_of_full`. -/
theorem transmitterTakesRepliesBeforeNotices : Obligations.TransmitterTakesRepliesBeforeNotices := by
  refine ⟨fun s f hr sending held => ?free, fun s f r rs h hs hr sending held replies three => ?place, fun s => exec_frameSent_of_idle,
    fun kind body s => ⟨fun room => notify_of_lt room kind body, fun full => ⟨fun stuck => ?lost, fun n ns busy noReply notices => ?inside⟩⟩⟩
  case free =>
    rw [exec_frameSent hr sending, settle_of_held_nil (s := { s with sending := none }) held]
    refine ⟨fun r rs replies => ?_, fun n ns noReply notices => ?_, fun noReply empty => ?_⟩
    · rw [transmit_of_reply (s := { s with sending := none }) rfl replies]
    · rw [transmit_of_notice (s := { s with sending := none }) rfl noReply notices]
    · rw [transmit_eq_self (s := { s with sending := none }) (.inr ⟨noReply, empty⟩)]
  case place =>
    rw [exec_frameSent hr sending, settle_of_freed_place (s := { s with sending := none }) rfl held replies three]
  case lost =>
    have notInside : (s.sending.isSome && s.replies.isEmpty) = false := by
      rcases stuck with idle | reply
      · rw [idle]; rfl
      · rw [List.isEmpty_eq_false_iff.2 reply, Bool.and_false]
    rw [notify_of_full full, notInside, Bool.false_and, if_neg Bool.false_ne_true]
  case inside =>
    have ends : (s.sending.isSome && s.replies.isEmpty) = true := by
      rw [Option.isSome_iff_ne_none.2 busy, noReply]; rfl
    rw [notify_of_full full, ends, Bool.true_and, notices]
    rfl

end Sys2Proof.Machine
end

-- ==== Sys2Proof/Proofs/TablesInForm ====
section
/-! Every table stays in the model's canonical form (log 9), also where a record stands at a number the part has not: `tableInsert`,
`tableErase`, `tablePut`, a filter and a map of the values each keep the form of a table, and nothing else writes one but a clearing, which
leaves it empty. -/

namespace Sys2Proof.Machine

/-- `Canonical`, table by table. -/
structure InForm (s : State) : Prop where
  calls : tableRising s.calls = true
  generations : TableOk True (fun _ g => g ≠ 0) s.generations
  queues : TableOk True (fun _ r => r ≠ queueAtReset) s.queues
  agents : tableRising s.agents = true
  samples : tableRising s.samples = true
  clips : tableRising s.clips = true
  programs : tableRising s.programs = true
  voices : tableRising s.voices = true

theorem inForm_iff (s : State) : InForm s ↔ Canonical s := by
  constructor
  · intro k
    exact ⟨k.calls, k.generations.rising trivial, k.queues.rising trivial, k.agents, k.samples, k.clips, k.programs, k.voices,
      k.queues.each, k.generations.each⟩
  · rintro ⟨calls, generations, queues, agents, samples, clips, programs, voices, noReset, noZero⟩
    exact ⟨calls, ⟨fun _ => generations, noZero⟩, ⟨fun _ => queues, noReset⟩, agents, samples, clips, programs, voices⟩

section
variable {s : State}

/-! ### The writes -/

theorem InForm.of_records {t : State} (k : InForm s) (e : records t = records s) : InForm t := by
  have kr : InForm (records s) := { k with }
  rw [← e] at kr
  exact { kr with }

theorem InForm.notify (k : InForm s) (kind : Nat) (body : List LinkField) : InForm (notify kind body s) :=
  k.of_records (records_notify ..)

theorem InForm.setQueueRec (k : InForm s) (q : Nat) (r : Queue) : InForm (setQueueRec s q r) :=
  { k with queues := k.queues.put _ id }

theorem InForm.count (k : InForm s) (q : Nat) (f : Counters → Counters) : InForm (count s q f) := k.setQueueRec ..

theorem InForm.leaveList (k : InForm s) (h q : Nat) : InForm (leaveList s h q) := k.setQueueRec ..

theorem InForm.joinList (k : InForm s) (h : Nat) (c : Call) : InForm (joinList s h c) := k.setQueueRec ..

theorem InForm.takeSample (k : InForm s) (q n : Nat) : InForm (takeSample s q n) := k.setQueueRec ..

theorem InForm.setAgentRec (k : InForm s) (a : Nat) (v : Agent) : InForm (setAgentRec s a v) :=
  { k with agents := tableRising_tableInsert _ _ k.agents }

theorem InForm.dropAgent (k : InForm s) (a : Nat) : InForm (dropAgent s a) :=
  { k with agents := tableRising_tableErase _ k.agents }

theorem InForm.enterReady (k : InForm s) (a : Nat) (v : Agent) (d : Option Time) : InForm (enterReady s a v d) :=
  { k with agents := tableRising_tableInsert _ _ k.agents }

theorem InForm.returnToPlace (k : InForm s) (a : Nat) (v : Agent) (n : Nat) : InForm (returnToPlace s a v n) :=
  { k with agents := tableRising_tableInsert _ _ k.agents }

theorem InForm.leaveReady (k : InForm s) (a : Nat) : InForm (leaveReady s a) := { k with }

theorem InForm.trimWraps (k : InForm s) (q : Nat) : InForm (trimWraps s q) :=
  { k with agents := tableRising_map _ (fun _ => rfl) k.agents }

theorem InForm.setCallRec (k : InForm s) (h : Nat) (c : Call) : InForm (setCallRec s h c) :=
  { k with calls := tableRising_tableInsert _ _ k.calls }

theorem InForm.freeCall (k : InForm s) (h : Nat) : InForm (freeCall s h) :=
  { k with calls := tableRising_tableErase _ k.calls, generations := k.generations.put _ id }

theorem InForm.setVoiceRec (k : InForm s) (v : Nat) (r : Voice) : InForm (setVoiceRec s v r) :=
  { k with voices := tableRising_tableInsert _ _ k.voices }

theorem InForm.dropVoice (k : InForm s) (v : Nat) : InForm (dropVoice s v) :=
  { k with voices := tableRising_tableErase _ k.voices }

theorem InForm.setClipRec (k : InForm s) (j : Nat) (c : Clip) : InForm (setClipRec s j c) :=
  { k with clips := tableRising_tableInsert _ _ k.clips }

theorem InForm.dropClip (k : InForm s) (j : Nat) : InForm (dropClip s j) :=
  { k with clips := tableRising_tableErase _ k.clips }

theorem InForm.changeUse (k : InForm s) (j : Nat) (f : Nat → Nat) : InForm (changeUse s j f) := by
  unfold Machine.changeUse
  split
  · exact k.setClipRec ..
  · exact k

/-- A check of an order: what is refused and what goes on. -/
theorem InForm.check {b : Prop} [Decidable b] {x y : State × Answer} (kx : InForm x.1) (ky : InForm y.1) :
    InForm (if b then x else y).1 := by
  split
  · exact kx
  · exact ky

/-! ### The surge monitor and matching -/

theorem InForm.evalSurge (k : InForm s) (q : Nat) : InForm (evalSurge q s) := by
  unfold Machine.evalSurge
  split
  · split
    · exact (k.setQueueRec ..).notify ..
    · exact k
  · split
    · unfold enterSurge
      dsimp only
      split
      · exact ((k.setQueueRec ..).trimWraps q).notify ..
      · exact (k.setQueueRec ..).notify ..
    · exact k

theorem InForm.offerWritten (k : InForm s) (h a : Nat) (c : Call) (v : Agent) (rotate : Bool) :
    InForm (offerWritten s h a c v rotate) := by
  have written := (((k.leaveList h c.queue).setCallRec h (offeredCall s a c)).leaveReady a).setAgentRec a
    { v with status := .offered h (readySeqOf s a) }
  unfold Machine.offerWritten
  dsimp only
  split
  · exact written.setQueueRec ..
  · exact written

theorem InForm.makeOffer (k : InForm s) (h a : Nat) (rotate : Bool) : InForm (makeOffer h a rotate s) := by
  cases hc : callOf s h with
  | none => rwa [makeOffer_eq_self (.inl hc)]
  | some c =>
    cases hv : agentOf s a with
    | none => rwa [makeOffer_eq_self (.inr hv)]
    | some v =>
      rw [makeOffer_eq_written hc hv]
      exact ((k.offerWritten h a c v rotate).evalSurge _).notify ..

theorem InForm.matchCall (k : InForm s) (h : Nat) : InForm (matchCall h s) := by
  rcases matchCall_cases h s with e | ⟨c, a, -, -, -, -, e⟩ <;> rw [e]
  · exact k
  · exact k.makeOffer ..

theorem InForm.matchAgent (k : InForm s) (a : Nat) : InForm (matchAgent a s) := by
  rcases matchAgent_cases a s with e | ⟨v, slot, c, -, -, e⟩ <;> rw [e]
  · exact k
  · exact k.makeOffer ..

theorem InForm.offerAgent (k : InForm s) (a : Nat) : InForm (offerAgent a s) := by
  unfold Machine.offerAgent
  split
  · exact k.matchAgent a
  · exact k

theorem InForm.reopeningPass (k : InForm s) (q : Nat) : InForm (reopeningPass q s) :=
  List.foldlRecOn _ _ k fun _ kt h _ => kt.matchCall h

theorem InForm.returnCall (k : InForm s) (h a : Nat) (c : Call) : InForm (returnCall h a c s) :=
  ((k.setCallRec ..).joinList ..).evalSurge _

/-! ### Wraps and offers that end -/

theorem InForm.enterOutcome (k : InForm s) (a : Nat) (v : Agent) (o : WrapOutcome) : InForm (enterOutcome s a v o) := by
  cases o with
  | ready => exact k.enterReady ..
  | notReady r => exact k.setAgentRec ..
  | loggedOut => exact k.dropAgent a

theorem InForm.endWrap (k : InForm s) (a : Nat) (v : Agent) (w : WrapRecord) (o : WrapOutcome) (expired : Bool) :
    InForm (endWrap a v w o expired s) := by
  have entered := (k.takeSample w.queue (wrapSample s w)).enterOutcome a v o
  have told : InForm (if expired then wrapExpiredNotice a w o
      (Machine.enterOutcome (Machine.takeSample s w.queue (wrapSample s w)) a v o)
      else Machine.enterOutcome (Machine.takeSample s w.queue (wrapSample s w)) a v o) := by
    split
    · exact entered.notify ..
    · exact entered
  cases o with
  | ready => exact told.matchAgent a
  | notReady r => exact told
  | loggedOut => exact told

theorem InForm.missOffer (k : InForm s) (h a : Nat) (c : Call) (v : Agent) : InForm (missOffer h a c v s) := by
  unfold Machine.missOffer
  dsimp only
  split
  · exact (k.setAgentRec ..).notify ..
  · exact k.enterReady ..

theorem InForm.expireOffer (k : InForm s) (h a : Nat) (c : Call) : InForm (expireOffer h a c s) := by
  have counted := (k.returnCall h a c).count c.queue fun n => { n with missedOffers := sat16 (n.missedOffers + 1) }
  unfold Machine.expireOffer
  refine InForm.offerAgent (InForm.matchCall (InForm.notify ?_ _ _) h) a
  split
  · exact counted.missOffer ..
  · exact counted

/-! ### Voices and clips in use -/

theorem InForm.startVoice (k : InForm s) (v p : Nat) (mode : VoiceMode) (segment : Segment) (i clip : Nat) :
    InForm (startVoice s v p mode segment i clip) := (k.setVoiceRec ..).changeUse ..

theorem InForm.nextClip (k : InForm s) (v : Nat) (r : Voice) (segment : Segment) (i clip : Nat) :
    InForm (nextClip v r segment i clip s) := by
  unfold Machine.nextClip moveUse
  split
  · exact k.setVoiceRec ..
  · exact ((k.changeUse ..).changeUse ..).setVoiceRec ..

theorem InForm.attach (k : InForm s) (h : Nat) : InForm (attach h s) := by
  unfold Machine.attach
  split
  · exact k
  split
  · exact k
  dsimp only
  split
  · exact (k.setCallRec ..).startVoice ..
  · split
    · split
      · exact (k.setCallRec ..).setVoiceRec ..
      · exact k
    · exact k
  · exact (k.setCallRec ..).startVoice ..
  · exact k.setCallRec ..

theorem InForm.handVoice (k : InForm s) (v : Nat) : InForm (handVoice v s) := by
  rw [handVoice_eq]
  split
  · exact k
  · next p _ =>
    have handedOver : InForm { s with calls := s.calls.map (handed v p) } :=
      { k with calls := tableRising_map _ (fun e => by unfold handed; split <;> rfl) k.calls }
    exact (handedOver.startVoice ..).notify ..

theorem InForm.freeVoice (k : InForm s) (v : Nat) : InForm (freeVoice v s) := by
  unfold Machine.freeVoice
  split
  · exact k
  · exact ((k.dropVoice v).changeUse ..).handVoice v

theorem InForm.detach (k : InForm s) (h : Nat) : InForm (detach h s) := by
  unfold Machine.detach
  split
  · exact k
  next c _ =>
  split
  · exact k
  have off := k.setCallRec h { c with voice := none, announceDue := none }
  dsimp only
  split
  · exact off
  split
  · exact off.freeVoice _
  · split
    · exact off.freeVoice _
    · exact off.setVoiceRec ..

theorem InForm.clearAwaiting (k : InForm s) (h : Nat) : InForm (clearAwaiting h s) := by
  unfold Machine.clearAwaiting
  split
  · exact k
  · exact k.setCallRec ..

theorem InForm.divertDone (k : InForm s) (h : Nat) (played : Bool) : InForm (divertDone h played s) := by
  unfold Machine.divertDone
  split
  · exact k
  next c _ =>
  split
  · have off := (k.notify 0x87 [f2 h, f4 c.tag.toNat, f1 c.queue, f1 (bit played)]).detach h
    dsimp only
    split
    · exact off
    · exact off.setCallRec ..
  · exact k

/-! ### The frame -/

theorem InForm.renewDue (k : InForm s) (h : Nat) : InForm (renewDue h s) := by
  unfold Machine.renewDue
  split
  · exact k
  · exact k.setCallRec ..

theorem InForm.nextLoop (k : InForm s) (v : Nat) (r : Voice) (p : Program) : InForm (nextLoop v r p s) := k.nextClip ..

theorem InForm.privateLoopEnd (k : InForm s) (v : Nat) (r : Voice) (p : Program) (h : Nat) :
    InForm (privateLoopEnd v r p h s) := by
  unfold Machine.privateLoopEnd
  split
  · exact k.nextLoop v r p
  split
  · split
    · exact k.nextClip ..
    · exact (k.renewDue h).nextLoop v r p
  · exact k.nextLoop v r p

theorem InForm.clipEnd (k : InForm s) (v : Nat) (r : Voice) : InForm (clipEnd v r s) := by
  unfold Machine.clipEnd
  split
  · exact k
  split
  · exact k.nextClip ..
  · split
    · exact k.privateLoopEnd ..
    · exact k.nextLoop ..
  · dsimp only
    split
    · exact (k.renewDue _).nextClip ..
    · exact k.nextClip ..
  · split
    · exact k.divertDone ..
    · exact k

theorem InForm.playVoice (k : InForm s) (v : Nat) : InForm (playVoice s v) := by
  unfold Machine.playVoice
  split
  · exact k
  split
  · exact k.setVoiceRec ..
  · exact k.clipEnd ..

theorem InForm.playFrame (k : InForm s) (order : List Nat) : InForm (playFrame order s) :=
  List.foldlRecOn _ _ (k.of_records rfl) fun _ kt v _ => kt.playVoice v

/-! ### The orders of calls -/

theorem InForm.admitCall (k : InForm s) (slot : Nat) (c : Call) : InForm (admitCall slot c s) := by
  have inserted : InForm { s with calls := tableInsert s.calls slot c, arrivals := s.arrivals + 1 } :=
    { k with calls := tableRising_tableInsert _ _ k.calls }
  have arrived := (inserted.setQueueRec c.queue { queueOf s c.queue with
    waiting := (queueOf s c.queue).waiting ++ [handleOf s slot] }).count c.queue fun n => { n with arrived := sat16 (n.arrived + 1) }
  unfold Machine.admitCall
  dsimp only
  split
  · exact arrived
  · exact (arrived.count ..).count ..

theorem InForm.handleEnqueue (k : InForm s) (tag : BitVec 32) (queue options priority : BitVec 8) (skills : BitVec 32)
    (program : BitVec 8) : InForm (handleEnqueue tag queue options priority skills program s).1 := by
  refine .check k (.check k (.check k ?_))
  split
  · exact k
  dsimp only
  split
  · exact k
  · exact (((k.admitCall ..).evalSurge _).attach _).matchCall _

theorem InForm.leavePlace (k : InForm s) (h : Nat) (c : Call) : InForm (leavePlace h c s) := by
  unfold Machine.leavePlace
  split
  · have waits := k.setCallRec h { c with status := .waiting }
    refine InForm.notify ?_ _ _
    split
    · exact waits.returnToPlace ..
    · exact waits
  · exact k.leaveList ..
  · exact k.leaveList ..
  · exact k

theorem InForm.removeCall (k : InForm s) (h : Nat) (cause : BitVec 8) (c : Call) : InForm (removeCall h cause c s) := by
  have freed := ((((k.leavePlace h c).detach h).count c.queue (countRemoved cause)).freeCall h).evalSurge c.queue
  unfold Machine.removeCall
  dsimp only
  split
  · exact freed.matchAgent _
  all_goals exact freed

theorem InForm.handleRemove (k : InForm s) (handle : BitVec 16) (cause : BitVec 8) : InForm (handleRemove handle cause s).1 := by
  refine withCall_fst k fun c _ => .check k ?_
  split
  · exact k
  all_goals exact k.removeCall ..

theorem InForm.connectCall (k : InForm s) (h a : Nat) (c : Call) : InForm (connectCall h a c s) := by
  have connected := k.setCallRec h { c with status := .connected s.now }
  refine InForm.detach (InForm.clearAwaiting (InForm.count ?_ _ _) h) h
  split
  · exact connected.setAgentRec ..
  · exact connected

theorem InForm.handleAnswer (k : InForm s) (handle agent : BitVec 16) : InForm (handleAnswer handle agent s).1 :=
  withCall_fst k fun _ _ => .check k (withOffer_fst k fun _ _ => k.connectCall ..)

theorem InForm.refusingAgent (k : InForm s) (a q : Nat) (reason : Option Nat) : InForm (refusingAgent a q reason s) := by
  unfold Machine.refusingAgent
  split
  · exact k
  split
  · exact k.setAgentRec ..
  · exact k.enterReady ..

theorem InForm.refuseCall (k : InForm s) (h a : Nat) (reason : Option Nat) (c : Call) : InForm (refuseCall h a reason c s) :=
  ((((k.returnCall h a c).count ..).refusingAgent a c.queue reason).matchCall h).offerAgent a

theorem InForm.handleRefuseOffer (k : InForm s) (handle agent : BitVec 16) (present reason : BitVec 8) :
    InForm (handleRefuseOffer handle agent present reason s).1 :=
  withCall_fst k fun _ _ => .check k (.check k (.check k (withOffer_fst k fun _ _ => k.refuseCall ..)))

theorem InForm.releaseCall (k : InForm s) (h a : Nat) (v : Agent) (c : Call) (talk : Time) : InForm (releaseCall h a v c talk s) := by
  have wrapping (w : Agent) := ((k.count c.queue fun n => { n with completed := sat16 (n.completed + 1) }).freeCall h).setAgentRec a w
  unfold Machine.releaseCall expireWrap
  dsimp only
  split
  · exact (wrapping _).endWrap ..
  · exact wrapping _

theorem InForm.handleRelease (k : InForm s) (handle : BitVec 16) : InForm (handleRelease handle s).1 := by
  refine withCall_fst k fun c _ => ?_
  split
  case h_4 =>
    dsimp only
    split
    · exact k.releaseCall ..
    · exact k
  all_goals exact k

theorem InForm.exitStarted (k : InForm s) (h p clip v : Nat) (c : Call) : InForm (exitStarted s h p clip v c) := by
  have drawn : InForm { Machine.setCallRec s h c with freeDraws := s.freeDraws + 1 } := (k.setCallRec h c).of_records rfl
  exact drawn.startVoice ..

theorem InForm.divertFromShared (k : InForm s) (h p clip : Nat) : InForm (divertFromShared h p clip s) := by
  have detached := k.detach h
  unfold Machine.divertFromShared
  dsimp only
  split
  · exact detached.exitStarted ..
  · exact detached.divertDone h false

theorem InForm.divertExit (k : InForm s) (h : Nat) (c : Call) : InForm (divertExit h c s) := by
  unfold Machine.divertExit
  split
  · split
    · exact k.nextClip ..
    · exact k.divertFromShared ..
  · exact k.divertDone h false

theorem InForm.handleDivert (k : InForm s) (handle : BitVec 16) : InForm (handleDivert handle s).1 := by
  refine withCall_fst k fun c _ => ?_
  split
  case h_4 => exact (k.setCallRec ..).divertExit ..
  all_goals exact k

theorem InForm.cancelVoice (k : InForm s) (h : Nat) (c : Call) : InForm (cancelVoice h c s) := by
  unfold Machine.cancelVoice
  split
  · split
    · exact k.nextClip ..
    · exact k
  · exact k.attach h

theorem InForm.handleCancelDivert (k : InForm s) (handle : BitVec 16) : InForm (handleCancelDivert handle s).1 := by
  refine withCall_fst k fun c _ => ?_
  split
  case h_4 => exact ((k.setCallRec ..).cancelVoice ..).matchCall _
  all_goals exact k

/-! ### The orders of agents -/

theorem InForm.handleLogin (k : InForm s) (agent : BitVec 16) (skills : BitVec 32) (auto initial reason : BitVec 8) :
    InForm (handleLogin agent skills auto initial reason s).1 := by
  refine .check k (.check k (.check k (.check k ?_)))
  split
  · exact k
  dsimp only
  split
  · exact k.setAgentRec ..
  · exact (k.enterReady ..).matchAgent _

theorem InForm.withdrawAgent (k : InForm s) (a h : Nat) (v : Agent) (reason : Option Nat) :
    InForm (withdrawAgent a h v reason s) := by
  have left {t : State} (kt : InForm t) : InForm (match reason with
      | none => Machine.dropAgent t a
      | some r => Machine.setAgentRec t a { v with status := .notReady r }) := by
    split
    · exact kt.dropAgent a
    · exact kt.setAgentRec ..
  unfold Machine.withdrawAgent
  dsimp only
  split
  · exact left k
  · exact ((left (k.returnCall ..)).notify ..).matchCall h

theorem InForm.logoutAgent (k : InForm s) (a : Nat) (v : Agent) : InForm (logoutAgent a v s) := by
  unfold Machine.logoutAgent
  split
  · exact k.dropAgent a
  · exact (k.leaveReady a).dropAgent a
  · exact k.withdrawAgent ..
  · exact k.endWrap ..
  · exact k

theorem InForm.handleLogout (k : InForm s) (agent : BitVec 16) : InForm (handleLogout agent s).1 := by
  refine .check k ?_
  split
  · exact k
  split
  · exact k
  all_goals exact k.logoutAgent ..

theorem InForm.handleSetReady (k : InForm s) (agent : BitVec 16) : InForm (handleSetReady agent s).1 := by
  refine .check k ?_
  split
  · exact k
  split
  · exact (k.enterReady ..).matchAgent _
  all_goals exact k

theorem InForm.notReadyAgent (k : InForm s) (a : Nat) (v : Agent) (reason : Nat) : InForm (notReadyAgent a v reason s) := by
  unfold Machine.notReadyAgent
  split
  · exact k.setAgentRec ..
  · exact (k.leaveReady a).setAgentRec ..
  · exact k.withdrawAgent ..
  · exact k.setAgentRec ..
  · exact k.setAgentRec ..

theorem InForm.handleSetNotReady (k : InForm s) (agent : BitVec 16) (reason : BitVec 8) :
    InForm (handleSetNotReady agent reason s).1 := by
  refine .check k (.check k ?_)
  split
  · exact k
  · exact k.notReadyAgent ..

theorem InForm.handleSetSkills (k : InForm s) (agent : BitVec 16) (skills : BitVec 32) :
    InForm (handleSetSkills agent skills s).1 := by
  refine .check k ?_
  split
  · exact k
  · exact (k.setAgentRec ..).offerAgent _

theorem InForm.handleWrapDone (k : InForm s) (agent : BitVec 16) (options : BitVec 8) (code : BitVec 16) (reason : BitVec 8) :
    InForm (handleWrapDone agent options code reason s).1 :=
  .check k (.check k (.check k (.check k (withWrap_fst k fun _ _ _ _ _ => .check k (k.endWrap ..)))))

theorem InForm.handleSetDisposition (k : InForm s) (agent code : BitVec 16) : InForm (handleSetDisposition agent code s).1 :=
  .check k (.check k (withWrap_fst k fun _ _ _ _ _ => k.setAgentRec ..))

theorem InForm.handleExtendWrap (k : InForm s) (agent : BitVec 16) : InForm (handleExtendWrap agent s).1 :=
  .check k (withWrap_fst k fun _ _ _ _ _ =>
    .check k (.check k (.check k { k with agents := tableRising_tableInsert _ _ k.agents })))

/-! ### The orders of the queues and of service -/

theorem InForm.handleSetQueue (k : InForm s) (f : QueueFields) : InForm (handleSetQueue f s).1 := by
  cases h : setQueueRefusal s f with
  | some r => rwa [handleSetQueue_of_refusal h]
  | none =>
    rw [handleSetQueue_of_accept h]
    exact k.setQueueRec ..

theorem InForm.handleSetQueueState (k : InForm s) (queue state : BitVec 8) : InForm (handleSetQueueState queue state s).1 := by
  refine .check k (.check k ?_)
  dsimp only
  split
  · exact (k.setQueueRec ..).reopeningPass _
  · exact k.setQueueRec ..

theorem InForm.handleReadQueueStatistics (k : InForm s) (queue clear : BitVec 8) :
    InForm (handleReadQueueStatistics queue clear s).1 := by
  refine .check k (.check k ?_)
  dsimp only
  split
  · exact k.setQueueRec ..
  · exact k

theorem InForm.handleStartService (k : InForm s) (silence : BitVec 8) : InForm (handleStartService silence s).1 :=
  .check k (k.of_records rfl)

theorem InForm.handleStopService (k : InForm s) : InForm (handleStopService s).1 := .check k (.check k (k.of_records rfl))

theorem InForm.trafficDropped (k : InForm s) : InForm (trafficDropped s) :=
  { k with agents := rfl, voices := rfl, clips := tableRising_map _ (fun _ => rfl) k.clips }

theorem InForm.clearAll (k : InForm s) : InForm (clearAll s) := by
  have freed : InForm (freeAllCalls s) := List.foldlRecOn _ _ k fun _ kt h _ => kt.freeCall h
  have cleared : InForm (clearQueues (freeAllCalls s)) := List.foldlRecOn _ _ freed fun _ kt q _ => kt.setQueueRec q _
  rw [clearAll_eq]
  exact cleared.trafficDropped

/-! ### The orders of clips and programs -/

theorem InForm.handleOpenClipLoad (k : InForm s) (clip : BitVec 8) (page : BitVec 16) (len : BitVec 32) :
    InForm (handleOpenClipLoad clip page len s).1 := by
  refine .check k (.check k (.check k (.check k ?_)))
  split
  · exact k
  · exact k.setClipRec ..

theorem InForm.handleClipData (k : InForm s) (clip : BitVec 8) (offset : BitVec 32) (data : List (BitVec 8)) :
    InForm (handleClipData clip offset data s).1 :=
  .check k (withLoading_fst k fun _ _ _ _ =>
    .check k { k with clips := tableRising_tableInsert _ _ k.clips, samples := wf_writeBytes _ _ k.samples })

theorem InForm.handleCloseClipLoad (k : InForm s) (clip expected : BitVec 8) : InForm (handleCloseClipLoad clip expected s).1 :=
  withLoading_fst k fun _ _ _ _ => k.setClipRec ..

theorem InForm.handleAbortClipLoad (k : InForm s) (clip : BitVec 8) : InForm (handleAbortClipLoad clip s).1 :=
  withLoading_fst k fun _ _ _ _ => k.dropClip _

theorem InForm.handleFreeClip (k : InForm s) (clip : BitVec 8) : InForm (handleFreeClip clip s).1 := by
  unfold Machine.handleFreeClip
  dsimp only
  split
  · exact k
  split
  · exact k
  · exact .check k (k.dropClip _)
  · exact k.dropClip _

theorem InForm.moveReferences (k : InForm s) (old new : List Nat) : InForm (moveReferences s old new) := by
  have given : InForm ((old.filter fun j => !new.contains j).foldl giveUse s) :=
    List.foldlRecOn _ _ k fun _ kt j _ => kt.changeUse j _
  exact List.foldlRecOn _ _ given fun _ kt j _ => kt.changeUse j _

theorem InForm.handleSetProgram (k : InForm s) (f : ProgramFields) : InForm (handleSetProgram f s).1 := by
  refine .check k ?_
  split
  · exact k
  · have moved := k.moveReferences (referredBy (programOf s f.program.toNat)) (programClips (programContent f))
    exact { moved with programs := tableRising_tableInsert _ _ moved.programs }

theorem InForm.handleDeleteProgram (k : InForm s) (program : BitVec 8) : InForm (handleDeleteProgram program s).1 := by
  refine .check k ?_
  split
  · exact k
  next r _ =>
  split
  · exact k
  · have moved := k.moveReferences (programClips r) []
    exact { moved with programs := tableRising_tableErase _ moved.programs }

/-! ### The orders -/

theorem InForm.conclude {r : State × Answer} (k : InForm r.1) (kind : Nat) : InForm (conclude kind r) :=
  k.of_records (records_conclude kind r)

theorem InForm.concludeTo {r : State × Answer} (k : InForm r.1) (dest : Dest) (kind : Nat) : InForm (concludeTo dest kind r) :=
  k.of_records (records_concludeTo dest kind r)

theorem InForm.handOverOrder (k : InForm s) (i : Instr) : InForm (handOverOrder i s) := by
  have service {g : State → State × Answer} (kind : Nat) (kg : InForm (g s).1) :
      InForm (Machine.conclude kind (serviceOnly g s)) := InForm.conclude (.check kg k) kind
  have same {r : State × Answer} (kind : Nat) (h : r.1 = s) : InForm (Machine.conclude kind r) := InForm.conclude (h ▸ k) kind
  cases i with
  | startService d b => exact (k.handleStartService b).concludeTo ..
  | stopService d => exact k.handleStopService.concludeTo ..
  | clearService d => exact InForm.concludeTo (r := handleClearService s) k.clearAll ..
  | readEngine => exact k.of_records rfl
  | setQueue f => exact (k.handleSetQueue f).conclude _
  | setQueueState d q st => exact (k.handleSetQueueState q st).concludeTo ..
  | readQueue q => exact same _ (handleReadQueue_fst q s)
  | readQueueStatistics q b => exact (k.handleReadQueueStatistics q b).conclude _
  | readWaiting q f n => exact same _ (handleReadWaiting_fst q f n s)
  | enqueue t q o p x g => exact service _ (k.handleEnqueue t q o p x g)
  | remove h b => exact service _ (k.handleRemove h b)
  | answer h a => exact service _ (k.handleAnswer h a)
  | refuseOffer h a p r => exact service _ (k.handleRefuseOffer h a p r)
  | release h => exact service _ (k.handleRelease h)
  | divert h => exact service _ (k.handleDivert h)
  | cancelDivert h => exact service _ (k.handleCancelDivert h)
  | readCall h => exact same _ (handleReadCall_fst h s)
  | login a x u i r => exact service _ (k.handleLogin a x u i r)
  | logout a => exact service _ (k.handleLogout a)
  | setReady a => exact service _ (k.handleSetReady a)
  | setNotReady a r => exact service _ (k.handleSetNotReady a r)
  | setSkills a x => exact service _ (k.handleSetSkills a x)
  | wrapDone a o c r => exact service _ (k.handleWrapDone a o c r)
  | setDisposition a c => exact service _ (k.handleSetDisposition a c)
  | extendWrap a => exact service _ (k.handleExtendWrap a)
  | readAgent a => exact same _ (handleReadAgent_fst a s)
  | readAgentStates a n => exact same _ (handleReadAgentStates_fst a n s)
  | openClipLoad j p n => exact (k.handleOpenClipLoad j p n).conclude _
  | clipData j o d => exact (k.handleClipData j o d).conclude _
  | closeClipLoad j x => exact (k.handleCloseClipLoad j x).conclude _
  | abortClipLoad j => exact (k.handleAbortClipLoad j).conclude _
  | freeClip j => exact (k.handleFreeClip j).conclude _
  | readClip j o n => exact same _ (handleReadClip_fst j o n s)
  | readClipEntry j => exact same _ (handleReadClipEntry_fst j s)
  | setProgram f => exact (k.handleSetProgram f).conclude _
  | deleteProgram p => exact (k.handleDeleteProgram p).conclude _
  | readProgram p => exact same _ (handleReadProgram_fst p s)
  | readVoice v => exact same _ (handleReadVoice_fst v s)
  | unknownKind j b => exact same _ rfl
  | _ => exact k

/-! ### Every step -/

theorem inForm_reset : InForm State.reset := ⟨rfl, tableOk_nil, tableOk_nil, rfl, rfl, rfl, rfl, rfl⟩

/-- RESETN drops the LOADING clips and takes the use counts of the others anew (R132). -/
theorem InForm.heldInReset (k : InForm s) : InForm (heldInReset s) :=
  { inForm_reset with
    samples := k.samples, clips := tableRising_map _ (fun _ => rfl) (tableRising_filter _ k.clips), programs := k.programs }

theorem stepKept_inForm : StepKept InForm where
  same _ _ k e := k.of_records e
  order i _ k := k.handOverOrder i
  play order _ k := k.playFrame order
  offer _ _ _ _ _ _ _ k := k.expireOffer ..
  wrap _ _ _ _ _ _ _ k := k.endWrap ..
  cool _ _ _ _ _ _ _ k := (k.setAgentRec ..).matchAgent _
  surge q _ _ k := k.evalSurge q
  reset := inForm_reset
  held _ k := k.heldInReset

/-- Settles O55: the form of each table is kept by every write, whatever numbers the records stand at. -/
theorem tablesStayCanonical : Obligations.TablesStayCanonical := by
  intro s t canonical e
  exact (inForm_iff t).1 (stepKept_inForm.step ((inForm_iff s).2 canonical) e)

end

end Sys2Proof.Machine
end
